-- ==== Sys2Proof/Word.lean ====
section
/-!
DEFINITION. The word types of the HJ9-A192 (00_scope.md R3, R4): bytes, 32-bit lane words, 64-bit
general words, vector registers of 64 lanes, and memories held as sparse tables of bytes.
-/
namespace Sys2Proof

/-- A byte of any memory (R3). -/
abbrev Byte := BitVec 8

/-- A 32-bit word: a lane, a constant-bank entry, a flag, a literal word (R4). -/
abbrev Word32 := BitVec 32

/-- A 64-bit word: a general register, a lane mask, a special register (R4). -/
abbrev Word64 := BitVec 64

/-- A vector register: 64 lanes of 32 bits (R4, R18). -/
abbrev Lanes := Vector Word32 64

/-- A sparse table keyed by natural numbers, its keys strictly rising. -/
abbrev Table (α : Type) := List (Nat × α)

/-- A memory: the bytes that differ from what an unlisted address reads as, addresses rising. -/
abbrev Memory := List Host.Cell

end Sys2Proof
end

