-- ==== Sys2Proof/Syntax.lean ====
section
/-!
DEFINITION. The steps of the part, one constructor of `Instr` for each row of spec/opcode_table.json:
first the events of the package (command processor, kernels, engines, links, management), then the
bundle operations of 16_opcodes.md (R302 to R312), whose operand records follow the patterns of R303.
-/
namespace Sys2Proof

/-! ## Heads and operands of bundle operations -/

/-- The eight issue slots, in header-bit order (R281). -/
inductive Slot where
  | s | a | m | v0 | v1 | x | e | y
  deriving DecidableEq, Repr

/-- What every syllable carries: its slot and its guard, N and P of R284 (R288). -/
structure Hd where
  slot : Slot
  neg  : Bool
  pred : BitVec 4
  deriving DecidableEq, Repr

/-- An operand b marked `b*` in R303: a register, a constant-bank entry or a literal word (R286, R287). -/
inductive OpB where
  | reg   (r : BitVec 6)
  | const (k : BitVec 8)
  | lit   (w : Word32)
  deriving DecidableEq, Repr

/-- Pattern G3: d g, a g, b* g. -/
structure G3 where
  hd : Hd
  d : BitVec 6
  a : BitVec 6
  b : OpB
  deriving DecidableEq, Repr

/-- Pattern G2: d g, b* g. -/
structure G2 where
  hd : Hd
  d : BitVec 6
  b : OpB
  deriving DecidableEq, Repr

/-- Pattern GI (and MI): d, a g, imm20. -/
structure GI where
  hd : Hd
  d : BitVec 6
  a : BitVec 6
  imm : BitVec 20
  deriving DecidableEq, Repr

/-- Patterns GM, GF, and the vector immediates without operand a: d, imm20. -/
structure GM where
  hd : Hd
  d : BitVec 6
  imm : BitVec 20
  deriving DecidableEq, Repr

/-- A syllable with two register fields d and a. -/
structure RR where
  hd : Hd
  d : BitVec 6
  a : BitVec 6
  deriving DecidableEq, Repr

/-- A syllable with register fields a and b. -/
structure AB where
  hd : Hd
  a : BitVec 6
  b : BitVec 6
  deriving DecidableEq, Repr

/-- A syllable with register field a. -/
structure RA where
  hd : Hd
  a : BitVec 6
  deriving DecidableEq, Repr

/-- A syllable with register field d. -/
structure RD where
  hd : Hd
  d : BitVec 6
  deriving DecidableEq, Repr

/-- SEL: G3 with a predicate in c (R318). -/
structure SelOps where
  hd : Hd
  d : BitVec 6
  a : BitVec 6
  b : OpB
  c : BitVec 4
  deriving DecidableEq, Repr

/-- Pattern PC: predicate pair d (p2d and p2d+1), a g, b* g, condition (R304). -/
structure PC where
  hd : Hd
  d : BitVec 3
  a : BitVec 6
  b : OpB
  cc : BitVec 3
  deriving DecidableEq, Repr

/-- Pattern PCI: predicate pair, a g, imm20, two-bit condition field. -/
structure PCI where
  hd : Hd
  d : BitVec 3
  a : BitVec 6
  imm : BitVec 20
  cc : BitVec 2
  deriving DecidableEq, Repr

/-- Pattern P3: predicate pair, a p, b p. -/
structure P3 where
  hd : Hd
  d : BitVec 3
  a : BitVec 4
  b : BitVec 4
  deriving DecidableEq, Repr

/-- MOV xd, ga. -/
structure MovX where
  hd : Hd
  d : BitVec 3
  a : BitVec 6
  deriving DecidableEq, Repr

/-- MOV gd, xa. -/
structure MovGX where
  hd : Hd
  d : BitVec 6
  a : BitVec 3
  deriving DecidableEq, Repr

/-- MOV md, ga. -/
structure MovM where
  hd : Hd
  d : BitVec 4
  a : BitVec 6
  deriving DecidableEq, Repr

/-- MOV gd, ma. -/
structure MovGM where
  hd : Hd
  d : BitVec 6
  a : BitVec 4
  deriving DecidableEq, Repr

/-- BR and CALL: a signed byte offset (R324); NOPN: a count (R323); TRAP: an information operand. -/
structure ImmOps where
  hd : Hd
  imm : BitVec 20
  deriving DecidableEq, Repr

/-- LOOP: trip count register, literal word, initiation interval (R329). -/
structure LoopOps where
  hd : Hd
  a : BitVec 6
  lit : Word32
  ii : BitVec 7
  deriving DecidableEq, Repr

/-- LOOPN: trip count register, literal word (R328). -/
structure LoopnOps where
  hd : Hd
  a : BitVec 6
  lit : Word32
  deriving DecidableEq, Repr

/-- SRD gd, sr (R322). -/
structure SrdOps where
  hd : Hd
  d : BitVec 6
  num : BitVec 12
  deriving DecidableEq, Repr

/-- SWR sr, ga (R322), for the registers without a row of their own. -/
structure SwrOps where
  hd : Hd
  a : BitVec 6
  num : BitVec 12
  deriving DecidableEq, Repr

/-- SWR sr.bfmtN, ga. -/
structure SwrBfmtOps where
  hd : Hd
  a : BitVec 6
  bank : BitVec 4
  deriving DecidableEq, Repr

/-- LD.raw and ST.raw, immediate offset: width code w (R306). -/
structure MIW where
  hd : Hd
  d : BitVec 6
  a : BitVec 6
  imm : BitVec 20
  w : BitVec 2
  deriving DecidableEq, Repr

/-- LD.raw and ST.raw, register offset. -/
structure MRW where
  hd : Hd
  d : BitVec 6
  a : BitVec 6
  b : OpB
  w : BitVec 2
  deriving DecidableEq, Repr

/-- Pattern V3, and the MR form of VLD and VST: d, a, b*, lane mask. -/
structure V3 where
  hd : Hd
  d : BitVec 6
  a : BitVec 6
  b : OpB
  lm : BitVec 4
  deriving DecidableEq, Repr

/-- Pattern V2: d v, a v, lane mask. -/
structure V2 where
  hd : Hd
  d : BitVec 6
  a : BitVec 6
  lm : BitVec 4
  deriving DecidableEq, Repr

/-- Pattern VB: d v, b* v, lane mask. -/
structure VB where
  hd : Hd
  d : BitVec 6
  b : OpB
  lm : BitVec 4
  deriving DecidableEq, Repr

/-- VEXT gd, va, lane. -/
structure VExtOps where
  hd : Hd
  d : BitVec 6
  a : BitVec 6
  lane : BitVec 6
  lm : BitVec 4
  deriving DecidableEq, Repr

/-- VFMA: V3 with c v and two negations (R339). -/
structure VFmaOps where
  hd : Hd
  d : BitVec 6
  a : BitVec 6
  b : OpB
  c : BitVec 6
  negP : Bool
  negA : Bool
  lm : BitVec 4
  deriving DecidableEq, Repr

/-- VCMP: mask pair d, a v, b* v, condition 0 to 3 (R342). -/
structure VCmpOps where
  hd : Hd
  d : BitVec 3
  a : BitVec 6
  b : OpB
  cc : BitVec 3
  lm : BitVec 4
  deriving DecidableEq, Repr

/-- VSEL: V3 with a mask in c (R343). -/
structure VSelOps where
  hd : Hd
  d : BitVec 6
  a : BitVec 6
  b : OpB
  c : BitVec 4
  lm : BitVec 4
  deriving DecidableEq, Repr

/-- VRED: V2 with the operation in variant[1:0] (R345). -/
structure VRedOps where
  hd : Hd
  d : BitVec 6
  a : BitVec 6
  op : BitVec 2
  lm : BitVec 4
  deriving DecidableEq, Repr

/-- VCVT: V2 with the conversion code of R308. -/
structure VCvtOps where
  hd : Hd
  d : BitVec 6
  a : BitVec 6
  code : BitVec 5
  lm : BitVec 4
  deriving DecidableEq, Repr

/-- XMOV port.op, va, vb (R347). -/
structure XStartOps where
  hd : Hd
  a : BitVec 6
  b : BitVec 6
  port : BitVec 6
  op : BitVec 5
  lm : BitVec 4
  deriving DecidableEq, Repr

/-- XMOV vd, port (R347). -/
structure XCollectOps where
  hd : Hd
  d : BitVec 6
  port : BitVec 6
  lm : BitVec 4
  deriving DecidableEq, Repr

/-- WCLAIM, WREL, OCLAIM, OREL: a slot number (R357). -/
structure SlotOps where
  hd : Hd
  k : BitVec 3
  deriving DecidableEq, Repr

/-- OLOAD k, ga, gb (R358). -/
structure OLoadOps where
  hd : Hd
  a : BitVec 6
  b : BitVec 6
  k : BitVec 3
  deriving DecidableEq, Repr

/-- WLOAD k, ga, kind (R360). -/
structure WLoadOps where
  hd : Hd
  a : BitVec 6
  k : BitVec 3
  int4 : Bool
  deriving DecidableEq, Repr

/-- MCALL tag (R366). -/
structure MCallOps where
  hd : Hd
  tag : BitVec 12
  deriving DecidableEq, Repr

/-- MCALL with split point and clip action (R366). -/
structure MCallSplitOps where
  hd : Hd
  tag : BitVec 12
  s : BitVec 3
  clip : BitVec 2
  deriving DecidableEq, Repr

/-- MCALL with sparsity code: 0 is N = 4, 1 is 8, 2 is 16 (R312, R366). -/
structure MCallSparseOps where
  hd : Hd
  tag : BitVec 12
  s : BitVec 3
  clip : BitVec 2
  n : BitVec 2
  deriving DecidableEq, Repr

/-- Pattern PM: descriptor, start cycle, barrier; element code, barrier bit, code-table slot (R389). -/
structure PumpOps where
  hd : Hd
  a : BitVec 6
  b : BitVec 6
  c : BitVec 6
  elem : BitVec 4
  bar : Bool
  ctab : BitVec 2
  deriving DecidableEq, Repr

/-- CTAB.LD: image address, start cycle, third field, code-table slot (R310, R400). -/
structure CtabOps where
  hd : Hd
  a : BitVec 6
  b : BitVec 6
  c : BitVec 6
  ctab : BitVec 2
  deriving DecidableEq, Repr

/-- TXB.WAIT pd, ga, q (R409). -/
structure TxbWaitOps where
  hd : Hd
  d : BitVec 3
  a : BitVec 6
  q : BitVec 4
  deriving DecidableEq, Repr

/-- Keystone atomics with one operand (R410). -/
structure KOps where
  hd : Hd
  d : BitVec 6
  a : BitVec 6
  b : BitVec 6
  ty : BitVec 3
  scope : BitVec 2
  deriving DecidableEq, Repr

/-- ACAS: a second operand in c (R410). -/
structure KCasOps where
  hd : Hd
  d : BitVec 6
  a : BitVec 6
  b : BitVec 6
  c : BitVec 6
  ty : BitVec 3
  scope : BitVec 2
  deriving DecidableEq, Repr

/-- AFADDB: bound in c, predicate pair in variant[8:5] (R410). -/
structure KAddbOps where
  hd : Hd
  d : BitVec 6
  a : BitVec 6
  b : BitVec 6
  c : BitVec 6
  ty : BitVec 3
  scope : BitVec 2
  pk : BitVec 3
  deriving DecidableEq, Repr

/-- RED.ADD (R415). -/
structure RedAddOps where
  hd : Hd
  a : BitVec 6
  b : BitVec 6
  ty : BitVec 3
  scope : BitVec 2
  deriving DecidableEq, Repr

/-- RED.COMB (R415). -/
structure RedCombOps where
  hd : Hd
  d : BitVec 6
  a : BitVec 6
  ty : BitVec 3
  scope : BitVec 2
  deriving DecidableEq, Repr

/-- BLK.ALLOC, BLK.XLAT, BLK.FREE: pool a, name b (R417). -/
structure BlkOps where
  hd : Hd
  d : BitVec 6
  a : BitVec 6
  b : BitVec 6
  deriving DecidableEq, Repr

/-- BLK.SHARE: a second name in c (R417). -/
structure BlkShareOps where
  hd : Hd
  d : BitVec 6
  a : BitVec 6
  b : BitVec 6
  c : BitVec 6
  deriving DecidableEq, Repr

/-- FENCE.scope, variant[5:3] (R426). -/
structure FenceOps where
  hd : Hd
  scope : BitVec 3
  deriving DecidableEq, Repr

/-- TSYNC b (R427). -/
structure TsyncOps where
  hd : Hd
  b : OpB
  deriving DecidableEq, Repr

/-- CRGN.OPEN label (R428). -/
structure CrgnOps where
  hd : Hd
  lit : Word32
  deriving DecidableEq, Repr

/-- TEST.RD gd: word w of the test record (R432). -/
structure TestRdOps where
  hd : Hd
  d : BitVec 6
  w : BitVec 2
  deriving DecidableEq, Repr

/-- MHEAD gd: word w of the captured chain value (R433). -/
structure MHeadOps where
  hd : Hd
  d : BitVec 6
  w : BitVec 3
  deriving DecidableEq, Repr

/-! ## Payloads of events -/

/-- The storage levels of R269. -/
inductive Level where
  | priv | operand | weightSlot | ring | csram | cistern | weightStore | keystone | regfile
  deriving DecidableEq, Repr

/-- The parts whose loss is fatal (R39, R239). -/
inductive Lost where
  | bank (pier shaft layer : Nat)
  | shaft (pier shaft : Nat)
  | layer (pier layer : Nat)
  | keystone (pier : Nat)
  deriving DecidableEq, Repr

/-- The units whose events the management controller counts (R268). -/
inductive UnitId where
  | core (phys : Nat)
  | column (phys mac col : Nat)
  | lane (pier shaft lane : Nat)
  | keyRow (pier row : Nat)
  | csramGranule (cluster granule : Nat)
  | weightGranule (pier granule : Nat)
  deriving DecidableEq, Repr

/-- One sample of R43: every die temperature in 1/16 °C, module power in watts averaged over 1 ms, and every
shaft temperature in 1/16 °C (shaft number 32·pier + shaft). -/
structure Sample where
  dies : List Int
  power : Nat
  shafts : Table Int
  deriving DecidableEq, Repr

/-- The hottest die; no die is below absolute zero. -/
def Sample.hottest (m : Sample) : Int := m.dies.foldl max (-4370)

/-- A firmware image (R45): its bytes, the XMSS signature over them, and the rollback counter that they hold. -/
structure Firmware where
  image : List Byte
  signature : List Byte
  rollback : Nat
  deriving DecidableEq, Repr

/-- The result of one PTP exchange (R258, R259): the offset from the grandmaster in 1/192 ns, the path's delay already
taken off, and the data set that the master behind the port announces, as IEEE 1588 orders data sets; or the peer's
request of a delay measurement (log entry 51). -/
structure PtpSync where
  offset : Int
  dataSet : List Nat
  request : Bool := false
  deriving DecidableEq, Repr

/-- A Wibin flit by its fields (R245); `crcOk` says whether the CRC of bytes 251:0 holds. What R245 gives no field for
travels beside the 256 bytes: `handle`, the receiver's handle of a DATA flit, `request`, the FSEQ from which a replay is
requested, and `coll`, that its data are a collective's (log entries 44, 93, 113). -/
structure Flit where
  type : Nat
  nsect : Nat
  fidx : Nat
  mlen : Nat
  epoch : Nat
  hops : Nat
  resent : Bool
  abortLate : Bool
  csram : Bool
  value : Word64
  dstep : BitVec 16
  srcep : BitVec 16
  seq : Nat
  stamp : Nat
  addr : BitVec 48
  payload : List Byte
  fseq : BitVec 16
  lack : BitVec 16
  handle : BitVec 48
  request : Option (BitVec 16)
  coll : Bool := false
  crcOk : Bool
  deriving DecidableEq, Repr

/-! ## The steps -/

/-- One constructor per row of spec/opcode_table.json; the rows without operands stand last. -/
inductive Instr where
  -- management and service states (02, 14)
  | calibrationComplete (offsets : Table (BitVec 16))
  | fatalLoss (part : Lost)
  | criticalTemperature (temp : Int)
  | limitSample (m : Sample)
  | limitHoldEnter (kid : Nat)
  | firmwareUpdate (img : Firmware)
  | faultLogRead (clear : Bool)
  | setFailThresholds (n winNs : Nat)
  | clusterRetest (cluster : Nat)
  | unitEventCount (unit : UnitId)
  -- queues (05)
  | queueEnable (q : Nat)
  | queueDisable (q : Nat)
  | queueResume (q : Nat)
  | queueDoorbell (q t : Nat)
  | queueAging (q : Nat)
  | copyComplete (q : Nat)
  | waitvEvaluate (q : Nat)
  | waitTimeout (q : Nat)
  -- kernels (06)
  | kernelStart (kid : Nat)
  | mailboxWrite (kid role n : Nat) (value : Word64)
  | holdRelease (kid : Nat)
  | preemptLatch (kid : Nat)
  | preemptPoint (kid : Nat)
  | drainComplete (kid : Nat)
  | resumeCycle (kid : Nat)
  | kernelEnd (kid : Nat)
  | kernelFault (kid : Nat)
  | relaunch (kid : Nat)
  | timeLimit (kid : Nat)
  | laneSubstitution (shaft : Nat)
  | testSliceStart (cluster : Nat)
  | testSliceEnd (cluster : Nat)
  | regionUnwind (kid : Nat)
  -- engines, landings and the Keystones (08, 09, 19, 20, 21): core is a physical core number
  | engineStart (core : Nat)
  | engineComplete (core : Nat)
  | resultLand (core : Nat)
  | keystoneReturn (core : Nat)
  | transformResult (core : Nat)
  | oloadComplete (core : Nat)
  | wloadComplete (core : Nat)
  | mploadWrite (core : Nat)
  | mcallCommit (core : Nat)
  | clipReexecuteDone (core : Nat)
  | epiPopComplete (core : Nat)
  | ctabLdComplete (core : Nat)
  -- beyond the boundary (09, 10, 13, 21)
  | outboundSend (core : Nat)
  | wellSectorAccept (core : Nat)
  | wellSectorDurable (i : Nat)
  | epochDurable (core : Nat)
  | serviceWellWrite (addr : Nat) (data : List Byte)
  | wellReadSectorLand (i : Nat)
  | barrierTimeout (core addr : Nat)
  -- links (13)
  | portSignalDetect (port : Nat)
  | trainingComplete (port : Nat) (lanes : BitVec 8)
  | trainingFail (port : Nat)
  | trainingRetry (port : Nat)
  | laneFail (port lane : Nat)
  | alignmentLossTimeout (port : Nat)
  | flitReceive (port : Nat) (bytes : List Byte)
  | flitReplay (port : Nat) (fseq : BitVec 16)
  | ident (port : Nat) (f : Flit)
  | time (port : Nat) (p : PtpSync)
  | data (port : Nat) (f : Flit)
  | arrive (f : Flit)
  | store (f : Flit)
  | mbox (f : Flit)
  | ack (f : Flit)
  | abort (f : Flit)
  | notice (f : Flit)
  | ackTimeout (node : Nat)
  | portRetrain (port : Nat)
  -- scalar, predicate and control (17)
  | swrRmode (o : RA)
  | swrBfmt (o : SwrBfmtOps)
  | nop (hd : Hd)
  | movG (o : G2)
  | movImm (o : GM)
  | movFimm (o : GM)
  | add (o : G3)
  | addImm (o : GI)
  | sub (o : G3)
  | subImm (o : GI)
  | and (o : G3)
  | andImm (o : GI)
  | or (o : G3)
  | orImm (o : GI)
  | xor (o : G3)
  | xorImm (o : GI)
  | shl (o : G3)
  | shlImm (o : GI)
  | shr (o : G3)
  | shrImm (o : GI)
  | sra (o : G3)
  | sraImm (o : GI)
  | mul (o : G3)
  | mulImm (o : GI)
  | mulh (o : G3)
  | mulhu (o : G3)
  | div (o : G3)
  | divu (o : G3)
  | rem (o : G3)
  | remu (o : G3)
  | min (o : G3)
  | minu (o : G3)
  | max (o : G3)
  | maxu (o : G3)
  | sel (o : SelOps)
  | cmp (o : PC)
  | cmpImm (o : PCI)
  | cmpImmUnsigned (o : PCI)
  | pand (o : P3)
  | por (o : P3)
  | pxor (o : P3)
  | pandn (o : P3)
  | movToX (o : MovX)
  | movFromX (o : MovGX)
  | movToM (o : MovM)
  | movFromM (o : MovGM)
  | movToF (o : RR)
  | movFromF (o : RR)
  | movFromLc (o : RR)
  | br (o : ImmOps)
  | call (o : ImmOps)
  | ret (hd : Hd)
  | jmpi (o : RA)
  | loop (o : LoopOps)
  | loopn (o : LoopnOps)
  | nopn (o : ImmOps)
  | srd (o : SrdOps)
  | swr (o : SwrOps)
  -- memory access (20)
  | ld (o : GI)
  | ldIndexed (o : G3)
  | ldRaw (o : MIW)
  | ldRawIndexed (o : MRW)
  | st (o : GI)
  | stIndexed (o : G3)
  | stRaw (o : MIW)
  | stRawIndexed (o : MRW)
  | vld (o : GI)
  | vldIndexed (o : V3)
  | vst (o : GI)
  | vstIndexed (o : V3)
  -- vector and transform (18)
  | vmov (o : VB)
  | vmovImm (o : GM)
  | vmovFimm (o : GM)
  | vbcast (o : V2)
  | vext (o : VExtOps)
  | vaddF32 (o : V3)
  | vaddI32 (o : V3)
  | vaddF32Imm (o : GI)
  | vaddI32Imm (o : GI)
  | vmulF32 (o : V3)
  | vmulI32 (o : V3)
  | vmulF32Imm (o : GI)
  | vmulI32Imm (o : GI)
  | vsubF32 (o : V3)
  | vsubI32 (o : V3)
  | vfma (o : VFmaOps)
  | vminF32 (o : V3)
  | vminI32 (o : V3)
  | vminN32 (o : V3)
  | vmaxF32 (o : V3)
  | vmaxI32 (o : V3)
  | vmaxN32 (o : V3)
  | vabs (o : V2)
  | vneg (o : V2)
  | vand (o : V3)
  | vor (o : V3)
  | vxor (o : V3)
  | vshl (o : V3)
  | vshr (o : V3)
  | vsra (o : V3)
  | vcmpF32 (o : VCmpOps)
  | vcmpI32 (o : VCmpOps)
  | vcmpN32 (o : VCmpOps)
  | vsel (o : VSelOps)
  | vperm (o : V3)
  | vredF32 (o : VRedOps)
  | vredI32 (o : VRedOps)
  | vredN32 (o : VRedOps)
  | vcvt (o : VCvtOps)
  | xmovStart (o : XStartOps)
  | xmovCollect (o : XCollectOps)
  -- matrix (19)
  | wclaim (o : SlotOps)
  | wrel (o : SlotOps)
  | oclaim (o : SlotOps)
  | orel (o : SlotOps)
  | oload (o : OLoadOps)
  | wload (o : WLoadOps)
  | mpload (o : AB)
  | mcall (o : MCallOps)
  | mcallSplit (o : MCallSplitOps)
  | mcallSparse (o : MCallSparseOps)
  | epiCfg (o : RA)
  | epiPop (o : RA)
  | epiSt (o : RD)
  | calRd (o : RR)
  | calWr (o : AB)
  -- engines, ownership, barriers (20)
  | pmpCp (o : PumpOps)
  | pmpGth (o : PumpOps)
  | pmpSct (o : PumpOps)
  | pmpDec (o : PumpOps)
  | pmpCmp (o : PumpOps)
  | ctabLd (o : CtabOps)
  | ownGive (o : ImmOps)
  | ownTake (o : ImmOps)
  | txbInit (o : AB)
  | txbExpect (o : AB)
  | txbArrive (o : RA)
  | txbArriveRemote (o : RA)
  | txbWait (o : TxbWaitOps)
  -- Keystone, collectives, persist (21)
  | aadd (o : KOps)
  | aincw (o : KOps)
  | afaddb (o : KAddbOps)
  | acas (o : KCasOps)
  | axchg (o : KOps)
  | amin (o : KOps)
  | amax (o : KOps)
  | aand (o : KOps)
  | aor (o : KOps)
  | axor (o : KOps)
  | redAdd (o : RedAddOps)
  | redComb (o : RedCombOps)
  | collStart (o : RA)
  | collSt (o : RR)
  | blkAlloc (o : BlkOps)
  | blkXlat (o : BlkOps)
  | blkShare (o : BlkShareOps)
  | blkFree (o : BlkOps)
  | pbarDur (hd : Hd)
  | pbarDurBarrier (o : RA)
  -- system (21)
  | fence (o : FenceOps)
  | tsync (o : TsyncOps)
  | crgnOpen (o : CrgnOps)
  | crgnClose (hd : Hd)
  | trap (o : ImmOps)
  | eret (hd : Hd)
  | done (hd : Hd)
  | testRd (o : TestRdOps)
  | mhead (o : MHeadOps)
  -- rows the table lists last
  | fetchBundle (core : Nat)
  | controlDoorbell (index : Nat)
  | periodBoundary (kid : Nat)
  | serviceCisternWrite (addr : Nat) (data : List Byte)
  | ptpManagementMessage (p : PtpSync)
  -- rows whose subject the state names: the control-ring entry at the head of the ring (ctx*), the
  -- queue whose command the command processor executes (launch to preemptRelease), the message,
  -- flag or collective first due (dataApply to collRoundLocalDone)
  | supplyGood
  | firmwareVerified
  | preserve
  | supplyLoss
  | stretchApply
  | telemetrySample
  | dispatch
  | receiptSigned
  | keystonePerform
  | holdover
  | unsync
  | domainApply
  | ctxNew
  | ctxSet
  | ctxKey
  | ctxImg
  | ctxYield
  | ctxResume
  | ctxSeal
  | ctxUnseal
  | ctxClear
  | ctxKill
  | ctxRead
  | contextSwitched
  | launch
  | copy
  | waitv
  | signalStore
  | signalAdd
  | signalMailbox
  | receipt
  | coll
  | preemptSuspend
  | preemptRelease
  | dataApply
  | flagApply
  | collEngineStart
  | collRoundLocalDone
  deriving DecidableEq, Repr

end Sys2Proof
end

