-- ==== Sys2Proof/WellFormed.lean ====
section
/-!
DEFINITION. When an instruction is well formed: its slot is one the opcode map lists (R302, R305 to
R312), its variant fields hold no reserved value (R304), and the number an event carries lies in the
range its rule gives.
-/
namespace Sys2Proof

/-- The slots S and A of R305. -/
def inSA (h : Hd) : Bool := h.slot == .s || h.slot == .a

/-- Slot A alone (R305). -/
def inA (h : Hd) : Bool := h.slot == .a

/-- Slot S alone (R305). -/
def inS (h : Hd) : Bool := h.slot == .s

/-- Slot M (R306). -/
def inM (h : Hd) : Bool := h.slot == .m

/-- Slots V0 and V1 (R307). -/
def inV (h : Hd) : Bool := h.slot == .v0 || h.slot == .v1

/-- Slot V1 alone: XMOV (R307). -/
def inV1 (h : Hd) : Bool := h.slot == .v1

/-- Slot X (R309). -/
def inX (h : Hd) : Bool := h.slot == .x

/-- Slot E (R310). -/
def inE (h : Hd) : Bool := h.slot == .e

/-- Slot Y (R311). -/
def inY (h : Hd) : Bool := h.slot == .y

/-- The number of operations a start port of R347 defines; 0 for a port that takes no start. -/
def startOps (port : BitVec 6) : Nat :=
  match port.toNat with
  | 0 => 2
  | 2 => 7
  | 5 => 6
  | 7 => 2
  | 9 => 3
  | _ => 0

/-- The result ports of R347. -/
def isResultPort (port : BitVec 6) : Bool := [1, 3, 4, 6, 8, 10].contains port.toNat

/-- Types 0 to 4: AADD, AXCHG, AMIN, AMAX (R411). -/
def tyAll (t : BitVec 3) : Bool := t.toNat ≤ 4

/-- Types N32 and N64: AINCW, AFADDB, AAND, AOR, AXOR (R411). -/
def tyNat (t : BitVec 3) : Bool := t == 1 || t == 4

/-- Types I32, N32, I64, N64: ACAS (R411). -/
def tyInt (t : BitVec 3) : Bool := t == 0 || t == 1 || t == 3 || t == 4

/-- Types of RED.ADD (R415). -/
def tyRedAdd (t : BitVec 3) : Bool := t == 0 || t == 1 || t == 2 || t == 5

/-- Types of RED.COMB (R415). -/
def tyRedComb (t : BitVec 3) : Bool := t == 0 || t == 1 || t == 2

/-- NOPN's count is 1 to 2^19 - 1 (R305). -/
def nopnOk (imm : BitVec 20) : Bool := imm != 0 && imm.toNat < 0x80000

/-- The special registers with an SWR row of their own: sr.rmode and sr.bfmt0 to 15 (R436). -/
def swrOwnRow (num : BitVec 12) : Bool := num == 0x00D || (0x020 ≤ num.toNat && num.toNat ≤ 0x02F)

/-- Well-formedness: what the decoder accepts for a bundle operation, and what ranges an event has. -/
def Instr.wf (i : Instr) : Bool :=
  match i with
  | .supplyGood | .firmwareVerified | .fatalLoss _ | .criticalTemperature _ | .preserve | .supplyLoss
  | .limitSample _ | .stretchApply | .firmwareUpdate _ | .faultLogRead _ | .telemetrySample
  | .setFailThresholds _ _ | .unitEventCount _ | .calibrationComplete _ => true
  | .limitHoldEnter _ | .kernelStart _ | .holdRelease _ | .preemptLatch _ | .preemptPoint _
  | .drainComplete _ | .resumeCycle _ | .kernelEnd _ | .kernelFault _ | .relaunch _ | .timeLimit _
  | .regionUnwind _ | .periodBoundary _ => true
  | .clusterRetest c | .testSliceStart c | .testSliceEnd c => c < 128
  | .ctxNew | .ctxSet | .ctxKey | .ctxImg | .ctxYield | .ctxResume | .ctxSeal | .ctxUnseal | .ctxClear
  | .ctxKill | .ctxRead | .contextSwitched => true
  | .controlDoorbell e => e < 64
  | .queueEnable q | .queueDisable q | .queueResume q | .queueDoorbell q _ | .queueAging q => q < 256
  | .copyComplete _ | .waitvEvaluate _ | .waitTimeout _ => true
  | .launch | .copy | .waitv | .signalStore | .signalAdd | .signalMailbox | .receipt | .coll
  | .preemptSuspend | .preemptRelease | .dispatch | .receiptSigned => true
  | .mailboxWrite _ r n _ => r < 512 && n < 8
  | .laneSubstitution sh => sh < 128
  | .engineStart c | .engineComplete c | .resultLand c | .keystoneReturn c | .transformResult c
  | .oloadComplete c | .wloadComplete c | .mploadWrite c | .mcallCommit c | .clipReexecuteDone c
  | .epiPopComplete c | .ctabLdComplete c | .outboundSend c | .wellSectorAccept c | .epochDurable c
  | .fetchBundle c | .barrierTimeout c _ => c < 640
  | .keystonePerform | .wellSectorDurable _ | .serviceWellWrite _ _ | .wellReadSectorLand _
  | .collEngineStart | .collRoundLocalDone | .serviceCisternWrite _ _ => true
  | .portSignalDetect p | .trainingComplete p _ | .trainingFail p | .trainingRetry p
  | .alignmentLossTimeout p | .flitReceive p _ | .flitReplay p _ | .ident p _ | .time p _ | .data p _
  | .portRetrain p => p < 18
  | .laneFail p l => p < 18 && l < 8
  | .dataApply | .arrive _ | .store _ | .mbox _ | .flagApply | .ack _ | .abort _ | .notice _
  | .holdover | .unsync | .domainApply | .ptpManagementMessage _ => true
  | .ackTimeout n => n < 64
  | .nop _ => true
  | .swrRmode o => inS o.hd
  | .swrBfmt o => inS o.hd
  | .movG o => inSA o.hd
  | .movImm o | .movFimm o => inSA o.hd
  | .add o | .sub o | .and o | .or o | .xor o | .shl o | .shr o | .sra o | .mul o | .mulh o | .mulhu o
  | .div o | .divu o | .rem o | .remu o | .min o | .minu o | .max o | .maxu o => inSA o.hd
  | .addImm o | .subImm o | .andImm o | .orImm o | .xorImm o | .shlImm o | .shrImm o | .sraImm o
  | .mulImm o => inSA o.hd
  | .sel o => inSA o.hd
  | .cmp o => inSA o.hd && o.cc.toNat < 6
  | .cmpImm o => inSA o.hd
  | .cmpImmUnsigned o => inSA o.hd && o.cc.toNat < 2
  | .pand o | .por o | .pxor o | .pandn o => inSA o.hd
  | .movToX o => inA o.hd
  | .movFromX o => inA o.hd
  | .movToM o => inA o.hd
  | .movFromM o => inA o.hd
  | .movToF o | .movFromF o => inA o.hd
  | .movFromLc o => inA o.hd && o.a.toNat < 6
  | .br o | .call o => inS o.hd
  | .ret hd => inS hd
  | .jmpi o => inS o.hd
  | .loop o => inS o.hd && o.ii != 0
  | .loopn o => inS o.hd
  | .nopn o => inS o.hd && nopnOk o.imm
  | .srd o => inS o.hd
  | .swr o => inS o.hd && !swrOwnRow o.num
  | .ld o | .st o | .vld o | .vst o => inM o.hd
  | .ldIndexed o | .stIndexed o => inM o.hd
  | .ldRaw o | .stRaw o => inM o.hd
  | .ldRawIndexed o | .stRawIndexed o => inM o.hd
  | .vldIndexed o | .vstIndexed o => inM o.hd
  | .vmov o => inV o.hd
  | .vmovImm o | .vmovFimm o => inV o.hd
  | .vbcast o | .vabs o | .vneg o => inV o.hd
  | .vext o => inV o.hd
  | .vaddF32Imm o | .vaddI32Imm o | .vmulF32Imm o | .vmulI32Imm o => inV o.hd
  | .vaddF32 o | .vaddI32 o | .vmulF32 o | .vmulI32 o | .vsubF32 o | .vsubI32 o | .vminF32 o
  | .vminI32 o | .vminN32 o | .vmaxF32 o | .vmaxI32 o | .vmaxN32 o | .vand o | .vor o | .vxor o
  | .vshl o | .vshr o | .vsra o | .vperm o => inV o.hd
  | .vfma o => inV o.hd
  | .vcmpF32 o | .vcmpI32 o | .vcmpN32 o => inV o.hd && o.cc.toNat < 4
  | .vsel o => inV o.hd
  | .vredF32 o | .vredI32 o | .vredN32 o => inV o.hd && o.op != 3
  | .vcvt o => inV o.hd && o.code.toNat < 9
  | .xmovStart o => inV1 o.hd && o.op.toNat < startOps o.port
  | .xmovCollect o => inV1 o.hd && isResultPort o.port
  | .wclaim o | .wrel o | .oclaim o | .orel o => inX o.hd
  | .oload o => inX o.hd
  | .wload o => inX o.hd
  | .mpload o | .calWr o => inX o.hd
  | .mcall o => inX o.hd
  | .mcallSplit o => inX o.hd && o.s != 7 && o.clip != 3
  | .mcallSparse o => inX o.hd && o.s != 7 && o.clip != 3 && o.n != 3
  | .epiCfg o | .epiPop o => inX o.hd
  | .epiSt o => inX o.hd
  | .calRd o => inX o.hd
  | .pmpCp o | .pmpGth o | .pmpSct o => inE o.hd && o.elem.toNat < 13 && o.ctab == 0
  | .pmpDec o | .pmpCmp o => inE o.hd && o.elem.toNat < 13
  | .ctabLd o => inE o.hd
  | .ownGive o | .ownTake o => inE o.hd
  | .txbInit o | .txbExpect o => inE o.hd
  | .txbArrive o | .txbArriveRemote o => inE o.hd
  | .txbWait o => inE o.hd
  | .aadd o | .axchg o | .amin o | .amax o => inE o.hd && tyAll o.ty
  | .aincw o | .aand o | .aor o | .axor o => inE o.hd && tyNat o.ty
  | .afaddb o => inE o.hd && tyNat o.ty
  | .acas o => inE o.hd && tyInt o.ty
  | .redAdd o => inE o.hd && tyRedAdd o.ty
  | .redComb o => inE o.hd && tyRedComb o.ty
  | .collStart o => inE o.hd
  | .collSt o => inE o.hd
  | .blkAlloc o | .blkXlat o | .blkFree o => inE o.hd
  | .blkShare o => inE o.hd
  | .pbarDur hd => inE hd
  | .pbarDurBarrier o => inE o.hd
  | .fence o => inY o.hd && o.scope != 0 && o.scope != 7
  | .tsync o => inY o.hd
  | .crgnOpen o => inY o.hd
  | .crgnClose hd | .eret hd | .done hd => inY hd
  | .trap o => inY o.hd
  | .testRd o => inY o.hd
  | .mhead o => inY o.hd

end Sys2Proof
end

