-- ==== Sys2Proof/Decode.lean ====
section
/-!
DEFINITION. Bundles and syllables (R281 to R289, R302 to R312): the decoder, total on any bytes and
rejecting by name, then the encoder, written from the same tables.
-/
namespace Sys2Proof

/-! ## Bytes and words -/

/-- The little-endian value of a list of bytes (R3). -/
def leNat : List Byte → Nat
  | [] => 0
  | b :: bs => b.toNat + 256 * leNat bs

/-- The `n` little-endian bytes of a number (R3). -/
def natLE : Nat → Nat → List Byte
  | 0, _ => []
  | n + 1, x => BitVec.ofNat 8 x :: natLE n (x / 256)

/-! ## Syllables -/

/-- The fields of a syllable in the register form (R284). The imm20 form regroups b, c and variant. -/
structure Fields where
  neg  : Bool
  pred : BitVec 4
  op   : BitVec 8
  d    : BitVec 6
  a    : BitVec 6
  b    : BitVec 6
  c    : BitVec 6
  var  : BitVec 10
  l    : Bool
  deriving DecidableEq, Repr

/-- The 48 bits of a syllable, bit 47 first (R284). -/
def packFields (f : Fields) : BitVec 48 :=
  (BitVec.ofBool f.neg ++ f.pred ++ f.op ++ f.d ++ f.a ++ f.b ++ f.c ++ f.var ++ BitVec.ofBool f.l)

/-- The fields of 48 bits (R284). -/
def unpackFields (w : BitVec 48) : Fields where
  neg  := w.getLsbD 47
  pred := w.extractLsb' 43 4
  op   := w.extractLsb' 35 8
  d    := w.extractLsb' 29 6
  a    := w.extractLsb' 23 6
  b    := w.extractLsb' 17 6
  c    := w.extractLsb' 11 6
  var  := w.extractLsb' 1 10
  l    := w.getLsbD 0

/-- imm20 (R284): b holds bits 19:14, c bits 13:8, variant[9:2] bits 7:0. -/
def Fields.imm (f : Fields) : BitVec 20 := f.b ++ f.c ++ f.var.extractLsb' 2 8

/-- variant2 of the imm20 form (R284). -/
def Fields.v2 (f : Fields) : BitVec 2 := f.var.extractLsb' 0 2

/-- Low `n` bits of a field. -/
def low (n : Nat) {w : Nat} (x : BitVec w) : BitVec n := x.setWidth n

/-- Operand b of an opcode marked b* (R286, R287). -/
def Fields.opB (f : Fields) (lit : Word32) : OpB :=
  if f.l then .lit lit
  else if f.var.getLsbD 9 then .const (f.var.extractLsb' 7 2 ++ f.b)
  else .reg f.b

/-- The lane mask field of slots V0, V1 and M (R286). -/
def Fields.lm (f : Fields) : BitVec 4 := f.var.extractLsb' 3 4

/-- {variant[8:7], variant[2:0]} (R307). -/
def Fields.code5 (f : Fields) : BitVec 5 := f.var.extractLsb' 7 2 ++ f.var.extractLsb' 0 3

/-- What a register field of an opcode may hold (R285). -/
inductive FieldKind where
  /-- unused: must be 0 -/
  | unused
  /-- any of 64 registers, or any number -/
  | any
  /-- a p or m register -/
  | p16
  /-- the even register of a p or m pair -/
  | pair
  /-- an x register -/
  | x8
  /-- a loop-stack level -/
  | lc6
  deriving DecidableEq, Repr

/-- Subcode 1: out of range of the file (R285, R287). -/
def FieldKind.outOfRange (k : FieldKind) (v : BitVec 6) : Bool :=
  match k with
  | .unused | .any => false
  | .p16 | .pair => v.toNat ≥ 16
  | .x8 => v.toNat ≥ 8
  | .lc6 => v.toNat ≥ 6

/-- Subcode 2: an odd pair destination (R285, R287). -/
def FieldKind.oddPair (k : FieldKind) (v : BitVec 6) : Bool := k == .pair && v.getLsbD 0

/-- Subcode 3 for a field: unused and not 0 (R285, R287). -/
def FieldKind.usedAmiss (k : FieldKind) (v : BitVec 6) : Bool := k == .unused && v != 0

/-- What an opcode does with a literal word (R287, R303). -/
inductive LitUse where
  /-- takes no literal -/
  | no
  /-- marked b*: the literal, or a constant-bank entry, may stand for b -/
  | star
  /-- marked lit req -/
  | req
  deriving DecidableEq, Repr

/-- One row of the opcode map (R305 to R312). `vmask` lists the variant bits the row, or R286's lane
mask, gives a meaning; in the imm20 form only its two low bits (variant2) are used. `reserved` is the
row's reserved values (R304); `oddVar` an odd pair named in the variant field (R410). -/
structure OpRow where
  slots    : List Slot
  code     : BitVec 8
  imm20    : Bool := false
  d        : FieldKind := .unused
  a        : FieldKind := .unused
  b        : FieldKind := .unused
  c        : FieldKind := .unused
  lit      : LitUse := .no
  vmask    : BitVec 10 := 0
  reserved : Fields → Bool := fun _ => false
  oddVar   : Fields → Bool := fun _ => false
  build    : Hd → Fields → Word32 → Instr

/-- The variant bits that have a use, given the syllable (R286): the constant index too on b*. -/
def OpRow.usedBits (r : OpRow) (f : Fields) : BitVec 10 :=
  if r.lit == .star then
    if f.var.getLsbD 9 then r.vmask ||| 0x380 else r.vmask ||| 0x200
  else r.vmask

/-- The decode subcode of R287, the lowest that applies; 0 when the fields are in order. -/
def OpRow.subcode (r : OpRow) (f : Fields) : Nat :=
  if r.d.outOfRange f.d || r.a.outOfRange f.a
      || (!r.imm20 && (r.b.outOfRange f.b || r.c.outOfRange f.c)) then 1
  else if r.d.oddPair f.d || r.oddVar f then 2
  else if r.d.usedAmiss f.d || r.a.usedAmiss f.a
      || (if r.imm20 then f.v2 &&& ~~~(low 2 r.vmask) != 0
          else r.b.usedAmiss f.b || r.c.usedAmiss f.c || f.var &&& ~~~(r.usedBits f) != 0)
      || r.reserved f then 3
  else if (r.lit == .no && f.l) || (r.lit == .req && !f.l) then 4
  else if r.lit == .star && f.l && (f.var.getLsbD 9 || f.b != 0 || f.var.extractLsb' 7 2 != 0) then 5
  else 0

/-! ## The opcode map -/

/-- Pattern G3 (R303). -/
def rowG3 (code : BitVec 8) (k : G3 → Instr) : OpRow :=
  { slots := [.s, .a], code := code, d := .any, a := .any, b := .any, lit := .star,
    build := fun h f l => k ⟨h, f.d, f.a, f.opB l⟩ }

/-- Pattern GI (R303). -/
def rowGI (code : BitVec 8) (k : GI → Instr) : OpRow :=
  { slots := [.s, .a], code := code, imm20 := true, d := .any, a := .any,
    build := fun h f _ => k ⟨h, f.d, f.a, f.imm⟩ }

/-- Patterns GM and GF (R303). -/
def rowGM (code : BitVec 8) (k : GM → Instr) : OpRow :=
  { slots := [.s, .a], code := code, imm20 := true, d := .any,
    build := fun h f _ => k ⟨h, f.d, f.imm⟩ }

/-- Pattern P3 (R303). -/
def rowP3 (code : BitVec 8) (k : P3 → Instr) : OpRow :=
  { slots := [.s, .a], code := code, d := .pair, a := .p16, b := .p16,
    build := fun h f _ => k ⟨h, f.d.extractLsb' 1 3, low 4 f.a, low 4 f.b⟩ }

/-- Slots S and A, arithmetic and compares (R305). -/
def rowsSA : List OpRow :=
  [ { slots := [.s, .a], code := 0x01, d := .any, b := .any, lit := .star,
      build := fun h f l => .movG ⟨h, f.d, f.opB l⟩ },
    rowGM 0x02 .movImm, rowGM 0x03 .movFimm,
    rowG3 0x04 .add, rowGI 0x05 .addImm, rowG3 0x06 .sub, rowGI 0x07 .subImm,
    rowG3 0x08 .and, rowGI 0x09 .andImm, rowG3 0x0A .or, rowGI 0x0B .orImm,
    rowG3 0x0C .xor, rowGI 0x0D .xorImm, rowG3 0x0E .shl, rowGI 0x0F .shlImm,
    rowG3 0x10 .shr, rowGI 0x11 .shrImm, rowG3 0x12 .sra, rowGI 0x13 .sraImm ] ++
  [ rowG3 0x14 .mul, rowGI 0x15 .mulImm, rowG3 0x16 .mulh, rowG3 0x17 .mulhu,
    rowG3 0x18 .div, rowG3 0x19 .divu, rowG3 0x1A .rem, rowG3 0x1B .remu,
    rowG3 0x1C .min, rowG3 0x1D .minu, rowG3 0x1E .max, rowG3 0x1F .maxu,
    { slots := [.s, .a], code := 0x20, d := .any, a := .any, b := .any, c := .p16, lit := .star,
      build := fun h f l => .sel ⟨h, f.d, f.a, f.opB l, low 4 f.c⟩ },
    { slots := [.s, .a], code := 0x28, d := .pair, a := .any, b := .any, lit := .star, vmask := 7,
      reserved := fun f => (low 3 f.var).toNat ≥ 6,
      build := fun h f l => .cmp ⟨h, f.d.extractLsb' 1 3, f.a, f.opB l, low 3 f.var⟩ },
    { slots := [.s, .a], code := 0x29, imm20 := true, d := .pair, a := .any, vmask := 3,
      build := fun h f _ => .cmpImm ⟨h, f.d.extractLsb' 1 3, f.a, f.imm, f.v2⟩ },
    { slots := [.s, .a], code := 0x2A, imm20 := true, d := .pair, a := .any, vmask := 3,
      reserved := fun f => f.v2.toNat ≥ 2,
      build := fun h f _ => .cmpImmUnsigned ⟨h, f.d.extractLsb' 1 3, f.a, f.imm, f.v2⟩ },
    rowP3 0x2C .pand, rowP3 0x2D .por, rowP3 0x2E .pxor, rowP3 0x2F .pandn ]

/-- Slot A alone (R305). -/
def rowsA : List OpRow :=
  [ { slots := [.a], code := 0x30, d := .x8, a := .any,
      build := fun h f _ => .movToX ⟨h, low 3 f.d, f.a⟩ },
    { slots := [.a], code := 0x31, d := .any, a := .x8,
      build := fun h f _ => .movFromX ⟨h, f.d, low 3 f.a⟩ },
    { slots := [.a], code := 0x32, d := .p16, a := .any,
      build := fun h f _ => .movToM ⟨h, low 4 f.d, f.a⟩ },
    { slots := [.a], code := 0x33, d := .any, a := .p16,
      build := fun h f _ => .movFromM ⟨h, f.d, low 4 f.a⟩ },
    { slots := [.a], code := 0x34, d := .any, a := .any,
      build := fun h f _ => .movToF ⟨h, f.d, f.a⟩ },
    { slots := [.a], code := 0x35, d := .any, a := .any,
      build := fun h f _ => .movFromF ⟨h, f.d, f.a⟩ },
    { slots := [.a], code := 0x36, d := .any, a := .lc6,
      build := fun h f _ => .movFromLc ⟨h, f.d, f.a⟩ } ]

/-- SWR decodes to the row of the register it names (R322, R436). -/
def buildSwr (h : Hd) (f : Fields) : Instr :=
  let num : BitVec 12 := low 12 f.imm
  if num == 0x00D then .swrRmode ⟨h, f.a⟩
  else if 0x020 ≤ num.toNat && num.toNat ≤ 0x02F then .swrBfmt ⟨h, f.a, low 4 num⟩
  else .swr ⟨h, f.a, num⟩

/-- Slot S alone: control and special registers (R305). -/
def rowsS : List OpRow :=
  [ { slots := [.s], code := 0x40, imm20 := true, build := fun h f _ => .br ⟨h, f.imm⟩ },
    { slots := [.s], code := 0x41, imm20 := true, build := fun h f _ => .call ⟨h, f.imm⟩ },
    { slots := [.s], code := 0x42, build := fun h _ _ => .ret h },
    { slots := [.s], code := 0x43, a := .any, build := fun h f _ => .jmpi ⟨h, f.a⟩ },
    { slots := [.s], code := 0x44, a := .any, lit := .req, vmask := 0x7F,
      reserved := fun f => low 7 f.var == 0,
      build := fun h f l => .loop ⟨h, f.a, l, low 7 f.var⟩ },
    { slots := [.s], code := 0x45, a := .any, lit := .req,
      build := fun h f l => .loopn ⟨h, f.a, l⟩ },
    { slots := [.s], code := 0x46, imm20 := true, reserved := fun f => !nopnOk f.imm,
      build := fun h f _ => .nopn ⟨h, f.imm⟩ },
    { slots := [.s], code := 0x48, imm20 := true, d := .any,
      reserved := fun f => f.imm.extractLsb' 12 8 != 0,
      build := fun h f _ => .srd ⟨h, f.d, low 12 f.imm⟩ },
    { slots := [.s], code := 0x49, imm20 := true, a := .any,
      reserved := fun f => f.imm.extractLsb' 12 8 != 0,
      build := fun h f _ => buildSwr h f } ]

/-- An MI form of slot M (R306). -/
def rowMI (code : BitVec 8) (k : GI → Instr) : OpRow :=
  { slots := [.m], code := code, imm20 := true, d := .any, a := .any,
    build := fun h f _ => k ⟨h, f.d, f.a, f.imm⟩ }

/-- Slot M (R306). -/
def rowsM : List OpRow :=
  [ rowMI 0x01 .ld,
    { rowG3 0x02 .ldIndexed with slots := [.m] },
    { slots := [.m], code := 0x03, imm20 := true, d := .any, a := .any, vmask := 3,
      build := fun h f _ => .ldRaw ⟨h, f.d, f.a, f.imm, f.v2⟩ },
    { slots := [.m], code := 0x04, d := .any, a := .any, b := .any, lit := .star, vmask := 3,
      build := fun h f l => .ldRawIndexed ⟨h, f.d, f.a, f.opB l, low 2 f.var⟩ },
    rowMI 0x05 .st,
    { rowG3 0x06 .stIndexed with slots := [.m] },
    { slots := [.m], code := 0x07, imm20 := true, d := .any, a := .any, vmask := 3,
      build := fun h f _ => .stRaw ⟨h, f.d, f.a, f.imm, f.v2⟩ },
    { slots := [.m], code := 0x08, d := .any, a := .any, b := .any, lit := .star, vmask := 3,
      build := fun h f l => .stRawIndexed ⟨h, f.d, f.a, f.opB l, low 2 f.var⟩ },
    rowMI 0x09 .vld,
    { slots := [.m], code := 0x0A, d := .any, a := .any, b := .any, lit := .star, vmask := 0x78,
      build := fun h f l => .vldIndexed ⟨h, f.d, f.a, f.opB l, f.lm⟩ },
    rowMI 0x0B .vst,
    { slots := [.m], code := 0x0C, d := .any, a := .any, b := .any, lit := .star, vmask := 0x78,
      build := fun h f l => .vstIndexed ⟨h, f.d, f.a, f.opB l, f.lm⟩ } ]

/-- Pattern V3 with R286's lane mask. -/
def rowV3 (code : BitVec 8) (k : V3 → Instr) : OpRow :=
  { slots := [.v0, .v1], code := code, d := .any, a := .any, b := .any, lit := .star, vmask := 0x78,
    build := fun h f l => k ⟨h, f.d, f.a, f.opB l, f.lm⟩ }

/-- Pattern V2 with R286's lane mask; VBCAST has the same fields. -/
def rowV2 (code : BitVec 8) (k : V2 → Instr) : OpRow :=
  { slots := [.v0, .v1], code := code, d := .any, a := .any, vmask := 0x78,
    build := fun h f _ => k ⟨h, f.d, f.a, f.lm⟩ }

/-- Patterns VI and VF with operand a. -/
def rowVI (code : BitVec 8) (k : GI → Instr) : OpRow :=
  { slots := [.v0, .v1], code := code, imm20 := true, d := .any, a := .any,
    build := fun h f _ => k ⟨h, f.d, f.a, f.imm⟩ }

/-- VMOV's immediates: operand a is 0 (R303). -/
def rowVM (code : BitVec 8) (k : GM → Instr) : OpRow :=
  { slots := [.v0, .v1], code := code, imm20 := true, d := .any,
    build := fun h f _ => k ⟨h, f.d, f.imm⟩ }

/-- VCMP (R307, R304). -/
def rowVCmp (code : BitVec 8) (k : VCmpOps → Instr) : OpRow :=
  { slots := [.v0, .v1], code := code, d := .pair, a := .any, b := .any, lit := .star, vmask := 0x7F,
    reserved := fun f => (low 3 f.var).toNat ≥ 4,
    build := fun h f l => k ⟨h, f.d.extractLsb' 1 3, f.a, f.opB l, low 3 f.var, f.lm⟩ }

/-- VRED (R307). -/
def rowVRed (code : BitVec 8) (k : VRedOps → Instr) : OpRow :=
  { slots := [.v0, .v1], code := code, d := .any, a := .any, vmask := 0x7B,
    reserved := fun f => low 2 f.var == 3,
    build := fun h f _ => k ⟨h, f.d, f.a, low 2 f.var, f.lm⟩ }

/-- Slots V0 and V1 (R307, R308, R347). -/
def rowsV : List OpRow :=
  [ { slots := [.v0, .v1], code := 0x01, d := .any, b := .any, lit := .star, vmask := 0x78,
      build := fun h f l => .vmov ⟨h, f.d, f.opB l, f.lm⟩ },
    rowVM 0x02 .vmovImm, rowVM 0x03 .vmovFimm, rowV2 0x04 .vbcast,
    { slots := [.v0, .v1], code := 0x05, d := .any, a := .any, c := .any, vmask := 0x78,
      build := fun h f _ => .vext ⟨h, f.d, f.a, f.c, f.lm⟩ },
    rowV3 0x20 .vaddF32, rowV3 0x21 .vaddI32, rowV3 0x22 .vmulF32, rowV3 0x23 .vmulI32,
    rowV3 0x24 .vsubF32, rowV3 0x25 .vsubI32,
    { slots := [.v0, .v1], code := 0x26, d := .any, a := .any, b := .any, c := .any, lit := .star,
      vmask := 0x7B,
      build := fun h f l =>
        .vfma ⟨h, f.d, f.a, f.opB l, f.c, f.var.getLsbD 0, f.var.getLsbD 1, f.lm⟩ },
    rowVI 0x28 .vaddF32Imm, rowVI 0x29 .vaddI32Imm, rowVI 0x2A .vmulF32Imm, rowVI 0x2B .vmulI32Imm ] ++
  [ rowV3 0x30 .vminF32, rowV3 0x31 .vminI32, rowV3 0x32 .vminN32,
    rowV3 0x33 .vmaxF32, rowV3 0x34 .vmaxI32, rowV3 0x35 .vmaxN32,
    rowV2 0x36 .vabs, rowV2 0x37 .vneg,
    rowV3 0x38 .vand, rowV3 0x39 .vor, rowV3 0x3A .vxor, rowV3 0x3B .vshl, rowV3 0x3C .vshr,
    rowV3 0x3D .vsra,
    rowVCmp 0x40 .vcmpF32, rowVCmp 0x41 .vcmpI32, rowVCmp 0x42 .vcmpN32,
    { slots := [.v0, .v1], code := 0x44, d := .any, a := .any, b := .any, c := .p16, lit := .star,
      vmask := 0x78, build := fun h f l => .vsel ⟨h, f.d, f.a, f.opB l, low 4 f.c, f.lm⟩ },
    rowV3 0x48 .vperm, rowVRed 0x50 .vredF32, rowVRed 0x51 .vredI32, rowVRed 0x52 .vredN32,
    { slots := [.v0, .v1], code := 0x58, d := .any, a := .any, vmask := 0x1FF,
      reserved := fun f => f.code5.toNat ≥ 9,
      build := fun h f _ => .vcvt ⟨h, f.d, f.a, f.code5, f.lm⟩ },
    { slots := [.v1], code := 0x60, a := .any, b := .any, c := .any, vmask := 0x1FF,
      reserved := fun f => f.code5.toNat ≥ startOps f.c,
      build := fun h f _ => .xmovStart ⟨h, f.a, f.b, f.c, f.code5, f.lm⟩ },
    { slots := [.v1], code := 0x61, d := .any, c := .any, vmask := 0x78,
      reserved := fun f => !isResultPort f.c,
      build := fun h f _ => .xmovCollect ⟨h, f.d, f.c, f.lm⟩ } ]

/-- A slot-naming opcode of slot X (R309). -/
def rowSlot (code : BitVec 8) (k : SlotOps → Instr) : OpRow :=
  { slots := [.x], code := code, vmask := 7, build := fun h f _ => k ⟨h, low 3 f.var⟩ }

/-- Slot X (R309, R312). -/
def rowsX : List OpRow :=
  [ rowSlot 0x01 .wclaim, rowSlot 0x02 .wrel, rowSlot 0x03 .oclaim, rowSlot 0x04 .orel,
    { slots := [.x], code := 0x08, a := .any, b := .any, vmask := 7,
      build := fun h f _ => .oload ⟨h, f.a, f.b, low 3 f.var⟩ },
    { slots := [.x], code := 0x09, a := .any, vmask := 0xF,
      build := fun h f _ => .wload ⟨h, f.a, low 3 f.var, f.var.getLsbD 3⟩ },
    { slots := [.x], code := 0x10, a := .any, b := .any,
      build := fun h f _ => .mpload ⟨h, f.a, f.b⟩ },
    { slots := [.x], code := 0x20, a := .any, b := .any,
      build := fun h f _ => .mcall ⟨h, f.a ++ f.b⟩ },
    { slots := [.x], code := 0x30, a := .any, build := fun h f _ => .epiCfg ⟨h, f.a⟩ },
    { slots := [.x], code := 0x31, a := .any, build := fun h f _ => .epiPop ⟨h, f.a⟩ },
    { slots := [.x], code := 0x32, d := .any, build := fun h f _ => .epiSt ⟨h, f.d⟩ } ] ++
  [ { slots := [.x], code := 0xE0, a := .any, b := .any, vmask := 0x1F,
      reserved := fun f => low 3 f.var == 7 || f.var.extractLsb' 3 2 == 3,
      build := fun h f _ => .mcallSplit ⟨h, f.a ++ f.b, low 3 f.var, f.var.extractLsb' 3 2⟩ },
    { slots := [.x], code := 0xE1, a := .any, b := .any, vmask := 0x7F,
      reserved := fun f => low 3 f.var == 7 || f.var.extractLsb' 3 2 == 3 || f.var.extractLsb' 5 2 == 3,
      build := fun h f _ =>
        .mcallSparse ⟨h, f.a ++ f.b, low 3 f.var, f.var.extractLsb' 3 2, f.var.extractLsb' 5 2⟩ },
    { slots := [.x], code := 0xE2, d := .any, a := .any,
      build := fun h f _ => .calRd ⟨h, f.d, f.a⟩ },
    { slots := [.x], code := 0xE3, a := .any, b := .any,
      build := fun h f _ => .calWr ⟨h, f.a, f.b⟩ } ]

/-- A pump command (R310, R389): the code-table bits are unused on the first three. -/
def rowPump (code : BitVec 8) (vmask : BitVec 10) (k : PumpOps → Instr) : OpRow :=
  { slots := [.e], code := code, a := .any, b := .any, c := .any, vmask := vmask,
    reserved := fun f => (low 4 f.var).toNat ≥ 13,
    build := fun h f _ =>
      k ⟨h, f.a, f.b, f.c, low 4 f.var, f.var.getLsbD 4, f.var.extractLsb' 5 2⟩ }

/-- A Keystone atomic with one operand (R410, R411). -/
def rowK (code : BitVec 8) (types : BitVec 3 → Bool) (k : KOps → Instr) : OpRow :=
  { slots := [.e], code := code, d := .any, a := .any, b := .any, vmask := 0x1F,
    reserved := fun f => !types (low 3 f.var),
    build := fun h f _ => k ⟨h, f.d, f.a, f.b, low 3 f.var, f.var.extractLsb' 3 2⟩ }

/-- A block operation with one name (R310, R417). -/
def rowBlk (code : BitVec 8) (k : BlkOps → Instr) : OpRow :=
  { slots := [.e], code := code, d := .any, a := .any, b := .any,
    build := fun h f _ => k ⟨h, f.d, f.a, f.b⟩ }

/-- Slot E, engines and barriers (R310). -/
def rowsE1 : List OpRow :=
  [ rowPump 0x01 0x1F .pmpCp, rowPump 0x02 0x1F .pmpGth, rowPump 0x03 0x1F .pmpSct,
    rowPump 0x04 0x7F .pmpDec, rowPump 0x05 0x7F .pmpCmp,
    { slots := [.e], code := 0x06, a := .any, b := .any, c := .any, vmask := 0x60,
      build := fun h f _ => .ctabLd ⟨h, f.a, f.b, f.c, f.var.extractLsb' 5 2⟩ },
    { slots := [.e], code := 0x08, imm20 := true,
      build := fun h f _ => .ownGive ⟨h, f.imm⟩ },
    { slots := [.e], code := 0x09, imm20 := true,
      build := fun h f _ => .ownTake ⟨h, f.imm⟩ },
    { slots := [.e], code := 0x10, a := .any, b := .any, build := fun h f _ => .txbInit ⟨h, f.a, f.b⟩ },
    { slots := [.e], code := 0x11, a := .any, b := .any,
      build := fun h f _ => .txbExpect ⟨h, f.a, f.b⟩ },
    { slots := [.e], code := 0x12, a := .any, b := .any, vmask := 1,
      reserved := fun f => if f.var.getLsbD 0 then f.a != 0 else f.b != 0,
      build := fun h f _ =>
        if f.var.getLsbD 0 then .txbArriveRemote ⟨h, f.b⟩ else .txbArrive ⟨h, f.a⟩ },
    { slots := [.e], code := 0x13, d := .pair, a := .any, vmask := 0x78,
      build := fun h f _ => .txbWait ⟨h, f.d.extractLsb' 1 3, f.a, f.lm⟩ } ]

/-- Slot E, Keystone, collectives, blocks, persist barrier (R310, R312). -/
def rowsE2 : List OpRow :=
  [ rowK 0x20 tyAll .aadd, rowK 0x21 tyNat .aincw,
    { slots := [.e], code := 0x22, d := .any, a := .any, b := .any, c := .any, vmask := 0x1FF,
      reserved := fun f => !tyNat (low 3 f.var), oddVar := fun f => f.var.getLsbD 5,
      build := fun h f _ => .afaddb
        ⟨h, f.d, f.a, f.b, f.c, low 3 f.var, f.var.extractLsb' 3 2, f.var.extractLsb' 6 3⟩ },
    { slots := [.e], code := 0x23, d := .any, a := .any, b := .any, c := .any, vmask := 0x1F,
      reserved := fun f => !tyInt (low 3 f.var),
      build := fun h f _ => .acas ⟨h, f.d, f.a, f.b, f.c, low 3 f.var, f.var.extractLsb' 3 2⟩ },
    rowK 0x24 tyAll .axchg, rowK 0x25 tyAll .amin, rowK 0x26 tyAll .amax,
    rowK 0x27 tyNat .aand, rowK 0x28 tyNat .aor, rowK 0x29 tyNat .axor,
    { slots := [.e], code := 0x30, a := .any, b := .any, vmask := 0x1F,
      reserved := fun f => !tyRedAdd (low 3 f.var),
      build := fun h f _ => .redAdd ⟨h, f.a, f.b, low 3 f.var, f.var.extractLsb' 3 2⟩ },
    { slots := [.e], code := 0x31, d := .any, a := .any, vmask := 0x1F,
      reserved := fun f => !tyRedComb (low 3 f.var),
      build := fun h f _ => .redComb ⟨h, f.d, f.a, low 3 f.var, f.var.extractLsb' 3 2⟩ },
    { slots := [.e], code := 0x38, a := .any, build := fun h f _ => .collStart ⟨h, f.a⟩ },
    { slots := [.e], code := 0x39, d := .any, a := .any, build := fun h f _ => .collSt ⟨h, f.d, f.a⟩ },
    rowBlk 0x40 .blkAlloc, rowBlk 0x41 .blkXlat,
    { slots := [.e], code := 0x42, d := .any, a := .any, b := .any, c := .any,
      build := fun h f _ => .blkShare ⟨h, f.d, f.a, f.b, f.c⟩ },
    rowBlk 0x43 .blkFree,
    { slots := [.e], code := 0xE0, a := .any, vmask := 1,
      reserved := fun f => !f.var.getLsbD 0 && f.a != 0,
      build := fun h f _ => if f.var.getLsbD 0 then .pbarDurBarrier ⟨h, f.a⟩ else .pbarDur h } ]

/-- Slot Y (R311, R312). -/
def rowsY : List OpRow :=
  [ { slots := [.y], code := 0x01, vmask := 0x38,
      reserved := fun f => f.var.extractLsb' 3 3 == 0 || f.var.extractLsb' 3 3 == 7,
      build := fun h f _ => .fence ⟨h, f.var.extractLsb' 3 3⟩ },
    { slots := [.y], code := 0x02, b := .any, lit := .star,
      build := fun h f l => .tsync ⟨h, f.opB l⟩ },
    { slots := [.y], code := 0x08, lit := .req, build := fun h _ l => .crgnOpen ⟨h, l⟩ },
    { slots := [.y], code := 0x09, build := fun h _ _ => .crgnClose h },
    { slots := [.y], code := 0x10, imm20 := true, build := fun h f _ => .trap ⟨h, f.imm⟩ },
    { slots := [.y], code := 0x11, build := fun h _ _ => .eret h },
    { slots := [.y], code := 0x12, build := fun h _ _ => .done h },
    { slots := [.y], code := 0x18, d := .any, vmask := 3,
      build := fun h f _ => .testRd ⟨h, f.d, low 2 f.var⟩ },
    { slots := [.y], code := 0xE0, d := .any, vmask := 7,
      build := fun h f _ => .mhead ⟨h, f.d, low 3 f.var⟩ } ]

/-- The rows of one slot. -/
def opRows (sl : Slot) : List OpRow :=
  match sl with
  | .s => rowsSA ++ rowsS
  | .a => rowsSA ++ rowsA
  | .m => rowsM
  | .v0 | .v1 => rowsV
  | .x => rowsX
  | .e => rowsE1 ++ rowsE2
  | .y => rowsY

/-- The row of an opcode in a slot, if the opcode map lists one (R302). -/
def findRow (sl : Slot) (op : BitVec 8) : Option OpRow :=
  (opRows sl).find? (fun r => r.slots.contains sl && r.code == op)

/-! ## Decoding -/

/-- What one syllable decodes to (R302). -/
inductive SlotWord where
  /-- an instruction, its fields in order -/
  | instr (i : Instr)
  /-- an extension opcode of no extension: EMULATE at step 4 of R289 when enabled -/
  | emulate
  /-- an unassigned base opcode: ILLEGAL_OPCODE, KIND 0 -/
  | unassigned
  /-- a field fault: ILLEGAL_OPERAND, class 0xA, with its subcode (R287) -/
  | fieldFault (sub : Nat)
  deriving DecidableEq, Repr

/-- The head of a syllable: its guard (R284, R288). -/
def headOf (sl : Slot) (w : BitVec 48) : Hd := ⟨sl, (unpackFields w).neg, (unpackFields w).pred⟩

/-- Decodes one syllable and its literal word (R284 to R289, R302). -/
def decodeSyllable (sl : Slot) (w : BitVec 48) (lit : Word32) : SlotWord :=
  let f := unpackFields w
  if f.op == 0 then .instr (.nop ⟨sl, f.neg, f.pred⟩)
  else
    match findRow sl f.op with
    | none => if f.op.toNat ≥ 0xE0 then .emulate else .unassigned
    | some r =>
      match r.subcode f with
      | 0 => .instr (r.build ⟨sl, f.neg, f.pred⟩ f lit)
      | sub => .fieldFault sub

/-- One syllable of a bundle: its slot, its 48 bits, its literal word (0 if L = 0). -/
structure Syllable where
  slot : Slot
  word : BitVec 48
  lit  : Word32
  deriving DecidableEq, Repr

/-- What the syllable decodes to. -/
def Syllable.decoded (y : Syllable) : SlotWord := decodeSyllable y.slot y.word y.lit

/-- A fetched bundle: its syllables in ascending slot order, and its length in bytes (R281). -/
structure Bundle where
  syls : List Syllable
  len  : Nat
  deriving DecidableEq, Repr

/-- The slots in header-bit order (R281). -/
def allSlots : List Slot := [.s, .a, .m, .v0, .v1, .x, .e, .y]

/-- The number of a slot, which is its header bit (R281, R263). -/
def Slot.num : Slot → Nat
  | .s => 0 | .a => 1 | .m => 2 | .v0 => 3 | .v1 => 4 | .x => 5 | .e => 6 | .y => 7

/-- The slots a header byte names (R281). -/
def headerSlots (h : Byte) : List Slot := allSlots.filter (fun sl => h.getLsbD sl.num)

/-- Takes one 6-byte syllable for each slot; none when the line ends first (R282). -/
def takeSyllables : List Slot → List Byte → Option (List (Slot × BitVec 48) × List Byte)
  | [], bs => some ([], bs)
  | sl :: ss, bs =>
    if (bs.take 6).length < 6 then none
    else
      match takeSyllables ss (bs.drop 6) with
      | none => none
      | some (ys, rest) => some ((sl, BitVec.ofNat 48 (leNat (bs.take 6))) :: ys, rest)

/-- Takes one literal word for each syllable whose bit 0 is 1; none when the line ends first (R282). -/
def takeLiterals : List (Slot × BitVec 48) → List Byte → Option (List Syllable × List Byte)
  | [], bs => some ([], bs)
  | (sl, w) :: ys, bs =>
    if w.getLsbD 0 then
      if (bs.take 4).length < 4 then none
      else
        match takeLiterals ys (bs.drop 4) with
        | none => none
        | some (zs, rest) => some (⟨sl, w, BitVec.ofNat 32 (leNat (bs.take 4))⟩ :: zs, rest)
    else
      match takeLiterals ys bs with
      | none => none
      | some (zs, rest) => some (⟨sl, w, 0⟩ :: zs, rest)

/-- Why bytes are no bundle. -/
inductive BundleError where
  /-- the header is 0: a line pad (R281) -/
  | pad
  /-- the bundle overruns its fetch line: ILLEGAL_OPCODE, KIND 1 (R282) -/
  | overrun
  /-- there is no header byte -/
  | empty
  deriving DecidableEq, Repr

/-- Decodes a bundle from the bytes between its header and the end of its fetch line (R282). -/
def decodeBundle (bs : List Byte) : Except BundleError Bundle :=
  match bs with
  | [] => .error .empty
  | h :: rest =>
    if h == 0 then .error .pad
    else
      match takeSyllables (headerSlots h) rest with
      | none => .error .overrun
      | some (ys, rest2) =>
        match takeLiterals ys rest2 with
        | none => .error .overrun
        | some (zs, rest3) => .ok ⟨zs, bs.length - rest3.length⟩

/-- The 64 bytes of the fetch line that begins with the bits of `w`, first byte lowest. -/
def lineOf (nbits w : Nat) : List Byte := natLE 64 (w % 2 ^ nbits)

/-- The instruction the decoder reads from a bundle that holds one syllable alone. -/
def decodeAlone (bs : List Byte) : Option Instr :=
  match decodeBundle bs with
  | .ok ⟨[y], _⟩ =>
    match y.decoded with
    | .instr i => some i
    | .emulate | .unassigned | .fieldFault _ => none
  | .ok ⟨[], _⟩ | .ok ⟨_ :: _ :: _, _⟩ | .error _ => none

/-- The instruction of a table word: its bits stand in a fetch line as the hardware stores them, with
the header byte first (R281). -/
def decodeTableWord (nbits w : Nat) : Option Instr := decodeAlone (lineOf nbits w)

/-! ## Encoding -/

/-- An encoded syllable: its slot, its bits, and its literal word where it has one. -/
structure Encoded where
  slot : Slot
  word : BitVec 48
  lit  : Option Word32
  deriving DecidableEq, Repr

/-- A register-form syllable without a literal. -/
def encR (h : Hd) (op : BitVec 8) (d a b c : BitVec 6) (var : BitVec 10) : Encoded :=
  ⟨h.slot, packFields ⟨h.neg, h.pred, op, d, a, b, c, var, false⟩, none⟩

/-- A register-form syllable with a literal word. -/
def encL (h : Hd) (op : BitVec 8) (d a b c : BitVec 6) (var : BitVec 10) (lit : Word32) : Encoded :=
  ⟨h.slot, packFields ⟨h.neg, h.pred, op, d, a, b, c, var, true⟩, some lit⟩

/-- A register-form syllable whose operand b is marked b* (R286, R287). -/
def encB (h : Hd) (op : BitVec 8) (d a : BitVec 6) (b : OpB) (c : BitVec 6) (var : BitVec 10) : Encoded :=
  match b with
  | .reg r => encR h op d a r c var
  | .const k =>
    encR h op d a (low 6 k) c (var ||| (1#1 ++ k.extractLsb' 6 2 ++ 0#7))
  | .lit w => encL h op d a 0 c var w

/-- An imm20-form syllable (R284). -/
def encI (h : Hd) (op : BitVec 8) (d a : BitVec 6) (imm : BitVec 20) (v2 : BitVec 2) : Encoded :=
  encR h op d a (imm.extractLsb' 14 6) (imm.extractLsb' 8 6) (imm.extractLsb' 0 8 ++ v2)

/-- The even register of a pair. -/
def pairField (k : BitVec 3) : BitVec 6 := 0#2 ++ k ++ 0#1

/-- A small field in the low bits of a six-bit field. -/
def widen {w : Nat} (x : BitVec w) : BitVec 6 := x.setWidth 6

/-- A lane mask, or another 4-bit value, in variant[6:3]. -/
def varM (lm : BitVec 4) (lo : BitVec 3) : BitVec 10 := 0#3 ++ lm ++ lo

/-- {variant[8:7], variant[2:0]} with a lane mask between. -/
def varC (code : BitVec 5) (lm : BitVec 4) : BitVec 10 :=
  0#1 ++ code.extractLsb' 3 2 ++ lm ++ code.extractLsb' 0 3

/-- A type and a scope (R410). -/
def varT (hi : BitVec 5) (ty : BitVec 3) (scope : BitVec 2) : BitVec 10 := hi ++ scope ++ ty

/-- Low bits of the variant field. -/
def varL {w : Nat} (x : BitVec w) : BitVec 10 := x.setWidth 10

/-- The variant of a pump command (R310). -/
def varP (o : PumpOps) : BitVec 10 := 0#3 ++ o.ctab ++ BitVec.ofBool o.bar ++ o.elem

def encG3 (op : BitVec 8) (o : G3) : Encoded := encB o.hd op o.d o.a o.b 0 0
def encGI (op : BitVec 8) (o : GI) : Encoded := encI o.hd op o.d o.a o.imm 0
def encGM (op : BitVec 8) (o : GM) : Encoded := encI o.hd op o.d 0 o.imm 0
def encP3 (op : BitVec 8) (o : P3) : Encoded := encR o.hd op (pairField o.d) (widen o.a) (widen o.b) 0 0
def encV3 (op : BitVec 8) (o : V3) : Encoded := encB o.hd op o.d o.a o.b 0 (varM o.lm 0)
def encV2 (op : BitVec 8) (o : V2) : Encoded := encR o.hd op o.d o.a 0 0 (varM o.lm 0)
def encVCmp (op : BitVec 8) (o : VCmpOps) : Encoded :=
  encB o.hd op (pairField o.d) o.a o.b 0 (varM o.lm o.cc)
def encVRed (op : BitVec 8) (o : VRedOps) : Encoded :=
  encR o.hd op o.d o.a 0 0 (varM o.lm (0#1 ++ o.op))
def encPump (op : BitVec 8) (o : PumpOps) : Encoded := encR o.hd op 0 o.a o.b o.c (varP o)
def encK (op : BitVec 8) (o : KOps) : Encoded := encR o.hd op o.d o.a o.b 0 (varT 0 o.ty o.scope)
def encBlk (op : BitVec 8) (o : BlkOps) : Encoded := encR o.hd op o.d o.a o.b 0 0
def encSlot (op : BitVec 8) (o : SlotOps) : Encoded := encR o.hd op 0 0 0 0 (varL o.k)

/-- The syllable of a bundle operation; none for an event of the package, which no code names. -/
def encodeSyllable (i : Instr) : Option Encoded :=
  match i with
  | .supplyGood | .firmwareVerified | .calibrationComplete _ | .fatalLoss _ | .criticalTemperature _
  | .preserve | .supplyLoss | .limitSample _ | .stretchApply | .limitHoldEnter _ | .firmwareUpdate _
  | .faultLogRead _ | .telemetrySample | .setFailThresholds _ _ | .clusterRetest _
  | .unitEventCount _ => none
  | .ctxNew | .ctxSet | .ctxKey | .ctxImg | .ctxYield | .ctxResume | .ctxSeal
  | .ctxUnseal | .ctxClear | .ctxKill | .ctxRead | .contextSwitched => none
  | .queueEnable _ | .queueDisable _ | .queueResume _ | .queueDoorbell _ _ | .dispatch | .queueAging _
  | .launch | .copy | .copyComplete _ | .waitv | .waitvEvaluate _ | .waitTimeout _
  | .signalStore | .signalAdd | .signalMailbox | .receipt | .receiptSigned | .coll
  | .preemptSuspend | .preemptRelease => none
  | .kernelStart _ | .mailboxWrite _ _ _ _ | .holdRelease _ | .preemptLatch _ | .preemptPoint _
  | .drainComplete _ | .resumeCycle _ | .kernelEnd _ | .kernelFault _ | .relaunch _ | .timeLimit _
  | .laneSubstitution _ | .testSliceStart _ | .testSliceEnd _ | .regionUnwind _ => none
  | .engineStart _ | .engineComplete _ | .resultLand _ | .keystonePerform | .keystoneReturn _
  | .transformResult _ | .oloadComplete _ | .wloadComplete _ | .mploadWrite _ | .mcallCommit _
  | .clipReexecuteDone _ | .epiPopComplete _ | .ctabLdComplete _ => none
  | .outboundSend _ | .wellSectorAccept _ | .wellSectorDurable _ | .epochDurable _
  | .serviceWellWrite _ _ | .wellReadSectorLand _ | .barrierTimeout _ _ | .collEngineStart
  | .collRoundLocalDone => none
  | .portSignalDetect _ | .trainingComplete _ _ | .trainingFail _ | .trainingRetry _ | .laneFail _ _
  | .alignmentLossTimeout _ | .flitReceive _ _ | .flitReplay _ _ | .ident _ _ | .time _ _ | .data _ _
  | .dataApply | .arrive _ | .store _ | .mbox _ | .flagApply | .ack _ | .abort _ | .notice _
  | .ackTimeout _ | .holdover | .unsync | .domainApply | .portRetrain _ => none
  | .fetchBundle _ | .controlDoorbell _ | .periodBoundary _ | .serviceCisternWrite _ _
  | .ptpManagementMessage _ => none
  | .swrRmode o => some (encI o.hd 0x49 0 o.a 0x0000D 0)
  | .swrBfmt o => some (encI o.hd 0x49 0 o.a (0x0002#16 ++ o.bank) 0)
  | .nop hd => some (encR hd 0 0 0 0 0 0)
  | .movG o => some (encB o.hd 0x01 o.d 0 o.b 0 0)
  | .movImm o => some (encGM 0x02 o)
  | .movFimm o => some (encGM 0x03 o)
  | .add o => some (encG3 0x04 o)
  | .addImm o => some (encGI 0x05 o)
  | .sub o => some (encG3 0x06 o)
  | .subImm o => some (encGI 0x07 o)
  | .and o => some (encG3 0x08 o)
  | .andImm o => some (encGI 0x09 o)
  | .or o => some (encG3 0x0A o)
  | .orImm o => some (encGI 0x0B o)
  | .xor o => some (encG3 0x0C o)
  | .xorImm o => some (encGI 0x0D o)
  | .shl o => some (encG3 0x0E o)
  | .shlImm o => some (encGI 0x0F o)
  | .shr o => some (encG3 0x10 o)
  | .shrImm o => some (encGI 0x11 o)
  | .sra o => some (encG3 0x12 o)
  | .sraImm o => some (encGI 0x13 o)
  | .mul o => some (encG3 0x14 o)
  | .mulImm o => some (encGI 0x15 o)
  | .mulh o => some (encG3 0x16 o)
  | .mulhu o => some (encG3 0x17 o)
  | .div o => some (encG3 0x18 o)
  | .divu o => some (encG3 0x19 o)
  | .rem o => some (encG3 0x1A o)
  | .remu o => some (encG3 0x1B o)
  | .min o => some (encG3 0x1C o)
  | .minu o => some (encG3 0x1D o)
  | .max o => some (encG3 0x1E o)
  | .maxu o => some (encG3 0x1F o)
  | .sel o => some (encB o.hd 0x20 o.d o.a o.b (widen o.c) 0)
  | .cmp o => some (encB o.hd 0x28 (pairField o.d) o.a o.b 0 (varL o.cc))
  | .cmpImm o => some (encI o.hd 0x29 (pairField o.d) o.a o.imm o.cc)
  | .cmpImmUnsigned o => some (encI o.hd 0x2A (pairField o.d) o.a o.imm o.cc)
  | .pand o => some (encP3 0x2C o)
  | .por o => some (encP3 0x2D o)
  | .pxor o => some (encP3 0x2E o)
  | .pandn o => some (encP3 0x2F o)
  | .movToX o => some (encR o.hd 0x30 (widen o.d) o.a 0 0 0)
  | .movFromX o => some (encR o.hd 0x31 o.d (widen o.a) 0 0 0)
  | .movToM o => some (encR o.hd 0x32 (widen o.d) o.a 0 0 0)
  | .movFromM o => some (encR o.hd 0x33 o.d (widen o.a) 0 0 0)
  | .movToF o => some (encR o.hd 0x34 o.d o.a 0 0 0)
  | .movFromF o => some (encR o.hd 0x35 o.d o.a 0 0 0)
  | .movFromLc o => some (encR o.hd 0x36 o.d o.a 0 0 0)
  | .br o => some (encI o.hd 0x40 0 0 o.imm 0)
  | .call o => some (encI o.hd 0x41 0 0 o.imm 0)
  | .ret hd => some (encR hd 0x42 0 0 0 0 0)
  | .jmpi o => some (encR o.hd 0x43 0 o.a 0 0 0)
  | .loop o => some (encL o.hd 0x44 0 o.a 0 0 (varL o.ii) o.lit)
  | .loopn o => some (encL o.hd 0x45 0 o.a 0 0 0 o.lit)
  | .nopn o => some (encI o.hd 0x46 0 0 o.imm 0)
  | .srd o => some (encI o.hd 0x48 o.d 0 (0#8 ++ o.num) 0)
  | .swr o => some (encI o.hd 0x49 0 o.a (0#8 ++ o.num) 0)
  | .ld o => some (encGI 0x01 o)
  | .ldIndexed o => some (encG3 0x02 o)
  | .ldRaw o => some (encI o.hd 0x03 o.d o.a o.imm o.w)
  | .ldRawIndexed o => some (encB o.hd 0x04 o.d o.a o.b 0 (varL o.w))
  | .st o => some (encGI 0x05 o)
  | .stIndexed o => some (encG3 0x06 o)
  | .stRaw o => some (encI o.hd 0x07 o.d o.a o.imm o.w)
  | .stRawIndexed o => some (encB o.hd 0x08 o.d o.a o.b 0 (varL o.w))
  | .vld o => some (encGI 0x09 o)
  | .vldIndexed o => some (encV3 0x0A o)
  | .vst o => some (encGI 0x0B o)
  | .vstIndexed o => some (encV3 0x0C o)
  | .vmov o => some (encB o.hd 0x01 o.d 0 o.b 0 (varM o.lm 0))
  | .vmovImm o => some (encGM 0x02 o)
  | .vmovFimm o => some (encGM 0x03 o)
  | .vbcast o => some (encV2 0x04 o)
  | .vext o => some (encR o.hd 0x05 o.d o.a 0 o.lane (varM o.lm 0))
  | .vaddF32 o => some (encV3 0x20 o)
  | .vaddI32 o => some (encV3 0x21 o)
  | .vaddF32Imm o => some (encGI 0x28 o)
  | .vaddI32Imm o => some (encGI 0x29 o)
  | .vmulF32 o => some (encV3 0x22 o)
  | .vmulI32 o => some (encV3 0x23 o)
  | .vmulF32Imm o => some (encGI 0x2A o)
  | .vmulI32Imm o => some (encGI 0x2B o)
  | .vsubF32 o => some (encV3 0x24 o)
  | .vsubI32 o => some (encV3 0x25 o)
  | .vfma o => some (encB o.hd 0x26 o.d o.a o.b o.c
      (varM o.lm (0#1 ++ BitVec.ofBool o.negA ++ BitVec.ofBool o.negP)))
  | .vminF32 o => some (encV3 0x30 o)
  | .vminI32 o => some (encV3 0x31 o)
  | .vminN32 o => some (encV3 0x32 o)
  | .vmaxF32 o => some (encV3 0x33 o)
  | .vmaxI32 o => some (encV3 0x34 o)
  | .vmaxN32 o => some (encV3 0x35 o)
  | .vabs o => some (encV2 0x36 o)
  | .vneg o => some (encV2 0x37 o)
  | .vand o => some (encV3 0x38 o)
  | .vor o => some (encV3 0x39 o)
  | .vxor o => some (encV3 0x3A o)
  | .vshl o => some (encV3 0x3B o)
  | .vshr o => some (encV3 0x3C o)
  | .vsra o => some (encV3 0x3D o)
  | .vcmpF32 o => some (encVCmp 0x40 o)
  | .vcmpI32 o => some (encVCmp 0x41 o)
  | .vcmpN32 o => some (encVCmp 0x42 o)
  | .vsel o => some (encB o.hd 0x44 o.d o.a o.b (widen o.c) (varM o.lm 0))
  | .vperm o => some (encV3 0x48 o)
  | .vredF32 o => some (encVRed 0x50 o)
  | .vredI32 o => some (encVRed 0x51 o)
  | .vredN32 o => some (encVRed 0x52 o)
  | .vcvt o => some (encR o.hd 0x58 o.d o.a 0 0 (varC o.code o.lm))
  | .xmovStart o => some (encR o.hd 0x60 0 o.a o.b o.port (varC o.op o.lm))
  | .xmovCollect o => some (encR o.hd 0x61 o.d 0 0 o.port (varM o.lm 0))
  | .wclaim o => some (encSlot 0x01 o)
  | .wrel o => some (encSlot 0x02 o)
  | .oclaim o => some (encSlot 0x03 o)
  | .orel o => some (encSlot 0x04 o)
  | .oload o => some (encR o.hd 0x08 0 o.a o.b 0 (varL o.k))
  | .wload o => some (encR o.hd 0x09 0 o.a 0 0 (0#6 ++ BitVec.ofBool o.int4 ++ o.k))
  | .mpload o => some (encR o.hd 0x10 0 o.a o.b 0 0)
  | .mcall o => some (encR o.hd 0x20 0 (o.tag.extractLsb' 6 6) (low 6 o.tag) 0 0)
  | .mcallSplit o => some (encR o.hd 0xE0 0 (o.tag.extractLsb' 6 6) (low 6 o.tag) 0 (varT 0 o.s o.clip))
  | .mcallSparse o =>
    some (encR o.hd 0xE1 0 (o.tag.extractLsb' 6 6) (low 6 o.tag) 0 (varT (0#3 ++ o.n) o.s o.clip))
  | .epiCfg o => some (encR o.hd 0x30 0 o.a 0 0 0)
  | .epiPop o => some (encR o.hd 0x31 0 o.a 0 0 0)
  | .epiSt o => some (encR o.hd 0x32 o.d 0 0 0 0)
  | .calRd o => some (encR o.hd 0xE2 o.d o.a 0 0 0)
  | .calWr o => some (encR o.hd 0xE3 0 o.a o.b 0 0)
  | .pmpCp o => some (encPump 0x01 o)
  | .pmpGth o => some (encPump 0x02 o)
  | .pmpSct o => some (encPump 0x03 o)
  | .pmpDec o => some (encPump 0x04 o)
  | .pmpCmp o => some (encPump 0x05 o)
  | .ctabLd o => some (encR o.hd 0x06 0 o.a o.b o.c (0#3 ++ o.ctab ++ 0#5))
  | .ownGive o => some (encI o.hd 0x08 0 0 o.imm 0)
  | .ownTake o => some (encI o.hd 0x09 0 0 o.imm 0)
  | .txbInit o => some (encR o.hd 0x10 0 o.a o.b 0 0)
  | .txbExpect o => some (encR o.hd 0x11 0 o.a o.b 0 0)
  | .txbArrive o => some (encR o.hd 0x12 0 o.a 0 0 0)
  | .txbArriveRemote o => some (encR o.hd 0x12 0 0 o.a 0 1)
  | .txbWait o => some (encR o.hd 0x13 (pairField o.d) o.a 0 0 (varM o.q 0))
  | .aadd o => some (encK 0x20 o)
  | .aincw o => some (encK 0x21 o)
  | .afaddb o => some (encR o.hd 0x22 o.d o.a o.b o.c (varT (0#1 ++ o.pk ++ 0#1) o.ty o.scope))
  | .acas o => some (encR o.hd 0x23 o.d o.a o.b o.c (varT 0 o.ty o.scope))
  | .axchg o => some (encK 0x24 o)
  | .amin o => some (encK 0x25 o)
  | .amax o => some (encK 0x26 o)
  | .aand o => some (encK 0x27 o)
  | .aor o => some (encK 0x28 o)
  | .axor o => some (encK 0x29 o)
  | .redAdd o => some (encR o.hd 0x30 0 o.a o.b 0 (varT 0 o.ty o.scope))
  | .redComb o => some (encR o.hd 0x31 o.d o.a 0 0 (varT 0 o.ty o.scope))
  | .collStart o => some (encR o.hd 0x38 0 o.a 0 0 0)
  | .collSt o => some (encR o.hd 0x39 o.d o.a 0 0 0)
  | .blkAlloc o => some (encBlk 0x40 o)
  | .blkXlat o => some (encBlk 0x41 o)
  | .blkShare o => some (encR o.hd 0x42 o.d o.a o.b o.c 0)
  | .blkFree o => some (encBlk 0x43 o)
  | .pbarDur hd => some (encR hd 0xE0 0 0 0 0 0)
  | .pbarDurBarrier o => some (encR o.hd 0xE0 0 o.a 0 0 1)
  | .fence o => some (encR o.hd 0x01 0 0 0 0 (0#4 ++ o.scope ++ 0#3))
  | .tsync o => some (encB o.hd 0x02 0 0 o.b 0 0)
  | .crgnOpen o => some (encL o.hd 0x08 0 0 0 0 0 o.lit)
  | .crgnClose hd => some (encR hd 0x09 0 0 0 0 0)
  | .trap o => some (encI o.hd 0x10 0 0 o.imm 0)
  | .eret hd => some (encR hd 0x11 0 0 0 0 0)
  | .done hd => some (encR hd 0x12 0 0 0 0 0)
  | .testRd o => some (encR o.hd 0x18 o.d 0 0 0 (varL o.w))
  | .mhead o => some (encR o.hd 0xE0 o.d 0 0 0 (varL o.w))

/-- The header byte that names one slot (R281). -/
def headerOf (sl : Slot) : Byte := 1#8 <<< sl.num

/-- The bytes of an encoded syllable standing alone in a bundle (R281). -/
def bundleBytes (e : Encoded) : List Byte :=
  headerOf e.slot :: (natLE 6 e.word.toNat ++
    match e.lit with
    | none => []
    | some l => natLE 4 l.toNat)

/-- The bytes of the bundle that holds one well-formed bundle operation alone; none for an event. -/
def encode (i : Instr) : Option (List Byte) :=
  match encodeSyllable i with
  | none => none
  | some e => some (bundleBytes e)

end Sys2Proof
end

