-- ==== Sys2Proof/Config.lean ====
section
/-!
DEFINITION. What the part as shipped fixes (00_scope.md, 01_device.md), and the free values: the
opaque constants that stand where the spec leaves a value open. Nothing in Lean can evaluate one or
prove a value of one; each is named in a row of notes/assumptions.
-/
namespace Sys2Proof.Config

/-! ## Figures of the part -/

/-- Clusters (R16, R17). -/
def numClusters : Nat := 128
/-- Physical cores in a cluster, one of them the spare (R17). -/
def coresPerCluster : Nat := 5
/-- Physical cores. -/
def numPhys : Nat := 640
/-- Shafts (R22). -/
def numShafts : Nat := 128
/-- Wibin ports (R24). -/
def numPorts : Nat := 18
/-- Queues (R98). -/
def numQueues : Nat := 256
/-- Context slots (R70). -/
def numContexts : Nat := 64
/-- Bytes of private memory of a core (R18). -/
def privSize : Nat := 0x100000
/-- Bytes of a tile (R18). -/
def tileSize : Nat := 0x1000
/-- Bytes of a cluster SRAM (R26). -/
def csramSize : Nat := 0x800000
/-- Bytes of queue memory (R98). -/
def qmemSize : Nat := 0x400000
/-- Cycles of a period (R1). -/
def period : Nat := 1024

/-! ## Free values -/

/-- Free value, log entry 4: the converter's answer for a bit plane (R369), of which the spec says only
that it is an integer within 1 of the plane's sum. The key names the MCALL, step, segment, part, column,
plane, and the bits of the plane. -/
opaque conv : List Nat → Nat

/-- Free value, log entry 5: what a byte written under one key value reads as under another (0: in the
clear): the key values, the address and the byte. -/
opaque scrambled : Nat → Nat → Nat → BitVec 8 → BitVec 8

/-- Free value, log entry 6: byte i of the device serial, fused into each part (R244, R257). -/
opaque serial : Nat → BitVec 8

/-- Free value, log entry 7: byte i of the XMSS signature of a message under a tree and a leaf (R94, R97). -/
opaque signature : Nat → Nat → List (BitVec 8) → Nat → BitVec 8

/-- Free value, log entry 110: the Yunastosta public root in one-time fuses (R45). -/
opaque publicRoot : List (BitVec 8)

/-- Free value, log entry 110: whether an XMSS signature of a message verifies against a root (R45). -/
opaque xmssVerifies : List (BitVec 8) → List (BitVec 8) → List (BitVec 8) → Bool

/-- Free value, log entry 111: whether a 64-byte sector of the Cistern crosses the upper half of its shaft's
lanes; R237 gives each half 512 data lanes, and no rule says which half carries a sector. -/
opaque sectorUpper : Nat → Bool

/-- Free value, log entry 115: the chip's own data set, as IEEE 1588 orders the data sets of clocks (R258). -/
opaque clockSet : List Nat

/-- Free value, log entry 51: byte i of the PTP message body of a kind (0 Sync, 1 Follow_Up, 2 delay request, 3 delay
response) that a chip with a time and a data set sends (R258). -/
opaque ptpBody : Nat → Nat → List Nat → Nat → BitVec 8

/-- Free value, log entry 135: which of the 64 columns that a sector of a macro's bit-cells spans an uncorrectable error
of the sector lies in (R268, R269). -/
opaque ueColumn : Nat → Nat

/-- Free value, log entry 116: the bytes of the fault log with this number, and their place in the area; the
spec gives what a log contains and neither its layout nor its place (R47, R268). -/
opaque faultBytes : Nat → List (BitVec 8)

opaque faultPlace : Nat → Nat

/-- Free value, log entry 8: byte i of the device sealing key, fused into each part (R86). -/
opaque sealKey : Nat → BitVec 8

/-- Free value, log entry 9: the two bytes of the frame map for a cluster frame (R83 gives their contents
and no layout): whether it is valid, whether its kernel waits for a relaunch, kernel number, first role. -/
opaque frameWord : Bool → Bool → Nat → Nat → Nat

/-- Free value, log entry 10: the offset that a spare column's calibration writes when it takes a failed
column's place (R38), from the number of free values taken before. -/
opaque spareOffset : Nat → BitVec 16

/-- Free value, log entry 11: spare rows of a Keystone's SRAM (R38 gives no number). -/
opaque spareRows : Nat

end Sys2Proof.Config
end

