-- ==== Sys2Proof/Machine/Num.lean ====
section
/-!
DEFINITION. Number formats and arithmetic (03_numbers.md): exact values, the rounding modes of R55 to
R58, the float formats of R50, conversions of R59, Q group records of R53, R54 and R60, fingerprints.
-/
namespace Sys2Proof.Machine

/-! ## Exact values -/

/-- An exact value (R6, R57): a NaN, an infinity, or the rational num/den with a sign, den never 0.
A zero keeps its sign. -/
inductive Num where
  | nan
  | inf (neg : Bool)
  | fin (neg : Bool) (num den : Nat)
  deriving DecidableEq, Repr

/-- The value of an integer; 0 is +0. -/
def Num.ofInt (i : Int) : Num := .fin (i < 0) i.natAbs 1

/-- +0. -/
def Num.zero : Num := .fin false 0 1

def Num.isNaN (x : Num) : Bool := match x with | .nan => true | .inf _ | .fin _ _ _ => false

def Num.isFinite (x : Num) : Bool := match x with | .fin _ _ _ => true | .nan | .inf _ => false

def Num.isZero (x : Num) : Bool := match x with | .fin _ n _ => n == 0 | .nan | .inf _ => false

/-- The sign of a value; a NaN has none. -/
def Num.sign (x : Num) : Bool := match x with | .nan => false | .inf s => s | .fin s _ _ => s

def Num.neg (x : Num) : Num :=
  match x with
  | .nan => .nan
  | .inf s => .inf (!s)
  | .fin s n d => .fin (!s) n d

def Num.abs (x : Num) : Num :=
  match x with
  | .nan => .nan
  | .inf _ => .inf false
  | .fin _ n d => .fin false n d

/-- A signed numerator. -/
def signedNum (s : Bool) (n : Nat) : Int := if s then -(n : Int) else n

/-- Exact sum. A sum of two zeros of one sign keeps it; any other exact zero sum is +0, or −0 when
`down` (the mode rounds toward −∞), as IEEE 754-2019 gives; ∞ − ∞ is a NaN (R51). -/
def Num.add (down : Bool) (x y : Num) : Num :=
  match x, y with
  | .nan, _ | _, .nan => .nan
  | .inf s, .inf t => if s == t then .inf s else .nan
  | .inf s, .fin _ _ _ | .fin _ _ _, .inf s => .inf s
  | .fin s n d, .fin t m e =>
    let v : Int := signedNum s n * e + signedNum t m * d
    if v = 0 then .fin (if n = 0 && m = 0 && s == t then s else down) 0 1
    else .fin (v < 0) v.natAbs (d * e)

def Num.sub (down : Bool) (x y : Num) : Num := x.add down y.neg

/-- Exact product; 0 × ∞ is a NaN (R51). -/
def Num.mul (x y : Num) : Num :=
  match x, y with
  | .nan, _ | _, .nan => .nan
  | .inf s, .inf t => .inf (s != t)
  | .inf s, .fin t n _ | .fin t n _, .inf s => if n = 0 then .nan else .inf (s != t)
  | .fin s n d, .fin t m e => .fin (s != t) (n * m) (d * e)

/-- Exact quotient by a finite value that is not 0. -/
def Num.divPos (x : Num) (n d : Nat) : Num :=
  match x with
  | .nan => .nan
  | .inf s => .inf s
  | .fin s m e => .fin s (m * d) (e * n)

/-- Quotient by a value n/d that is not negative. A value that is not 0 divided by 0 is an infinity with its sign;
0 / 0 is an invalid operation, a NaN (R51). -/
def Num.divBy (x : Num) (n d : Nat) : Num :=
  if n = 0 then
    match x with
    | .nan => .nan
    | .inf s => .inf s
    | .fin s m _ => if m = 0 then .nan else .inf s
  else x.divPos n d

/-- Value order; false when either is a NaN. -/
def Num.lt (x y : Num) : Bool :=
  match x, y with
  | .nan, _ | _, .nan => false
  | .inf s, .inf t => s && !t
  | .inf s, .fin _ _ _ => s
  | .fin _ _ _, .inf t => !t
  | .fin s n d, .fin t m e => decide (signedNum s n * e < signedNum t m * d)

/-- Value equality; false when either is a NaN. -/
def Num.eqv (x y : Num) : Bool := !x.isNaN && !y.isNaN && !x.lt y && !y.lt x

/-- x times 2^k. -/
def Num.scale2 (x : Num) (k : Int) : Num :=
  match x with
  | .fin s n d => if k ≥ 0 then .fin s (n * 2 ^ k.toNat) d else .fin s n (d * 2 ^ (-k).toNat)
  | .nan => .nan
  | .inf s => .inf s

/-! ## Rounding to an integer -/

/-- Rounds the magnitude n/d of a value with sign `neg` to a natural number (R57): mode 0 nearest even,
1 toward 0, 2 up, 3 down. -/
def roundMag (mode : Nat) (neg : Bool) (n d : Nat) : Nat :=
  let q := n / d
  let r := n % d
  match mode with
  | 1 => q
  | 2 => if r ≠ 0 && !neg then q + 1 else q
  | 3 => if r ≠ 0 && neg then q + 1 else q
  | _ => if 2 * r > d || (2 * r = d && q % 2 = 1) then q + 1 else q

/-- An integer format: its least and greatest value; none is INT (R57). -/
structure IntFmt where
  lo : Int
  hi : Int
  deriving DecidableEq, Repr

def fmtI32 : IntFmt := ⟨-(2 ^ 31), 2 ^ 31 - 1⟩
def fmtN32 : IntFmt := ⟨0, 2 ^ 32 - 1⟩
/-- I8 encodes to −127 to 127 only (R52, R57). -/
def fmtI8 : IntFmt := ⟨-127, 127⟩

/-- Clamp of R57. -/
def clampInt (i lo hi : Int) : Int := if i < lo then lo else if i > hi then hi else i

/-- RoundMode to INT (R57): a NaN gives 0; none keeps an infinity. -/
def roundInt (mode : Nat) (x : Num) : Option Int :=
  match x with
  | .fin s n d => some (signedNum s (roundMag mode s n d))
  | .nan => some 0
  | .inf _ => none

/-- RoundMode to an integer format (R57): NaN gives 0, the rest saturates. -/
def roundToInt (fm : IntFmt) (mode : Nat) (x : Num) : Int :=
  match x with
  | .nan => 0
  | .inf s => if s then fm.lo else fm.hi
  | .fin s n d => clampInt (signedNum s (roundMag mode s n d)) fm.lo fm.hi

/-- Whether the clamp changed the value (R57). -/
def intClamped (fm : IntFmt) (x : Num) : Bool :=
  match x with
  | .nan => false
  | .inf _ => true
  | .fin s n d =>
    let i := signedNum s (roundMag 0 s n d)
    i < fm.lo || i > fm.hi

/-! ## Float formats -/

/-- A binary interchange format: exponent bits and fraction bits (R50). -/
structure FloatFmt where
  eb : Nat
  fb : Nat
  deriving DecidableEq, Repr

def fmtF32 : FloatFmt := ⟨8, 23⟩
def fmtBF16 : FloatFmt := ⟨8, 7⟩
def fmtF16 : FloatFmt := ⟨5, 10⟩
/-- FP64, of fingerprints (R66). -/
def fmtF64 : FloatFmt := ⟨11, 52⟩

/-- Magnitude bits of +∞. -/
def FloatFmt.infBits (f : FloatFmt) : Nat := (2 ^ f.eb - 1) * 2 ^ f.fb

/-- The sign bit. -/
def FloatFmt.signBit (f : FloatFmt) : Nat := 2 ^ (f.eb + f.fb)

/-- The canonical NaN (R50, R51). -/
def FloatFmt.nanBits (f : FloatFmt) : Nat := f.infBits + 2 ^ (f.fb - 1)

/-- Exponent of the spacing of subnormals. -/
def FloatFmt.qmin (f : FloatFmt) : Int := 2 - 2 ^ (f.eb - 1) - f.fb

/-- floor(log2 (n/d)) for n and d not 0. -/
def log2Ratio (n d : Nat) : Int :=
  let k : Int := (Nat.log2 n : Int) - Nat.log2 d
  if (if k ≥ 0 then n < d * 2 ^ k.toNat else n * 2 ^ (-k).toNat < d) then k - 1 else k

/-- The bits of a result with a NaN made canonical (R50). -/
def FloatFmt.canon (f : FloatFmt) (bits : Nat) : Nat :=
  if bits % f.signBit > f.infBits then f.nanBits else bits % (2 * f.signBit)

/-- K of a result: its exponent and top six fraction bits as one integer (R266). -/
def FloatFmt.shadowK (f : FloatFmt) (bits : Nat) : Nat := bits % f.signBit / 2 ^ (f.fb - 6)

/-- Whether a result and its shadow diverge: in sign, or by more than 1 in K, a NaN as the canonical one (R266). -/
def FloatFmt.diverges (f : FloatFmt) (main shadow : Nat) : Bool :=
  let m := f.canon main
  let t := f.canon shadow
  m / f.signBit != t / f.signBit || f.shadowK m > f.shadowK t + 1 || f.shadowK t > f.shadowK m + 1

/-- The value of bits in a format; subnormals are kept (R50, R51). -/
def FloatFmt.value (f : FloatFmt) (bits : Nat) : Num :=
  let s := bits / f.signBit % 2 == 1
  let e := bits / 2 ^ f.fb % 2 ^ f.eb
  let m := bits % 2 ^ f.fb
  if e = 2 ^ f.eb - 1 then if m = 0 then .inf s else .nan
  else if e = 0 then (Num.fin s m 1).scale2 f.qmin
  else (Num.fin s (m + 2 ^ f.fb) 1).scale2 (f.qmin + (e - 1 : Nat))

/-- The bits of an overflowed magnitude under a mode (R57). -/
def FloatFmt.overflow (f : FloatFmt) (mode : Nat) (neg : Bool) : Nat :=
  match mode with
  | 1 => f.infBits - 1
  | 2 => if neg then f.infBits - 1 else f.infBits
  | 3 => if neg then f.infBits else f.infBits - 1
  | _ => f.infBits

/-- IEEE754Round of R57: the bits of x rounded to the format. -/
def FloatFmt.round (f : FloatFmt) (mode : Nat) (x : Num) : Nat :=
  match x with
  | .nan => f.nanBits
  | .inf s => (if s then f.signBit else 0) + f.infBits
  | .fin s n d =>
    let sb := if s then f.signBit else 0
    if n = 0 then sb
    else
      let q := max (log2Ratio n d - f.fb) f.qmin
      let m := if q ≥ 0 then roundMag mode s n (d * 2 ^ q.toNat)
               else roundMag mode s (n * 2 ^ (-q).toNat) d
      let mag := (q - f.qmin).toNat * 2 ^ f.fb + m
      if mag ≥ f.infBits then sb + f.overflow mode s else sb + mag

/-- RoundMode with error feedback (R57): the bits and the new residual. -/
def FloatFmt.roundEF (f : FloatFmt) (mode : Nat) (x e : Num) : Nat × Num :=
  if mode = 4 then
    let y := if e.isZero then x else x.add false e
    let z := f.round 0 y
    let zv := f.value z
    (z, if y.isFinite && zv.isFinite then
          fmtF32.value (fmtF32.round 0 (if y.eqv zv then .zero else y.sub false zv))
        else .zero)
  else (f.round mode x, e)

/-- RoundMode to INT with error feedback (R57, R60): none keeps an infinity. -/
def roundIntEF (mode : Nat) (x e : Num) : Option Int × Num :=
  if mode = 4 then
    let y := if e.isZero then x else x.add false e
    match roundInt 0 y with
    | none => (none, .zero)
    | some z =>
      (some z,
       if y.isNaN then .zero
       else fmtF32.value (fmtF32.round 0 (if y.eqv (.ofInt z) then .zero else y.sub false (.ofInt z))))
  else (roundInt mode x, e)

/-- RoundMode to an integer format with error feedback (R57). -/
def roundToIntEF (fm : IntFmt) (mode : Nat) (x e : Num) : Int × Num :=
  if mode = 4 then
    let y := if e.isZero then x else x.add false e
    let z := roundToInt fm 0 y
    (z, if y.isFinite && !intClamped fm y then
          fmtF32.value (fmtF32.round 0 (if y.eqv (.ofInt z) then .zero else y.sub false (.ofInt z)))
        else .zero)
  else (roundToInt fm mode x, e)

/-! ## F32 words -/

/-- The exact value of F32 bits. -/
def f32Val (w : Word32) : Num := fmtF32.value w.toNat

/-- RoundMode to F32 as bits; mode 4 without a residual rounds as RNE (R57). -/
def f32Round (mode : Nat) (x : Num) : Word32 := BitVec.ofNat 32 (fmtF32.round mode x)

/-- RoundRNE to F32. -/
def f32RNE (x : Num) : Word32 := f32Round 0 x

/-- Whether a mode code rounds toward −∞. -/
def roundsDown (mode : Nat) : Bool := mode == 3

def f32IsNaN (w : Word32) : Bool := (f32Val w).isNaN

/-- The canonical NaN of F32 (R50). -/
def f32NaN : Word32 := 0x7FC00000

def f32Add (mode : Nat) (a b : Word32) : Word32 :=
  f32Round mode ((f32Val a).add (roundsDown mode) (f32Val b))

def f32Sub (mode : Nat) (a b : Word32) : Word32 :=
  f32Round mode ((f32Val a).sub (roundsDown mode) (f32Val b))

def f32Mul (mode : Nat) (a b : Word32) : Word32 := f32Round mode ((f32Val a).mul (f32Val b))

/-- A key that orders F32 bits that are no NaN, with −0 below +0 (R52). -/
def f32Key (w : Word32) : Int :=
  if w.getLsbD 31 then -((w.toNat - 0x80000000 : Nat) : Int) - 1 else w.toNat

/-- Minimum and maximum of R52. -/
def f32Min (a b : Word32) : Word32 :=
  if f32IsNaN a || f32IsNaN b then f32NaN else if f32Key a ≤ f32Key b then a else b

def f32Max (a b : Word32) : Word32 :=
  if f32IsNaN a || f32IsNaN b then f32NaN else if f32Key a ≤ f32Key b then b else a

/-- The signed value of a word (R52). -/
def i32Val (w : Word32) : Num := .ofInt w.toInt

/-- The unsigned value of a word. -/
def n32Val (w : Word32) : Num := .ofInt w.toNat

/-! ## Elements of banks -/

/-- The element codes of R48. -/
def codeF32 : Nat := 0
def codeI32 : Nat := 3
def codeI8 : Nat := 11
def codeRaw : Nat := 12

/-- Codes 5 to 10 are the Q formats (R48). -/
def isQ (code : Nat) : Bool := 5 ≤ code && code ≤ 10

/-- Codes 13 to 15 are reserved (R48). -/
def codeReserved (code : Nat) : Bool := code ≥ 13

/-- Group size of a Q format (R48). -/
def qGroup (code : Nat) : Nat :=
  match code with
  | 5 | 8 => 32
  | 6 | 9 => 64
  | _ => 128

/-- Bits of a q (R48). -/
def qBits (code : Nat) : Nat := if code ≤ 7 then 8 else 4

/-- Bytes of the q part of a group record (R53). -/
def qBytes (code : Nat) : Nat := qGroup code * qBits code / 8

/-- Bytes of a group record (R53). -/
def qRecord (code : Nat) : Nat := qBytes code + 4

/-- Storage bytes of an element outside the Q formats (R48). -/
def elemBytes (code : Nat) : Nat :=
  match code with
  | 1 | 2 => 2
  | 11 => 1
  | _ => 4

/-- Bytes that hold `n` elements under a code, whole records for a Q format. -/
def bytesFor (code n : Nat) : Nat :=
  if isQ code then (n + qGroup code - 1) / qGroup code * qRecord code else n * elemBytes code

/-- DecodeBank for the formats outside Q (R59): the lane value of stored bits. -/
def decodeElem (code : Nat) (bits : Nat) : Word32 :=
  match code with
  | 1 => BitVec.ofNat 32 (bits * 0x10000)
  | 2 => f32RNE (fmtF16.value bits)
  | 11 => (BitVec.ofNat 8 bits).signExtend 32
  | _ => BitVec.ofNat 32 bits

/-- EncodeBank for the formats outside Q (R59), with the residual of R57. -/
def encodeElem (code mode : Nat) (v : Word32) (e : Num) : Nat × Num :=
  match code with
  | 1 => fmtBF16.roundEF mode (f32Val v) e
  | 2 => fmtF16.roundEF mode (f32Val v) e
  | 11 => ((BitVec.ofInt 8 (clampInt v.toInt (-127) 127)).toNat, e)
  | _ => (v.toNat, e)

/-- The value of element `j` of a group record (R54); decoding never rounds. -/
def qDecode (code : Nat) (record : List Byte) (j : Nat) : Word32 :=
  let byteAt (k : Nat) : Nat := (record.getD k 0).toNat
  let q := if qBits code = 8 then byteAt j
           else if j % 2 = 0 then byteAt (j / 2) % 16 else byteAt (j / 2) / 16
  let scale := fmtF16.value (byteAt (qBytes code) + 256 * byteAt (qBytes code + 1))
  let zp := byteAt (qBytes code + 2) % 2 ^ qBits code
  if scale.isFinite then f32RNE (scale.mul (.ofInt ((q : Int) - zp))) else f32NaN

/-- Minimum over the values of R60 that are no NaN, with 0. -/
def qLo (xs : List Word32) : Num :=
  xs.foldl (fun m x => if (f32Val x).lt m then f32Val x else m) .zero

/-- Maximum over the values of R60 that are no NaN, with 0. -/
def qHi (xs : List Word32) : Num :=
  xs.foldl (fun m x => if m.lt (f32Val x) then f32Val x else m) .zero

/-- SCALE of R60 as F16 bits. -/
def qScale (b : Nat) (xs : List Word32) : Nat :=
  if (qLo xs).eqv (qHi xs) then 0x3C00
  else
    let s := fmtF16.round 0 (((qHi xs).sub false (qLo xs)).divPos (2 ^ b - 1) 1)
    if s ≥ 0x7C00 then 0x7BFF else s

/-- An integer or an infinity clamped into 0 to hi. -/
def clampNum (i : Option Int) (neg : Bool) (hi : Int) : Nat :=
  match i with
  | some i => (clampInt i 0 hi).toNat
  | none => if neg then 0 else hi.toNat

/-- The q codes of R60, from the first element on. -/
def qCodes (mode hi zp sn sd : Nat) : List Word32 → Num → List Nat
  | [], _ => []
  | x :: xs, e =>
    let v := f32Val x
    if v.isNaN then zp :: qCodes mode hi zp sn sd xs e
    else
      let r := roundIntEF mode (v.divBy sn sd) e
      clampNum (r.1.map (· + (zp : Int))) v.sign hi :: qCodes mode hi zp sn sd xs r.2

/-- Packs 4-bit codes two in a byte (R53). -/
def packNibbles : List Nat → List Byte
  | [] => []
  | [x] => [BitVec.ofNat 8 x]
  | x :: y :: zs => BitVec.ofNat 8 (x + 16 * y) :: packNibbles zs

/-- A group record from its G elements (R53, R60): q codes, SCALE, ZP, a reserved 0. A SCALE that rounds to 0
divides as R51 has it (log entry 1). -/
def qEncode (code mode : Nat) (xs : List Word32) : List Byte :=
  let b := qBits code
  let hi : Nat := 2 ^ b - 1
  let s := qScale b xs
  let lohi := (qLo xs).eqv (qHi xs)
  let zpq : Nat × List Nat :=
    match fmtF16.value s with
    | .fin _ n d =>
      let zp := if lohi then 0 else clampNum (roundInt 0 ((qLo xs).neg.divBy n d)) false hi
      (zp, qCodes mode hi zp n d xs .zero)
    | .nan | .inf _ => (0, [])
  let q := if b = 8 then zpq.2.map (BitVec.ofNat 8) else packNibbles zpq.2
  q ++ [BitVec.ofNat 8 s, BitVec.ofNat 8 (s / 256), BitVec.ofNat 8 zpq.1, 0]

/-- The exact value of a lane under an element code, for fingerprints (R67). -/
def laneValue (code : Nat) (w : Word32) : Num :=
  match code with
  | 3 | 11 => i32Val w
  | 4 | 12 => n32Val w
  | _ => f32Val w

/-! ## Fingerprints -/

/-- A fingerprint (R66). -/
structure Fingerprint where
  nanCnt : Word32 := 0
  maxMag : Word32 := 0
  sum    : Word64 := 0
  sumSq  : Word64 := 0
  deriving DecidableEq, Repr

/-- Saturating increment of NANCNT (R66). -/
def satInc (w : Word32) : Word32 := if w == 0xFFFFFFFF then w else w + 1

/-- A running sum and an element, rounded to FP64 in a mode; a NaN sum stays so. -/
def f64Add (mode : Nat) (acc : Word64) (x : Num) : Word64 :=
  BitVec.ofNat 64 (fmtF64.round mode ((fmtF64.value acc.toNat).add false x))

/-- RoundRNE to FP64 of a running sum and an element (R67). -/
def f64AddRNE (acc : Word64) (x : Num) : Word64 := f64Add 0 acc x

/-- One element enters a fingerprint (R67); `mag` is its magnitude rounded to F32. -/
def Fingerprint.step (f : Fingerprint) (x : Num) : Fingerprint :=
  if x.isNaN then { f with nanCnt := satInc f.nanCnt }
  else
    { f with
      maxMag := f32Max f.maxMag (f32RNE x.abs)
      sum := f64AddRNE f.sum x
      sumSq := f64AddRNE f.sumSq (x.mul x) }

/-- SUM and SUMSQ as the shadow of their accumulators has them after one element: rounded toward zero (R266). -/
def Fingerprint.shadowStep (f : Fingerprint) (x : Num) : Word64 × Word64 :=
  if x.isNaN then (f.sum, f.sumSq) else (f64Add 1 f.sum x, f64Add 1 f.sumSq (x.mul x))

/-- A fingerprint after the elements of a list, and what its shadow has after the last of them. -/
def Fingerprint.steps (f : Fingerprint) (shadow : Word64 × Word64) : List Num → Fingerprint × (Word64 × Word64)
  | [] => (f, shadow)
  | x :: xs => (f.step x).steps (f.shadowStep x) xs

/-- The 24 bytes of R66. -/
def Fingerprint.bytes (f : Fingerprint) : List Byte :=
  let le (n x : Nat) : List Byte := (List.range n).map (fun k => BitVec.ofNat 8 (x / 256 ^ k))
  le 4 f.nanCnt.toNat ++ le 4 f.maxMag.toNat ++ le 8 f.sum.toNat ++ le 8 f.sumSq.toNat

end Sys2Proof.Machine
end

