-- ==== Sys2Proof/Machine/State.lean ====
section
/-!
DEFINITION. The state of the module, plain data: everything the spec gives the machine, the inputs that
wait to arrive, and what one step needs to know of the step before. Sparse tables hold the entries that
differ from the value named with the field.
-/
namespace Sys2Proof.Machine

/-! ## Why a step stops -/

/-- Faults: the machine stops. -/
inductive Fault where
  /-- Raised by a read or write of a physical address that R212 gives no storage. Safe: nothing the
  spec describes names such an address once a page entry is well formed (R215). -/
  | noStorage (addr : Nat)
  deriving DecidableEq, Repr

/-- Refusals: an instruction with no meaning here. -/
inductive Refusal where
  /-- Raised by an arm of exec whose instruction is not modelled. Safe: nothing is concluded. -/
  | notModelled (mnemonic : String)
  deriving DecidableEq, Repr

/-! ## A core -/

/-- Task mode, or system mode in a trap handler or a drain stub (R14, R132, R137). -/
inductive CoreMode where
  | task | handler | stub
  deriving DecidableEq, Repr

/-- When a result lands: at the end of a timetable cycle, or of a package cycle (R131, R132). -/
inductive Due where
  | ttc (c : Nat)
  | cyc (c : Nat)
  deriving DecidableEq, Repr

/-- A register write (R172). `v` and `m` write the lanes or bits of `mask`. `sr` is a special register
by number (R434); `xres` a transform result register by port, plus 16 for system mode (R348). -/
inductive RegWrite where
  | g (r : Nat) (w : Word64)
  | p (r : Nat) (b : Bool)
  | v (r : Nat) (mask : Word64) (w : Lanes)
  | m (r : Nat) (mask w : Word64)
  | x (r : Nat) (w : Word64)
  | f (r : Nat) (w : Word32)
  | sr (num : Nat) (w : Word64)
  | xres (key : Nat) (w : Lanes)
  deriving DecidableEq, Repr

/-- A write in flight. `rank` is 0 for mailbox writes and Keystone returns and 1 for the core's own
pipeline, then `issue` and `slot` order writes of one cycle (R172). `long` marks a latency above 1
(R173). `shadow` is the information word of a divergence found in the result (R267). `lost` marks the write of
an operation that met an uncorrectable error: it writes nothing and clears the pending bit alone (R269). -/
structure Landing where
  write  : RegWrite
  due    : Due
  rank   : Nat
  issue  : Nat
  slot   : Nat
  long   : Bool
  shadow : Option Word64 := none
  lost   : Bool := false
  deriving DecidableEq, Repr

/-- A loop-stack level (R327); a core lists its levels innermost first. `passStart` is the timetable cycle at which the current pass began,
`entered` the one at which the level was pushed; `sys` marks a level pushed by a handler (R333). -/
structure LoopLevel where
  modulo    : Bool
  start     : Nat
  stop      : Nat
  n         : Nat
  j         : Nat
  ii        : Nat
  stages    : Nat
  passStart : Nat
  entered   : Nat
  sys       : Bool
  deriving DecidableEq, Repr

/-- State of a tile's owner bit (R167). -/
inductive TileState where
  | core | given | engaged
  deriving DecidableEq, Repr

/-- A tile: its state, use count and return target (R167). -/
structure Tile where
  st      : TileState := .core
  use     : Nat := 0
  toGiven : Bool := false
  deriving DecidableEq, Repr

/-- State of an activation or weight slot (R356). -/
inductive SlotState where
  | free | claimed | loading | loaded
  deriving DecidableEq, Repr

/-- An activation slot (R356, R358): bytes as read, the bank code as format tag, the rows; `lossy` marks data that a value
of an MCALL with s > 0 has reached (R89). -/
structure ActSlot where
  st    : SlotState := .free
  use   : Nat := 0
  bytes : List Byte := []
  code  : Nat := 0
  rows  : Nat := 0
  lossy : Bool := false
  deriving DecidableEq, Repr

/-- A weight slot (R356, R360); `lossy` as for an activation slot. -/
structure WtSlot where
  st    : SlotState := .free
  use   : Nat := 0
  bytes : List Byte := []
  int4  : Bool := false
  lossy : Bool := false
  deriving DecidableEq, Repr

/-- State of a ring entry (R373). -/
inductive EntryState where
  | free | opened | queued | popping
  deriving DecidableEq, Repr

/-- An entry of the accumulator ring (R373): value (r, n) at 128r + n, the E word, CLIPANY; `lossy` lists the rows that a
value of an MCALL with s > 0 has reached (R89). -/
structure RingEntry where
  st      : EntryState := .free
  vals    : Table Word32 := []
  e       : Word32 := 0
  clipAny : Bool := false
  lossy   : List Nat := []
  deriving DecidableEq, Repr

/-- An OLOAD in flight (R359); `lossy` is what R89 marks of the bytes read. -/
structure OLoad where
  slot   : Nat
  addr   : Nat
  size   : Nat
  code   : Nat
  rows   : Nat
  issue  : Nat
  k      : Nat
  sys    : Bool
  data   : List Byte
  failed : Bool
  lossy  : Bool := false
  deriving DecidableEq, Repr

/-- Where a WLOAD reads (R361). -/
inductive WSource where
  | store | cisternA | cisternB
  deriving DecidableEq, Repr

/-- A WLOAD in flight (R361); `lossy` is what R89 marks of the bytes read. -/
structure WLoad where
  slot  : Nat
  va    : Nat
  int4  : Bool
  src   : WSource
  issue : Nat
  k     : Nat
  sys   : Bool
  data  : List Byte
  ue    : Bool
  lossy : Bool := false
  deriving DecidableEq, Repr

/-- An MPLOAD that waits for its write (R362). -/
structure MpLoad where
  place : Nat
  tag   : Nat
  image : List Byte
  due   : Due
  deriving DecidableEq, Repr

/-- An MCALL in flight (R367, R368): its own copy of the routine and of its operands. `reexec` counts
the cycles left of a digital re-execution (R372). -/
structure MCall where
  tag    : Nat
  image  : List Byte
  s      : Nat
  clip   : Nat
  sparse : Nat
  x0     : Word64
  x1     : Word64
  x7     : Word64
  head   : Nat
  issue  : Nat
  len    : Nat
  k      : Nat
  sys    : Bool
  reexec : Option Nat
  deriving DecidableEq, Repr

/-- An EPI.POP in flight (R378). `found` is a divergence in its output and the beat that writes the lane (R267); `lossy`
is what R89 marks of what it reads. -/
structure Pop where
  cfg    : Nat
  dst    : Nat
  header : List Byte
  params : List Byte
  mode   : Nat
  code   : Nat
  entry  : Nat
  issue  : Nat
  k      : Nat
  beats  : Nat
  sys    : Bool
  failed : Bool
  out    : List (List Byte)
  found  : Option (Nat × Word64) := none
  lossy  : Bool := false
  deriving DecidableEq, Repr

/-- An entry of the time-sorted buffer: the captured command (R389). -/
structure PumpCmd where
  op      : Nat
  start   : Nat
  issue   : Nat
  mode    : Nat
  variant : Nat
  barrier : Nat
  desc    : List Byte
  codes   : Word64
  order   : Nat
  deriving DecidableEq, Repr

/-- One unit of a started command on its way to its destination, the beat at which it lands, and where it begins
(run times 4,096 plus element). Where the command converts a unit is an element or a group record, with the words
it is made of, and one still to be filled has no bytes; else it is the bytes of a run that lie in one beat.
`lost` marks one whose source could not be read. For a compressed command a unit is a block's bytes so far. -/
structure PumpUnit where
  dst   : Int
  bytes : List Byte
  elems : List Word32
  beat  : Nat
  place : Nat
  lost  : Bool
  deriving DecidableEq, Repr

/-- A started pump command or CTAB.LD (R390): `k` cycles since its start, the units sampled and not yet
landed, the next unit to sample (run times 65,536 plus its element, or its byte where nothing is converted), the
residual of RNE-EF, the bytes landed of an element or record that is not yet whole, and what the completion
record will say, with what the shadow of the fingerprint's accumulators has (R266). `badRows` are the index-list entries
that could not be read (R269). `trap` is raised at the completion cycle (R265, R402). `lossy` marks data that a value of an MCALL
with s > 0 has reached (R89). -/
structure PumpRun where
  cmd     : PumpCmd
  k       : Nat
  beats   : Nat
  lat     : Nat
  srcKind : Nat
  dstKind : Nat
  list    : List Word32
  units   : List PumpUnit
  nextU   : Nat
  resid   : Num
  carry   : List (Option Byte)
  fp      : Fingerprint
  fps     : Word64 × Word64 := (0, 0)
  elems   : Nat
  oor     : Nat
  tiles   : List Nat
  table   : List Byte
  trap    : Option (Nat × Word64 × Word64)
  wsrc    : List Nat
  wdst    : List Nat
  stopped : Bool
  lossy   : Bool := false
  badRows : List Nat := []
  deriving DecidableEq, Repr

/-- A change to a barrier that is applied at the end of the cycle (R204). -/
inductive BarUpdate where
  | init (sect : Int) (arrv : Int) (tmow : Nat)
  | add (sect : Int) (arrv : Int)
  | collExpect (sect : Int) (arrv : Int) (tmow : Nat)
  | abort (cause : Nat)
  deriving DecidableEq, Repr

/-- What a command of the outbound stream does when it leaves it (R187, R403, R418). -/
inductive OutKind where
  /-- a Well write: the physical address of each sector, its key value, the bytes sampled so far (R192) -/
  | wellWrite (sectors : List (Nat × Nat)) (bytes : List Byte)
  /-- a remote write: node, the remote address of each sector, receiver handle, bytes so far (R395) -/
  | remoteWrite (node : Nat) (sectors : List Nat) (handle : Nat) (bytes : List Byte)
  /-- a remote read: node, and for each sector the remote address; its request is a message (R403) -/
  | remoteRead (node : Nat) (sectors : List Nat)
  /-- a flag to a barrier handle (R408) -/
  | arrive (handle : Nat)
  /-- a collective (R418) -/
  | coll (va : Nat)
  /-- a FENCE.sys or FENCE.dur (R188) -/
  | fence (dur : Bool)
  deriving DecidableEq, Repr

/-- A command of an outbound stream: start cycle in timetable and in package cycles, whether a handler or a stub issued
it, persist epoch, the barrier of its own core that it
counts on (0 for none), how many sectors have been sent or accepted, whether a value of an MCALL with s > 0
has reached its data (R89), and the numbers of the sectors whose source could not be read (R269). -/
structure OutCmd where
  kind    : OutKind
  start   : Nat
  at_     : Nat := 0
  sys     : Bool := false
  epoch   : Nat
  barrier : Option Nat
  sent    : Nat
  order   : Nat
  lossy   : Bool := false
  lost    : List Nat := []
  deriving DecidableEq, Repr

/-- A containment region of a core (R270): unwind target, opening cycle, members, outbound hold. -/
structure Region where
  target  : Nat
  opened  : Nat
  members : List Nat
  hold    : List OutCmd
  deriving DecidableEq, Repr

/-- A TXB.WAIT that was not satisfied at issue (R208): issue cycle, barrier, expected phase, predicate pair; once it
is satisfied, whether the barrier flipped. -/
structure Wait where
  issue : Nat
  addr  : Nat
  phase : Nat
  pair  : Nat
  out   : Option Bool
  deriving DecidableEq, Repr

/-- sr.tcause and the rest of the trap record (R263). -/
structure TrapRecord where
  supp : BitVec 8 := 0
  nest : Bool := false
  eng  : Bool := false
  slot : BitVec 3 := 0
  code : BitVec 8 := 0
  info : Word64 := 0
  iter : Word64 := 0
  pc   : Word64 := 0
  br   : Word64 := 0
  dly  : BitVec 2 := 0
  lit  : Word32 := 0
  deriving DecidableEq, Repr

/-- A kernel-ending fault raised in a core: its code, its information word, and NEST (R262). -/
structure CoreFault where
  code : Nat
  info : Nat
  nest : Bool
  deriving DecidableEq, Repr

/-- An uncorrectable error that a core consumed inside a region (R273): storage level, information word,
slot, whether an engine read it, iteration vector. -/
structure UeHit where
  level : Nat
  info  : Word64
  slot  : Nat
  eng   : Bool
  iter  : Word64
  deriving DecidableEq, Repr

/-- A trap to be taken: code, information word, iteration vector, slot, and whether an engine raised it
(R264, R265). -/
structure TrapReq where
  code : Nat
  info : Word64
  iter : Word64
  slot : Nat
  eng  : Bool
  deriving DecidableEq, Repr

/-- A Keystone operation (R412, R415, R417). -/
inductive KOpKind where
  | atomic (op : Nat) (ty : Nat) (b c : Word64)
  | redAdd (ty : Nat) (b : Word64)
  | redComb (ty : Nat)
  | blk (op : Nat) (pool : Nat) (n1 n2 : Word64)
  /-- an operation without effect: its trap, if it raises one, comes the cycle after its return was due -/
  | failed (sub : Option Nat)
  deriving DecidableEq, Repr

/-- A Keystone operation in flight: where it performs and when, and where its return lands. -/
structure KOp where
  phys    : Nat
  kid     : Nat
  role    : Nat
  kind    : KOpKind
  va      : Word64
  addr    : Nat
  perform : Nat
  due     : Due
  issue   : Nat
  d       : Nat
  pair    : Nat
  deriving DecidableEq, Repr

/-- What the bundle in progress has asked the sequencer to do; it takes effect when the bundle commits
(R324 to R331, R134, R137, R428). `pend` lists the words whose pending bits its operations set (R173). -/
structure Staged where
  branch   : Option Word64 := none
  call     : Bool := false
  leave    : Bool := false
  push     : Option LoopLevel := none
  zeroTrip : Option Nat := none
  nopn     : Nat := 1
  tsync    : Option Word64 := none
  eret     : Bool := false
  done     : Bool := false
  opened   : Option Nat := none
  closed   : Bool := false
  pend     : List Nat := []
  deriving DecidableEq, Repr

/-- The bundle in progress: its address, the address after it, its syllables (R282). -/
structure Current where
  addr : Nat := 0
  next : Nat := 0
  syls : List Syllable := []
  deriving DecidableEq, Repr

/-- A fault that has struck a floating-point unit (R266, R267): the unit, a lane, and the bits that its datapath
gives for the next result in that lane. -/
structure Glitch where
  unit  : Nat
  lane  : Nat
  wrong : Word64
  deriving DecidableEq, Repr

/-- A physical core (R18). Register files default to 0; bank format codes to 12. `kid` is the kernel it
is bound to. `nextAt` is the timetable cycle of its next bundle, `hNextAt` the package cycle of the
handler's or stub's next bundle, none when it waits for ever. `brFrom` is the address of the bundle of
a taken BR, RET or JMPI whose target is pending (R331), `callAt` the issue cycle of a CALL whose link is
(R325); `taskDly`, `taskCall`, `taskFrom` keep them through a handler; in a drain stub `taskFrom` is the saved next bundle address (R137). `trapped` says that the step in progress took a trap. `pend` lists the
words whose pending bit is 1, file code and index as in R173. `lossy` says that a value of an MCALL with s > 0 has
reached its registers, `lossyPriv` lists the sectors of its private memory that one has reached, `lossyNew` those that
the engine writes of the cycle mark, `lossyClip` says that sr.mclip0 and sr.mclip1 hold one (R35, R89); `found` lists the events not yet
counted: storage level, or 0 for SHADOW, and sector address (R268). -/
structure Core where
  kid     : Option Nat := none
  role    : Nat := 0
  attempt : Nat := 0
  mode    : CoreMode := .task
  done    : Bool := false
  stubEnd : Bool := false
  pc      : Nat := 0
  nextAt  : Nat := 0
  hNextAt : Option Nat := none
  dly     : Nat := 0
  br      : Nat := 0
  brFrom  : Option Nat := none
  callAt  : Option Nat := none
  taskDly : Nat := 0
  taskCall : Option Nat := none
  taskFrom : Option Nat := none
  loops   : List LoopLevel := []
  cur     : Current := {}
  staged  : Staged := {}
  trapped : Bool := false
  suppNow : BitVec 8 := 0
  eretWait : Bool := false
  wait    : Option Wait := none
  g       : Table Word64 := []
  p       : BitVec 16 := 0
  v       : Table Lanes := []
  m       : Table Word64 := []
  x       : Table Word64 := []
  f       : Table Word32 := []
  c       : Table Word32 := []
  inflight : List Landing := []
  pend    : List Nat := []
  xres    : Table Lanes := []
  bfmt    : Word64 := 0xCCCCCCCCCCCCCCCC
  rmode   : BitVec 3 := 0
  shsel   : BitVec 7 := 0
  epicfg  : Word32 := 0
  mclip0  : Word64 := 0
  mclip1  : Word64 := 0
  mbox    : Table Word64 := []
  trap    : TrapRecord := {}
  tvb     : Word64 := 0
  cbase   : Nat := 0
  codeSize : Nat := 0
  priv    : Memory := []
  tiles   : Table Tile := []
  stores  : List (Nat × Byte) := []
  engWrites : List (Nat × Byte) := []
  owns    : List (Bool × Nat) := []
  dir     : List Nat := []
  barUps  : List (Nat × BarUpdate) := []
  buf     : List PumpCmd := []
  runs    : List PumpRun := []
  orders  : Nat := 0
  ctab    : Table (List Byte) := []
  acts    : Table ActSlot := []
  wts     : Table WtSlot := []
  store   : Table (Nat × List Byte) := []
  oload   : Option OLoad := none
  wload   : Option WLoad := none
  mploads : List MpLoad := []
  mcall   : Option MCall := none
  pop     : Option Pop := none
  ring    : Table RingEntry := []
  head    : Nat := 0
  tail    : Nat := 0
  calib   : Table (BitVec 16) := []
  colMap  : Table Nat := []
  counts  : Table Nat := []
  epoch   : Nat := 0
  regions : List Region := []
  upend   : List (Nat × Nat × Nat) := []
  unw     : Bool := false
  ulevel  : Nat := 0
  outNew  : List OutCmd := []
  pbarNew : List (Nat × Nat) := []
  kNew    : List KOp := []
  kfault  : Option CoreFault := none
  engTrap : Option TrapReq := none
  ueHit   : Option UeHit := none
  ue      : List (Nat × Nat) := []
  glitch  : Option Glitch := none
  lossy   : Bool := false
  lossyPriv : List Nat := []
  lossyNew : List Nat := []
  lossyClip : Bool := false
  found   : List (Nat × Nat) := []
  deriving DecidableEq, Repr

/-! ## Kernels and groups -/

/-- A page of a snapshot (R216, R218). -/
structure PageT where
  va     : Nat
  size   : Nat
  phys   : Nat
  kind   : Nat
  write  : Bool
  near   : Bool
  anchor : Nat
  enc    : Bool
  key    : Nat
  deriving DecidableEq, Repr

/-- A pool of a page set (R227). -/
structure Pool where
  va     : Nat
  phys   : Nat
  nseq   : Nat
  nlayer : Nat
  nbps   : Nat
  nblk   : Nat
  arena  : Nat
  deriving DecidableEq, Repr

/-- The states of R127. -/
inductive KState where
  | preparing | running | held | draining | suspended | resuming | ended | faulted | relaunching
  deriving DecidableEq, Repr

/-- A kernel and its group (R118 to R141, R150 to R159). `slot` is the context slot it was launched in; `ctx`
is the same while that context is resident and 1,000 plus the seal counter while it is sealed. `bind` lists the physical core of each role.
`ttc` is sr.ttc; while held, `resumeTtc` is the timetable cycle of the held bundle. `ran` is the first
timetable cycle whose engines have not run. `lastT0` is the latest package cycle at which it starts. `limit` is its
limit hold. `preq` is the latching timetable cycle of a request, `pskip` the points passed over since, `point` the
timetable cycle of the point taken, `drained` the cycles of its drain. `saved` and `savedSram` hold its cores and
cluster SRAM while it is suspended. `deferred` is a relaunch that waits for its
context. `lossy` is what R89 marks of the copy of its launch record. `mhead` is the chain head of MHEAD, `recSlot` the slot of its recovery record. `closed` is the timetable cycle in
which regions were last closed, and those regions by opening and members (R270). -/
structure Kernel where
  ctx       : Nat
  slot      : Nat
  gen       : Nat
  sctx      : Word32
  kseq      : Nat
  queue     : Option Nat
  st        : KState
  record    : List Byte
  decl      : List Byte
  image     : Nat
  argVa     : Nat
  argLen    : Nat
  argMap    : List PageT
  pages     : List PageT
  pools     : List Pool
  peff      : Nat
  bind      : List Nat
  relaunches : Nat
  ttc       : Nat
  ran       : Nat
  t0        : Option Nat
  lastT0    : Nat
  resumeTtc : Nat
  preq      : Option Nat
  pskip     : Nat
  limit     : Bool
  point     : Nat
  drained   : Nat
  lastPoint : Int
  userHold  : Bool
  preemptQ  : List Nat
  deferred  : Bool
  saved     : Table Core
  savedSram : Table Memory
  mhead     : List Byte
  recSlot   : Option Nat
  faultWord : Nat
  kfault    : Option CoreFault
  lossy     : Bool
  closed    : Nat × List (Nat × List Nat)
  deriving DecidableEq, Repr

/-! ## The command processor -/

/-- States of a context slot (R75, R82). -/
inductive CtxState where
  | free | ready | running | yielding | switched | faulted
  deriving DecidableEq, Repr

/-- A registered image (R278, R299): its place in the window, the bytes of its header and tables, and its
digest (R90). -/
structure Image where
  offset   : Nat
  codeSize : Nat
  dataSize : Nat
  bytes    : List Byte
  digest   : List Byte
  deriving DecidableEq, Repr

/-- An entry of the frame map (R83): the kernel and the lowest role of the cluster whose frame it is, whether the
frame is VALID, whether it is that of a deferred relaunch (R78). -/
structure FrameEntry where
  kid      : Nat
  role     : Nat
  valid    : Bool
  relaunch : Bool
  deriving DecidableEq, Repr

/-- A chain record that waits for its place in the chain: TYPE, FLAGS, KSEQ, and its body, none while the digest in it is
not complete; for an ARGS record the kernel and its attempt (R92). -/
structure DueRecord where
  type  : Nat
  flags : Nat
  kseq  : Nat
  body  : Option (List Byte)
  args  : Option (Nat × Nat)
  deriving DecidableEq, Repr

/-- A context slot (R70 to R97). GEN counters stand in the fault-log area (R87). `frames` is the frame map by frame
number; `lossy` says that a record of the chain has FLAGS bit 0 set (R94); `due` lists, from an ARGS record whose digest
is not complete on, the records that enter the chain after it. -/
structure Context where
  st       : CtxState := .free
  gen      : Nat := 0
  desc     : List Byte := []
  images   : Table Image := []
  fault    : Nat := 0
  seq      : Nat := 0
  chain    : List Byte := []
  logHead  : Nat := 0
  nextKseq : Nat := 1
  cluUnion : Nat := 0
  lossy    : Bool := false
  frames   : Table FrameEntry := []
  due      : List DueRecord := []
  deriving DecidableEq, Repr

/-- States of a queue (R99, R102). -/
inductive QState where
  | disabled | idle | ready | active | waiting | blocked | stopped
  deriving DecidableEq, Repr

/-- A COPY in progress (R104, R113): the pieces of physical memory, each with its key value, still to be read and to
be written, those of its record, and those of its whole destination; the beats of the whole and those that have passed; the source elements or
records in all; formats, mode and FPR; words not yet encoded, the residual of RNE-EF, bytes not yet written;
elements written and their fingerprint; what R89 marks; whether an error has stopped it. -/
structure CopyRun where
  src    : List (Nat × Nat × Nat)
  dst    : List (Nat × Nat × Nat)
  rec_   : List (Nat × Nat × Nat)
  whole  : List (Nat × Nat × Nat)
  beats  : Nat
  beat   : Nat := 0
  units  : Nat
  sf     : Nat
  df     : Nat
  mode   : Nat
  fpr    : Bool
  words  : List Word32 := []
  resid  : Num := .zero
  out    : List Byte := []
  elems  : Nat := 0
  fp     : Fingerprint := {}
  lossy  : Bool := false
  failed : Bool := false
  deriving DecidableEq, Repr

/-- A queue (R99): the fields the command processor keeps, and what its command in progress needs: its
word, whether it has begun, the time at its dispatch, as passed and by IEEE 1588, its effective priority then, its COPY. `passed` says that the launch at the head has passed its checks (R121); `age` is the time at which
the aging timer started; `movedFrom` is, in the record of a command that goes on after its queue was disabled, that
queue (R102, R106). -/
structure Queue where
  st       : QState := .disabled
  kind     : Nat := 0
  pbase    : Nat := 0
  peff     : Nat := 0
  lastSt   : Nat := 0
  netcls   : Nat := 0
  ctx      : Nat := 0
  gen      : Nat := 0
  size     : Nat := 0
  head     : Nat := 0
  tail     : Nat := 0
  faultIdx : Nat := 0
  evHead   : Nat := 0
  ring     : Nat := 0
  evBase   : Nat := 0
  age      : Nat := 0
  cmd      : List Byte := []
  begun    : Bool := false
  passed   : Bool := false
  since    : Nat := 0
  stamp    : Nat := 0
  atPeff   : Nat := 0
  copy     : Option CopyRun := none
  movedFrom : Option Nat := none
  deriving DecidableEq, Repr

/-- A receipt that waits to be signed (R93); `dest` the
pieces of its destination, `addr` the address of its command in queue memory, `discard` the status with
which it is to be thrown away (R96). -/
structure Signing where
  queue : Option Nat
  ctx   : Nat
  gen   : Nat
  body  : List Byte
  tree  : Nat
  leaf  : Nat
  dest  : List (Nat × Nat × Nat)
  addr  : Nat
  discard : Option Nat
  deriving DecidableEq, Repr

/-- What a digest in progress is for: the ARGS record of a kernel's attempt (R122); the CODE record of the image that an
entry of the control ring registers, from an address (R90); or the RESULT record of a receipt's
buffer (R93): the command's queue, the buffer's address and length, the buffers after it, the receipt's place. -/
inductive HashFor where
  | args (kid attempt : Nat)
  | image (entry va len : Nat)
  | result (queue va len : Nat) (rest : List (Nat × Nat × List (Nat × Nat × Nat))) (dest : List (Nat × Nat × Nat))
  deriving DecidableEq, Repr

/-- A digest in progress (R88): the pier whose hash unit computes it, the context, the pieces of memory not yet
read, the bytes read, the cycles it has had, what R89 marks. -/
structure Hashing where
  pier   : Nat
  ctx    : Nat
  use    : HashFor
  left   : List (Nat × Nat × Nat)
  got    : List Byte := []
  cycles : Nat := 0
  lossy  : Bool := false
  deriving DecidableEq, Repr

/-- An issued receipt, for suspect notices (R97). -/
structure Issued where
  tree : Nat
  leaf : Nat
  ctx  : Nat
  gen  : Nat
  time : Nat
  deriving DecidableEq, Repr

/-- A notice part owed to a sealed context (R97). -/
structure Owed where
  ctx     : Nat
  sealNo  : Nat
  partNo  : Nat
  cluster : Nat
  bytes   : List Byte
  deriving DecidableEq, Repr

/-- The command processor's own state (R20, R70, R98): control ring, contexts, queues, keys, seals,
receipts. `sealedCtx` keeps, for each outstanding seal, its counter, its slot and what the slot held; `reserved`
counts the reserved leaves used (R95). `cmdQ` is the queue whose command it executes; `lastDisp` the queue last dispatched at each
effective priority; `netTurn` the place in the order 2, 1, 2, 0 (R113). The
command in progress of a queue that is disabled goes on in a record of its own, numbered from 256 (R102).
`lines` lists the 64-byte lines that SIGNALs have written, with the cycle (R107). `hashing` lists the digests in
progress; `finished` the commands that have ended and are not yet completed: queue, status, and the cycle from which
the completion may be taken (R117). -/
structure CmdProc where
  ctl      : List Nat := []
  ctxs     : Table Context := []
  queues   : Table Queue := []
  keys     : Table (List Byte) := []
  sealCnt  : Nat := 0
  seals    : List Nat := []
  sealedCtx : List (Nat × Nat × Context) := []
  tree     : Nat := 0
  leaf     : Nat := 0
  reserved : Nat := 0
  signing  : List Signing := []
  issued   : List Issued := []
  owed     : List Owed := []
  keyAlarm : Bool := false
  cmdQ     : Nat := 0
  lastDisp : Table Nat := []
  netTurn  : Nat := 0
  nextDisp : Nat := 0
  nextMoved : Nat := 256
  lines    : List (Nat × Nat) := []
  hashing  : List Hashing := []
  finished : List (Nat × Nat × Nat) := []
  deriving DecidableEq, Repr

/-! ## Memories, Keystones, the Well -/

/-- A Well sector accepted and not yet durable (R192, R199). `src` is its kernel, role, and epoch; `svc` the number,
address and length of the service core's write that it belongs to (R453). -/
structure WellSector where
  addr  : Nat
  data  : List Byte
  key   : Nat
  src   : Option (Nat × Nat × Nat)
  svc   : Option (Nat × Nat × Nat) := none
  deriving DecidableEq, Repr

/-- A sector that a Well read or a remote read will land (R403), the order of its command in the stream, and where it
crosses the end of a page, how many of its bytes land at `dst` and where the rest do. -/
structure PendingRead where
  kid     : Nat
  role    : Nat
  attempt : Nat
  barrier : Option Nat
  dst     : Nat
  dstKind : Nat
  src     : Nat
  node    : Option Nat
  data    : Option (List Byte)
  order   : Nat := 0
  cut     : Option (Nat × Nat × Nat) := none
  deriving DecidableEq, Repr

/-- The memories. `phys` is the Cistern, the weight store and the durable Well by physical address;
`csram` a cluster SRAM byte at 2^23·cluster + offset; `writes` what lands there at the end of the cycle: 0 and a cluster SRAM
address, or 1 plus a key value and a physical address; `kmem` a resident sync page's byte at its backing
address; `key` the key value each encrypted 64-byte sector was written under, 0 for none. `lossy` lists the
sectors, 0 and a physical or 1 and a cluster SRAM address over 64, that a value of an MCALL with s > 0 has reached (R89); `taint` those of `writes`. -/
structure Mem where
  phys  : Memory := []
  csram : Memory := []
  kmem  : Memory := []
  qmem  : Memory := []
  key   : Table Nat := []
  pend  : List WellSector := []
  reads : List PendingRead := []
  writes : List (Nat × Nat × Byte) := []
  ue    : List (Nat × Nat) := []
  lossy : List (Nat × Nat) := []
  taint : List (Nat × Nat) := []
  deriving DecidableEq, Repr

/-- A sync page (R221, R222), keyed by backing address / 64 KiB. -/
structure SyncPage where
  home     : Nat := 0
  resident : Bool := false
  near     : Bool := false
  counts   : Table Nat := []
  deriving DecidableEq, Repr

/-- A staging line (R416): its kernel, pier, word, class and written slots. -/
structure Staging where
  kid   : Nat
  pier  : Nat
  word  : Nat
  float : Bool
  slots : Table Word32
  deriving DecidableEq, Repr

/-- What the memories held when the cycle began, as a WAITV sees it (R107, R183). -/
structure Before where
  phys  : Memory := []
  kmem  : Memory := []
  key   : Table Nat := []
  pages : Table SyncPage := []
  deriving DecidableEq, Repr

/-- The Keystones (R19, R186, R221, R416). `spareRows` counts each pier's spare rows in use, `waitingRows` those that
are taken once no kernel is bound (R38). A barrier shadow of a suspended kernel (R210) is
the barrier in the saved record of its role. -/
structure Keystones where
  pages   : Table SyncPage := []
  lines   : List Staging := []
  ops     : List KOp := []
  lost    : List Nat := []
  spareRows : Table Nat := []
  waitingRows : Table Nat := []
  before : Before := {}
  deriving DecidableEq, Repr

/-- A shaft (R22, R237 to R241): failed lanes in use and those waiting for the refresh boundary. -/
structure Shaft where
  failed  : List Nat := []
  waiting : List Nat := []
  half    : Nat := 0
  gone    : Bool := false
  temp    : Int := 0
  deriving DecidableEq, Repr

/-- A cluster: when it was last released, the cycles left of a test slice (R275), whether its hardware has a defect that
a slice finds (R277). -/
structure Cluster where
  idleAt : Nat := 0
  slice  : Option Nat := none
  defect : Bool := false
  deriving DecidableEq, Repr

/-- A fault log entry (R47, R261). -/
structure LogEntry where
  code  : Nat
  ctx   : Nat
  gen   : Nat
  kseq  : Nat
  digest : List Byte
  restart : Bool
  deriving DecidableEq, Repr

/-! ## Service and management -/

/-- What leads to PRESERVE (R40): a fatal loss, or a die at the critical temperature, in 1/16 °C. -/
inductive FatalCause where
  | lost (part : Lost)
  | temperature (temp : Int)
  deriving DecidableEq, Repr

/-- The spare map (R39, R46, R268): units declared failed; clusters whose spare core serves; spare columns in use by
core and macro; spare lanes in use by shaft, spare rows by pier; what is out of service; the pier whose Keystone homes
barrier shadows. -/
structure SpareMap where
  failed    : List UnitId
  cores     : List Nat
  columns   : List (Nat × Nat)
  lanes     : List Nat
  rows      : List Nat
  clusters  : List Nat
  shafts    : List Nat
  banks     : List (Nat × Nat × Nat)
  layers    : List (Nat × Nat)
  keystones : List Nat
  shadows   : Option Nat
  deriving DecidableEq, Repr

/-- A telemetry sample (R46, R95, R97, R158): every die and shaft temperature in 1/16 °C, module power, sr.svc, stretch
residency, spare usage, leaves left and whether they are below 65,536, the notice-key alarm, the notice flag, and the
binding table of every kernel that holds its cores. -/
structure Telemetry where
  dies       : List Int
  shafts     : List Int
  power      : Nat
  svc        : Nat
  residency  : Table Nat
  spares     : SpareMap
  leaves     : Nat
  leavesLow  : Bool
  keyAlarm   : Bool
  noticeFlag : Bool
  bindings   : List (Nat × List Nat)
  deriving DecidableEq, Repr

/-- One fault log written in PRESERVE (R47): what led to it, the kernels stopped, the spare map, the last telemetry
sample. -/
structure FaultLog where
  time      : Nat
  causes    : List FatalCause
  kernels   : List LogEntry
  spares    : SpareMap
  telemetry : Option Telemetry
  deriving DecidableEq, Repr

/-- The fault logs as the management port reads them (R46, R47): the logs, the times of power losses, failed boots,
notice parts, errors found by scrubbing (level and sector), and the bytes of the fault-log area. -/
structure FaultLogs where
  faults      : List FaultLog
  powerLosses : List Nat
  bootFails   : Nat
  notices     : List (List Byte)
  scrubs      : List (Nat × Nat)
  area        : Memory
  deriving DecidableEq, Repr

/-- The service states of R40. -/
inductive Service where
  | off | boot | calib | full | preserve
  deriving DecidableEq, Repr

/-- A firmware bank (R45). -/
structure Bank where
  image : Option Firmware := none
  verified : Bool := false
  deriving DecidableEq, Repr

/-- The management controller and the package's service (R40 to R47, R268). `toFull` waits for the
boundary of R40; `target` is the target stretch of R43. `sensors` is what a sample of R43 would find now, `sample` the
last one, taken at `sampledAt`. `losses` and `stopped` hold, from the entry to PRESERVE until the logs are written, what
led to it and the kernels stopped. Lengths of time are in 1/192 ns. -/
structure Mgmt where
  service  : Service := .off
  full     : Bool := false
  toFull   : Bool := false
  stretch  : Nat := 0
  target   : Nat := 0
  limhold  : Bool := false
  sensors  : Sample := ⟨[], 0, []⟩
  sample   : Sample := ⟨[], 0, []⟩
  sampledAt : Option Nat := none
  bankA    : Bank := {}
  bankB    : Bank := {}
  activeB  : Bool := false
  nextB    : Bool := false
  fuses    : Nat := 0
  bootFails : Nat := 0
  powerLosses : List Nat := []
  losses   : List FatalCause := []
  stopped  : List LogEntry := []
  log      : List FaultLog := []
  scrubs   : List (Nat × Nat) := []
  noticeFlag : Bool := false
  notices  : List (List Byte) := []
  telemetry : Option Telemetry := none
  telemAt  : Option Nat := none
  residency : Table Nat := []
  failN    : Nat := 3
  failWin  : Nat := 192000000000
  events   : List (UnitId × Nat) := []
  failed   : List UnitId := []
  clusters : Table Cluster := []
  shafts   : Table Shaft := []
  banksOut : List (Nat × Nat × Nat) := []
  layersOut : List (Nat × Nat) := []
  clustersOut : List Nat := []
  feat1    : Word64 := 0x0600808000000001
  testRd   : Table (List Byte) := []
  deriving DecidableEq, Repr

/-! ## Links -/

/-- Port states of R244. -/
inductive PortState where
  | down | training | sync | up | degraded | failed
  deriving DecidableEq, Repr

/-- A port (R244, R246, R260). `sent` is the replay buffer: the last 512 flits as sent; `retryAt` the time of the next
training after a failed one; `ident` what the last IDENT in SYNC said: payload bytes 0 to 19. -/
structure Port where
  st        : PortState := .down
  signal    : Bool := false
  trainFail : Nat := 0
  lanes     : BitVec 8 := 0
  fseq      : BitVec 16 := 0
  lack      : BitVec 16 := 0xFFFF
  peerLack  : BitVec 16 := 0xFFFF
  waitFseq  : Option (BitVec 16) := none
  replays   : Nat := 0
  lastReplay : Option (BitVec 16) := none
  sent      : List (List Byte) := []
  replay    : Nat := 0
  fecCorr   : Nat := 0
  fecUnc    : Nat := 0
  peerNode  : Nat := 0
  peerPort  : Nat := 0
  since     : Nat := 0
  retryAt   : Option Nat := none
  ident     : Option (List Byte) := none
  deriving DecidableEq, Repr

/-- A message the chip has sent or holds for sending (R194, R251). `ref` names the barrier of the
sender it counts on: kernel, role, address. -/
structure Message where
  node   : Nat
  type   : Nat
  seq    : Nat
  stamp  : Nat
  addr   : Nat
  csram  : Bool
  handle : Nat
  value  : Word64
  ctx    : Nat
  data   : List Byte
  resent : Bool
  port   : Option Nat
  ref    : Option (Nat × Nat × Nat)
  owner  : Option (Nat × Nat × Nat)
  places : List Nat := []
  coll   : Bool := false
  deriving DecidableEq, Repr

/-- What the chip keeps for a node (R251, R260). `marks` is the bitmap above APPLIED. -/
structure NodeStatus where
  txSeq   : Nat := 0
  applied : Nat := 0
  marks   : List Nat := []
  dup     : Nat := 0
  late    : Nat := 0
  outset  : Nat := 0
  stray   : Nat := 0
  badPaths : List Nat := []
  deriving DecidableEq, Repr

/-- Time states of R259. -/
inductive TimeState where
  | locked | holdover | unsync
  deriving DecidableEq, Repr

/-- A received message or flag that waits to be applied (R195). `total` is the length it will have when whole; `behind`
lists the data of the same sender that a flag has found waiting. -/
structure Inbound where
  node  : Nat
  type  : Nat
  seq   : Nat
  stamp : Nat
  addr  : Nat
  csram : Bool
  value : Word64
  ctx   : Nat
  data  : List Byte
  total : Nat
  handle : Nat
  port : Nat
  behind : List Nat := []
  places : List Nat := []
  coll : Bool := false
  moved : Nat := 0
  deriving DecidableEq, Repr

/-- Where a collective stands (R424). -/
inductive CollState where
  | waiting | running | done | aborted | refused
  deriving DecidableEq, Repr

/-- A collective (R419 to R424): its descriptor, the owner that handed it over, its round, the engine's
own barrier record, and whether the round's local work is done. `queue` is the COLL queue command. `prep`, `slots` and `work`
count the network slots still needed for ACC := BUF, for the round's data before they leave, and for its local work;
`since` is when the engine took it (R113, R423); `owner` is the kernel, the role and the number of the COLL.START that handed it over
(R187). -/
structure Coll where
  va     : Nat
  desc   : List Byte
  ctx    : Nat
  kid    : Option Nat
  queue  : Option Nat
  st     : CollState
  round  : Nat
  rounds : Nat
  cause  : Nat
  bar    : List Byte
  barUps : List BarUpdate
  local_ : Bool
  early  : List (Nat × Nat)
  sentRound : Nat
  slots  : Nat := 0
  prep   : Nat := 0
  work   : Nat := 0
  since  : Nat := 0
  owner  : Option (Nat × Nat × Nat) := none
  deriving DecidableEq, Repr

/-- The collective domain as applied, ports, messages and time (R242 to R260). `clock` is the 1588 time
in 1/192 ns, `elapsed` the time that has passed, which no sync sets; `lastSync`, `sentSync` and `sentMgmt` when the last sync
came and when TIME flits and the management port's syncs were last sent, by `elapsed`; `masters` the data sets announced at the ports, 18 for the
management port (R258); `controls` the control messages of this cycle (R253); `busy` the memory instances that took a
message's sector in this cycle. -/
structure Link where
  epoch   : Nat := 0
  porten  : Nat := 0
  wcode   : Nat := 0
  nodes   : Nat := 0
  self    : Nat := 0
  lastSt  : Nat := 0
  table   : List Byte := []
  ports   : Table Port := []
  status  : Table NodeStatus := []
  time    : TimeState := .unsync
  clock   : Nat := 0
  elapsed : Nat := 0
  lastSync : Nat := 0
  sentSync : Nat := 0
  sentMgmt : Nat := 0
  masters : Table (List Nat) := []
  controls : List Flit := []
  queueOut : List Message := []
  unacked : List Message := []
  inbound : List Inbound := []
  flags   : List Inbound := []
  partial_ : List Inbound := []
  colls   : List Coll := []
  busy    : List Nat := []
  deriving DecidableEq, Repr

/-- The outbound stream of a role of a kernel beyond the boundary (R187): commands in start order, and
the persist epochs each of whose sectors is not yet durable. `closed` counts epochs ended by PBAR.dur,
with the barrier that waits on each (R200). `flagUntil` is the window by whose start every flag sent so far
is applied (R195). -/
structure Stream where
  kid   : Nat
  role  : Nat
  cmds  : List OutCmd
  pbars : List (Nat × Nat)
  depoch : Nat
  epoch : Nat
  flagUntil : Nat
  final : Option Nat
  deriving DecidableEq, Repr

/-! ## Inputs and the agenda -/

/-- The mode of a service-core access (R80, R98, R247). -/
inductive SvcMode where
  | user | supervisor | machine
  deriving DecidableEq, Repr

/-- What reaches the module from outside: a row of the table; a service core's write into queue memory, or its read
of Cistern or Well (R21); a mark that the hardware condition of R269 or R266 has arisen; an error of the save area at
the n-th of a kernel's frames (R85); a Well write that the Well refuses (R207); a link counter; a command at the
management port with whether the controller authenticates it (R46); what the sensors read from now on (R43); an error
that scrubbing finds, at a core, a level and a sector (R269); a defect of a cluster that goes away (R277); another
chip's remote read message, by the addresses of its sectors, of an endpoint of this one (R454); a service core's read of
queue memory in a mode (R98, R247). -/
inductive Input where
  | row (i : Instr)
  | port (authentic : Bool) (i : Instr)
  | sensors (m : Sample)
  | scrub (phys level sector : Nat)
  | mend (cluster : Nat)
  | qmemWrite (mode : SvcMode) (addr : Nat) (data : List Byte)
  | serviceRead (addr len : Nat)
  | ueCore (phys level unit : Nat)
  | ueMem (level addr : Nat)
  | glitch (phys : Nat) (x : Glitch)
  | saveError (kid n : Nat)
  | wellRefused (core : Nat)
  | defect (cluster : Nat)
  | fec (port corr unc : Nat)
  | remoteData (index : Nat) (data : List Byte)
  | remoteRequest (node ctx : Nat) (addrs : List Nat)
  | qmemRead (mode : SvcMode) (addr len : Nat)
  deriving DecidableEq, Repr

/-- A point within a phase at which the rows that are then due join the agenda. -/
inductive Poll where
  | kernels | points | reads | boundary | outcomes | ends | holds | control | doors | completions | dispatch
  deriving DecidableEq, Repr

/-- What the module answers to the outside: the queue-event interrupt of a queue (R117), an access fault of a service
core at an address (R21, R80), the data of its read (R21), the end of its Well write (R453), telemetry and fault logs
at the management port (R46), the data of another chip's remote read (R454), a PTP message at the management port, by its
kind (R258). -/
inductive Reply where
  | queueEvent (queue : Nat)
  | accessFault (addr : Nat)
  | readData (addr : Nat) (data : List Byte)
  | wellWritten (addr len : Nat)
  | remoteData (node addr : Nat) (data : List Byte)
  | telemetry (t : Telemetry)
  | faultLogs (x : FaultLogs)
  | ptp (kind : Nat) (body : List Byte)
  deriving DecidableEq, Repr

/-- One item of the step's agenda: a row to execute, a core whose bundle issues, the beats of a core, an
input, a command that is none, a poll. -/
inductive Item where
  | row (i : Instr)
  | issue (core : Nat)
  | beats (core : Nat)
  | input (x : Input)
  | badCommand (queue : Nat)
  | badControl
  | poll (p : Poll)
  deriving DecidableEq, Repr

/-- The phases of a package cycle, in the order in which the model takes them (R77, R117, R129, R168,
R181, R186). -/
inductive Phase where
  | start | engine | beats | keystone | issue | land | finish | command
  deriving DecidableEq, Repr

/-- The module. `cyc` is sr.cyc; `replies` lists what has been answered, each with its cycle; `act` is the core whose bundle is in progress. `free` counts the free values taken (the model's own field). `eager` says when a step happens
whose time the spec leaves open: as soon as it can, or only when an input brings it (the model's own field). -/
structure State where
  cyc     : Nat
  phase   : Phase
  agenda  : List Item
  inputs  : List (Nat × Input)
  replies : List (Nat × Reply)
  act     : Nat
  free    : Nat
  nextKid : Nat
  eager   : Bool
  mgmt    : Mgmt
  cp      : CmdProc
  mem     : Mem
  ks      : Keystones
  link    : Link
  streams : List Stream
  kernels : Table Kernel
  cores   : Table Core
  deriving DecidableEq, Repr

/-- The module as shipped, before its supply is good (R40): every register at its reset value, nothing
placed in any memory. -/
def State.reset : State where
  cyc := 0
  phase := .start
  agenda := []
  inputs := []
  replies := []
  act := 0
  free := 0
  nextKid := 0
  eager := true
  mgmt := {}
  cp := {}
  mem := {}
  ks := {}
  link := {}
  streams := []
  kernels := []
  cores := []

end Sys2Proof.Machine
end

