-- ==== Sys2Proof/Machine/Ops.lean ====
section
/-!
DEFINITION. The named operations over tables, memories and registers; the checks shared by
instructions; taking a trap (R261 to R265) and returning from one.
-/
namespace Sys2Proof.Machine

/-- What a step of the module answers. -/
abbrev Out := Host.Outcome State Fault Refusal

/-! ## Tables and memories -/

/-- The value at a key; `d` where none is listed. Keys rise. -/
def tget {α : Type} (d : α) (t : Table α) (k : Nat) : α :=
  match t with
  | [] => d
  | (j, v) :: rest => if k = j then v else if k < j then d else tget d rest k

/-- Lists a value at a key. -/
def tset {α : Type} (t : Table α) (k : Nat) (v : α) : Table α :=
  match t with
  | [] => [(k, v)]
  | (j, w) :: rest =>
    if k = j then (k, v) :: rest
    else if k < j then (k, v) :: (j, w) :: rest
    else (j, w) :: tset rest k v

/-- Removes a key. -/
def tdel {α : Type} (t : Table α) (k : Nat) : Table α :=
  match t with
  | [] => []
  | (j, w) :: rest => if k = j then rest else if k < j then (j, w) :: rest else (j, w) :: tdel rest k

/-- Whether a key is listed, and its value. -/
def tfind {α : Type} (t : Table α) (k : Nat) : Option α :=
  match t with
  | [] => none
  | (j, v) :: rest => if k = j then some v else if k < j then none else tfind rest k

/-- What a byte that nothing has written reads as (log entry 2). -/
def unwritten : Byte := 0

/-- The byte at an address. -/
def memRead (m : Memory) (a : Nat) : Byte := tget unwritten m a

/-- Writes one byte, keeping the canonical form. -/
def memWrite (m : Memory) (a : Nat) (b : Byte) : Memory := if b = unwritten then tdel m a else tset m a b

/-- `n` bytes from an address up. -/
def readBytes (m : Memory) (a : Nat) : Nat → List Byte
  | 0 => []
  | n + 1 => memRead m a :: readBytes m (a + 1) n

/-- Writes bytes from an address up. -/
def writeBytes (m : Memory) (a : Nat) (bs : List Byte) : Memory :=
  match bs with
  | [] => m
  | b :: rest => writeBytes (memWrite m a b) (a + 1) rest

/-- A little-endian number in memory (R3). -/
def readLE (m : Memory) (a n : Nat) : Nat := leNat (readBytes m a n)

/-- Writes the cells of a list, in order. -/
def writeCells (m : Memory) (cs : List (Nat × Byte)) : Memory := cs.foldl (fun m c => memWrite m c.1 c.2) m

/-- A field of `n` bytes at an offset of a record (R3). -/
def fieldLE (bs : List Byte) (off n : Nat) : Nat := leNat ((bs.drop off).take n)

/-- Whether bytes off to off + n − 1 of a record are all 0. -/
def zeroBytes (bs : List Byte) (off n : Nat) : Bool := ((bs.drop off).take n).all (· == 0)

/-- Replaces the bytes of a record from an offset on. -/
def patch (bs : List Byte) (off : Nat) (new : List Byte) : List Byte :=
  bs.take off ++ new ++ bs.drop (off + new.length)

/-- The canonical form of a memory: addresses rise, and no byte listed equals an unlisted one. -/
def Memory.wf : Memory → Bool
  | [] => true
  | (a, b) :: rest =>
    b != unwritten && (match rest with | [] => true | (a2, _) :: _ => decide (a < a2)) && Memory.wf rest

/-- Bits hi down to lo of a number (R3). -/
def bitsOf (x hi lo : Nat) : Nat := x / 2 ^ lo % 2 ^ (hi + 1 - lo)

/-- One bit of a number. -/
def bitOf (x k : Nat) : Bool := x / 2 ^ k % 2 == 1

/-- A two's-complement field of `n` bits. -/
def signedOf (n x : Nat) : Int := (BitVec.ofNat n x).toInt

/-- Least multiple of `m` at or above `x`. -/
def roundUp (x m : Nat) : Nat := (x + m - 1) / m * m

/-- Quotient rounded up. -/
def ceilDiv (x m : Nat) : Nat := (x + m - 1) / m

/-! ## Cores and kernels of the state -/

def State.core (s : State) (i : Nat) : Core := tget {} s.cores i

def State.setCore (s : State) (i : Nat) (c : Core) : State := { s with cores := tset s.cores i c }

/-- The core whose bundle is in progress. -/
def State.me (s : State) : Core := s.core s.act

def State.setMe (s : State) (c : Core) : State := s.setCore s.act c

def State.kernel? (s : State) (kid : Nat) : Option Kernel := tfind s.kernels kid

def State.setKernel (s : State) (kid : Nat) (k : Kernel) : State :=
  { s with kernels := tset s.kernels kid k }

/-- Changes a kernel, if it is there. -/
def State.updKernels (s : State) (f : Kernel → Kernel) : State :=
  { s with kernels := s.kernels.map (fun (i, k) => (i, f k)) }

def State.updKernel (s : State) (kid : Nat) (f : Kernel → Kernel) : State :=
  match s.kernel? kid with
  | none => s
  | some k => s.setKernel kid (f k)

/-- Changes a core. -/
def State.updCore (s : State) (i : Nat) (f : Core → Core) : State := s.setCore i (f (s.core i))

/-- The kernel a core is bound to. -/
def State.kernelOf (s : State) (c : Core) : Option Kernel :=
  match c.kid with
  | none => none
  | some kid => s.kernel? kid

/-- sr.ttc as a core reads it (R124). -/
def State.ttcOf (s : State) (c : Core) : Nat :=
  match s.kernelOf c with
  | none => 0
  | some k => k.ttc

/-- Cluster of a physical core, 32·pier + cluster. -/
def clusterOf (phys : Nat) : Nat := phys / 5

/-- Pier of a physical core. -/
def pierOf (phys : Nat) : Nat := phys / 160

/-- Position of a role in its cluster: its rank among the kernel's roles bound there (R150). -/
def positionOf (k : Kernel) (role : Nat) : Nat :=
  let cl := clusterOf (k.bind.getD role 0)
  ((k.bind.take role).filter (fun p => clusterOf p == cl)).length

/-- Takes a free value: the counter, and the state with it advanced. -/
def State.takeFree (s : State) : Nat × State := (s.free, { s with free := s.free + 1 })

/-! ## Registers (R285) -/

def gRead (c : Core) (r : Nat) : Word64 := if r = 0 then 0 else tget 0 c.g r

def pRead (c : Core) (r : Nat) : Bool := if r = 0 then true else if r = 1 then false else c.p.getLsbD r

def mRead (c : Core) (r : Nat) : Word64 := if r = 0 then 0xFFFFFFFFFFFFFFFF else tget 0 c.m r

/-- A vector register of zeros. -/
def zeroLanes : Lanes := Vector.replicate 64 0

def vRead (c : Core) (r : Nat) : Lanes := tget zeroLanes c.v r

def xRead (c : Core) (r : Nat) : Word64 := tget 0 c.x r

def fRead (c : Core) (r : Nat) : Word32 := tget 0 c.f r

def cRead (c : Core) (k : Nat) : Word32 := tget 0 c.c k

/-- A lane of a vector register. -/
def lane (w : Lanes) (i : Nat) : Word32 := w.toArray.getD i 0

/-- A lane word from a function of the lane number. -/
def mkLanes (f : Nat → Word32) : Lanes := Vector.ofFn (fun i : Fin 64 => f i.val)

/-- A 64-bit mask from a function of the bit number. -/
def mkMask (f : Nat → Bool) : Word64 :=
  BitVec.ofNat 64 ((List.range 64).foldl (fun acc i => if f i then acc + 2 ^ i else acc) 0)

/-- Lanes of `new` where the mask is 1, of `old` elsewhere (R286, R334). -/
def mergeLanes (mask : Word64) (old new : Lanes) : Lanes :=
  mkLanes (fun i => if mask.getLsbD i then lane new i else lane old i)

/-- Whether a guard enables a slot (R288). -/
def enabled (c : Core) (h : Hd) : Bool := pRead c h.pred.toNat != h.neg

/-- A special register's write (R322, R436): numbers and fields of R434 that take one. -/
def srStore (c : Core) (num : Nat) (w : Word64) : Core :=
  if num = 0x00A then { c with shsel := w.setWidth 7 }
  else if num = 0x00D then { c with rmode := w.setWidth 3 }
  else if num = 0x00F then { c with epicfg := w.setWidth 32 &&& 0xFFFC0 }
  else if 0x020 ≤ num ∧ num < 0x030 then
    let n := num - 0x020
    { c with bfmt := (c.bfmt &&& ~~~(0xF#64 <<< (4 * n))) ||| ((w &&& 0xF) <<< (4 * n)) }
  else if 0x030 ≤ num ∧ num < 0x038 then { c with mbox := tset c.mbox (num - 0x030) w }
  else if num = 0x100 then { c with trap := { c.trap with supp := w.extractLsb' 16 8 } }
  else if num = 0x103 then { c with trap := { c.trap with pc := w } }
  else if num = 0x104 then { c with trap := { c.trap with br := w } }
  else if num = 0x106 then { c with tvb := w &&& ~~~(0x3F#64) }
  else c

/-- Performs one register write. Writes to g0, p0, p1 and m0 are discarded (R285). -/
def applyWrite (c : Core) (w : RegWrite) : Core :=
  match w with
  | .g r w => if r = 0 then c else { c with g := tset c.g r w }
  | .p r b =>
    if r < 2 then c
    else { c with p := if b then c.p ||| (1#16 <<< r) else c.p &&& ~~~(1#16 <<< r) }
  | .v r mask w => { c with v := tset c.v r (mergeLanes mask (vRead c r) w) }
  | .m r mask w =>
    if r = 0 then c else { c with m := tset c.m r ((mRead c r &&& ~~~mask) ||| (w &&& mask)) }
  | .x r w => { c with x := tset c.x r w }
  | .f r w => { c with f := tset c.f r w }
  | .sr num w => srStore c num w
  | .xres key w => { c with xres := tset c.xres key w }

/-- The cycle at whose end a result of latency `lat` lands, for an instruction issued now: a timetable
cycle in task mode, a package cycle in system mode (R29, R131, R132). -/
def dueAt (s : State) (c : Core) (lat : Nat) : Due :=
  if c.mode = .task then .ttc (s.ttcOf c + lat - 1) else .cyc (s.cyc + lat - 1)

/-- The cycle that orders writes by issue (R172). -/
def issueStamp (s : State) (c : Core) : Nat := if c.mode = .task then s.ttcOf c else s.cyc

/-- A word of a register file: those with pending bits, by the code of R173, and the constant bank `c`, which
has none (R285). -/
inductive RegName where
  | g (r : Nat) | p (r : Nat) | v (r : Nat) | m (r : Nat) | x (r : Nat) | f (r : Nat) | c (r : Nat)
  deriving DecidableEq, Repr

def RegName.info : RegName → Nat
  | .g r => r
  | .p r => 0x100 + r
  | .v r => 0x200 + r
  | .m r => 0x300 + r
  | .x r => 0x400 + r
  | .f r => 0x500 + r
  | .c r => 0x600 + r

/-- The word a register write names, for pending bits; special and result registers have none, and a write under a
mask of zeros writes no word (R173). -/
def RegWrite.reg? (w : RegWrite) : Option RegName :=
  match w with
  | .g r _ => some (.g r)
  | .p r _ => some (.p r)
  | .v r mask _ => if mask = 0 then none else some (.v r)
  | .m r mask _ => if mask = 0 then none else some (.m r)
  | .x r _ => some (.x r)
  | .f r _ => some (.f r)
  | .sr _ _ | .xres _ _ => none

/-- Sets the pending bit of a word that a write of latency `lat` names (R173). -/
def pendSet (pend : List Nat) (n : Option RegName) (lat : Nat) : List Nat :=
  match n with
  | none => pend
  | some n => if lat > 1 then n.info :: pend else pend

/-- Clears the pending bit of a word when a write with latency above 1 lands, unless another such write of the word is
still to land: `pend` lists a word once for each (R173, R355). -/
def pendClear (pend : List Nat) (n : Option RegName) : List Nat :=
  match n with
  | none => pend
  | some n => pend.erase n.info

/-- Stages a write of the core's own pipeline (R172). Its pending bit is set when the bundle commits, after
the bundle's reads (R173). -/
def stage (s : State) (c : Core) (h : Hd) (lat : Nat) (w : RegWrite) : Core :=
  { c with
    staged := { c.staged with pend := pendSet c.staged.pend w.reg? lat }
    inflight := c.inflight ++
      [{ write := w, due := dueAt s c lat, rank := 1, issue := issueStamp s c, slot := h.slot.num,
         long := decide (lat > 1) }] }

/-- Stages the two writes of a predicate pair (R285). -/
def stagePair (s : State) (c : Core) (h : Hd) (lat pair : Nat) (t : Bool) : Core :=
  stage s (stage s c h lat (.p (2 * pair) t)) h lat (.p (2 * pair + 1) (!t))

/-! ## Data that a value of an MCALL with s > 0 has reached (R35, R89, log entry 61) -/

/-- Whether such a value has reached one of some private addresses. -/
def privLossy (c : Core) (addrs : List Nat) : Bool :=
  !c.lossyPriv.isEmpty && addrs.any (fun a => c.lossyPriv.contains (a / 64))

/-- The core once its registers are to take a value that such a value may have reached. -/
def noteLossy (c : Core) (on : Bool) : Core := if on then { c with lossy := true } else c

/-- The core once it has read private memory at some addresses. -/
def noteRead (c : Core) (addrs : List Nat) : Core := noteLossy c (privLossy c addrs)

/-- Writes of an engine to private memory, which land at the end of the cycle, and what R89 marks of them. -/
def engWrite (c : Core) (on : Bool) (cells : List (Nat × Byte)) : Core :=
  { c with
    engWrites := c.engWrites ++ cells
    lossyNew := if on then c.lossyNew ++ (cells.map (·.1 / 64)).eraseDups else c.lossyNew }

/-! ## Fault codes (R261) -/

def codeIllegalOpcode : Nat := 0x01
def codeEmulate : Nat := 0x02
def codeIllegalOperand : Nat := 0x03
def codePrivilege : Nat := 0x04
def codeDelayBranch : Nat := 0x05
def codeTrap : Nat := 0x06
def codePending : Nat := 0x07
def codeTileOwn : Nat := 0x08
def codePrivRange : Nat := 0x09
def codeTxbFull : Nat := 0x0A
def codeTxbAccess : Nat := 0x0B
def codeTxbState : Nat := 0x0C
def codeClip : Nat := 0x0D
def codeSparseMeta : Nat := 0x0E
def codeDecompRef : Nat := 0x0F
def codeDecompCode : Nat := 0x10
def codeCmpOvf : Nat := 0x11
def codeSlip : Nat := 0x40
def codeBudget : Nat := 0x41
def codePage : Nat := 0x42
def codeHoldIssue : Nat := 0x43
def codeRegion : Nat := 0x44
def codeTimeLimit : Nat := 0x45
def codeDrainMiss : Nat := 0x46
def codeSaveErr : Nat := 0x47
def codeUe : Nat := 0x60
def codeShadow : Nat := 0x61
def codeShaftDegraded : Nat := 0x62
def codePkgFatal : Nat := 0x63

/-- A kernel-ending code (R261). -/
def kernelEnding (code : Nat) : Bool := code ≥ 0x40

/-- A relaunchable code (R261). -/
def relaunchable (code : Nat) : Bool := code == codeUe || code == codeShadow || code == codeShaftDegraded

/-! ## Taking a trap (R261, R264, R265) -/

/-- The choice of R134 and R153 within SLIP and BUDGET: the lowest slip subcode; the lowest activity, and
subcode 2 before subcode 1. -/
def subKey (code info : Nat) : Nat :=
  if code = codeSlip then info % 256
  else if code = codeBudget then info / 256 % 16 * 4 + (3 - info % 4)
  else 0

/-- The order of R265 among the faults that end a kernel: kernel-ending codes by code, then handled codes. -/
def faultKey (f : CoreFault) : Nat :=
  if kernelEnding f.code then f.code * 0x100 + subKey f.code f.info else 0x10000 + f.code

/-- A fault that ends the kernel, raised in a core; the first in the order of R265 is kept. -/
def endWith (c : Core) (f : CoreFault) : Core :=
  match c.kfault with
  | none => { c with kfault := some f }
  | some g => if faultKey f < faultKey g then { c with kfault := some f } else c

/-- A kernel-ending fault raised in a core. -/
def endFault (c : Core) (code : Nat) (info : Word64) : Core := endWith c ⟨code, info.toNat, c.mode != .task⟩

/-- What an error at a storage level, with its information word or address, is an event of (R268): the level and the
sector's address. Level 0 stands for SHADOW. -/
def eventUnit (level info : Nat) : Nat × Nat := (level, info / 64 * 64)

/-- The information word of SHADOW: unit and lane, and sr.ttc (R267). -/
def shadowInfo (ttc : Nat) (unitLane : Word64) : Word64 :=
  unitLane + BitVec.ofNat 64 (ttc % 2 ^ 32 * 2 ^ 32)

/-- SHADOW of a core (R267): its kernel ends, and the event counts against the core, but for unit 4, whose event
its Keystone has noted (R268). -/
def shadowFault (ttc : Nat) (c : Core) (u : Word64) : Core :=
  endFault { c with found := if u.toNat % 256 = 4 then c.found else c.found ++ [(0, 0)] } codeShadow (shadowInfo ttc u)

/-- The literal word of a slot's syllable in the bundle in progress (R283). -/
def literalOf (c : Core) (slot : Nat) : Word32 :=
  match c.cur.syls.find? (fun y => y.slot.num == slot) with
  | none => 0
  | some y => y.lit

/-- TakeTrap (R264), or the end of the kernel where R261 gives it: a kernel-ending code, a code raised in
system mode (NEST = 1), or a core whose sr.tvb is 0. `pc` is the address that sr.tpc takes. A PAGE fault of a beat
leaves its information and iteration vector in sr.tinfo (R219). -/
def takeTrap (s : State) (c : Core) (t : TrapReq) (pc : Nat) : Core :=
  let system := c.mode != .task
  if kernelEnding t.code || system || c.tvb == 0 then
    { (endWith c ⟨t.code, t.info.toNat, system⟩) with
      trapped := true
      trap := if t.code = codePage && t.eng then { c.trap with info := t.info, iter := t.iter } else c.trap
      found := if t.code = codeUe then c.found ++ [eventUnit (t.info.toNat % 64) t.info.toNat] else c.found }
  else
    { c with
      trapped := true
      mode := .handler
      trap :=
        { supp := 0, nest := false, eng := t.eng, slot := BitVec.ofNat 3 t.slot,
          code := BitVec.ofNat 8 t.code, info := t.info, iter := t.iter,
          pc := BitVec.ofNat 64 (if c.done then 0 else pc),
          br := if c.dly > 0 then BitVec.ofNat 64 c.br else 0,
          dly := BitVec.ofNat 2 c.dly,
          lit := if t.eng then c.trap.lit else literalOf c t.slot }
      pc := c.tvb.toNat
      hNextAt := some (s.cyc + 1)
      dly := 0
      br := 0
      taskDly := c.dly
      taskCall := c.callAt
      taskFrom := c.brFrom
      callAt := none
      brFrom := none
      suppNow := 0
      staged := {} }

/-- Whether an operation that a handler issued is still in progress (R132). -/
def handlerBusy (c : Core) : Bool :=
  c.inflight.any (fun l => match l.due with | .cyc _ => true | .ttc _ => false)
    || (match c.oload with | some o => o.sys | none => false)
    || (match c.wload with | some o => o.sys | none => false)
    || (match c.mcall with | some o => o.sys | none => false)
    || (match c.pop with | some o => o.sys | none => false)
    || c.mploads.any (fun m => match m.due with | .cyc _ => true | .ttc _ => false)

/-- Return from a trap handler (R264): task mode, the bundle at sr.tpc once with the slots of SUPP
treated as NOP, the delay bundles and the branch target of the record; the handler's loop levels go
(R333). -/
def returnFromTrap (c : Core) : Core :=
  { c with
    mode := .task
    pc := c.trap.pc.toNat
    dly := c.trap.dly.toNat
    br := c.trap.br.toNat
    callAt := c.taskCall
    brFrom := c.taskFrom
    taskCall := none
    taskFrom := none
    suppNow := c.trap.supp
    trap := { c.trap with supp := 0 }
    loops := c.loops.filter (fun l => !l.sys)
    eretWait := false }

/-! ## What a slot does -/

/-- The effect of one slot on its core: the core after it, or a trap with its information word. -/
inductive Eff where
  | ok (c : Core)
  | trap (code : Nat) (info : Word64)

/-- The operand trap of a class and subcode (R283). -/
def operandTrap (info : Nat) : Eff := .trap codeIllegalOperand (BitVec.ofNat 64 info)

/-- What has come of a slot: its effect on the core, or its trap. -/
def settleSlot (h : Hd) (s : State) (e : Eff) : Out :=
  match e with
  | .ok c => .next (s.setMe c)
  | .trap code info => .next (s.setMe (takeTrap s s.me ⟨code, info, 0, h.slot.num, false⟩ s.me.cur.addr))

/-- Runs one slot of the core in progress: nothing when its guard disables it (R288) or SUPP suppresses
it (R264); otherwise its effect, or its trap. -/
def runSlot (h : Hd) (s : State) (f : Core → Eff) : Out :=
  let c := s.me
  if !enabled c h || c.suppNow.getLsbD h.slot.num then .next s else settleSlot h s (f c)

/-! ## The pending-bit debug mode (R173) -/

/-- FLAGS.PENDDBG of the launch record (R118). -/
def pendDbg (s : State) (c : Core) : Bool :=
  match s.kernelOf c with
  | none => false
  | some k => bitOf (fieldLE k.record 6 1) 1

/-- The pending bit of a register (R173). -/
def isPending (c : Core) (n : RegName) : Bool := c.pend.contains n.info

/-- The registers a hard-wired read never waits for (R285). -/
def RegName.fixed : RegName → Bool
  | .g r => r == 0
  | .p r => r < 2
  | .m r => r == 0
  | .v _ | .x _ | .f _ | .c _ => false

/-- The first pending register among those read, when the mode is on (R173). -/
def firstPending (s : State) (c : Core) (reads : List RegName) : Option RegName :=
  if pendDbg s c then reads.find? (fun n => !n.fixed && isPending c n) else none

/-- The 8-byte words of the register files that hold a register (R269, log entry 99): 32 to a vector register, one
to the predicate file, one to two entries of the constant bank, else one to a register. A word's number is
32 times the info word of its first register, plus its place. -/
def RegName.ueUnits (n : RegName) : List Nat :=
  match n with
  | .v _ => (List.range 32).map (32 * n.info + ·)
  | .p _ => [32 * 0x100]
  | .c _ => [32 * (n.info / 2 * 2)]
  | .g _ | .m _ | .x _ | .f _ => [32 * n.info]

/-- Whether a register holds an uncorrectable error (R269); g0, p0, p1 and m0 are no storage. -/
def hasUe (c : Core) (n : RegName) : Bool := !n.fixed && n.ueUnits.any (fun u => c.ue.contains (9, u))

/-- The first register among those read that holds an uncorrectable error (R269). -/
def firstUe (c : Core) (reads : List RegName) : Option RegName := reads.find? (hasUe c)

/-- The information word of an error in a register: its number and level 9 (R269). -/
def RegName.ueWord (n : RegName) : Word64 := BitVec.ofNat 64 (n.info % 256 * 64 + 9)

/-- The information word of a UE (R269): sector address and storage level; in a cluster SRAM the address
within it (log entry 21). -/
def ueInfo (level addr : Nat) : Word64 :=
  BitVec.ofNat 64 ((if level = 5 then addr % Config.csramSize else addr) / 64 * 64 + level)

/-- An uncorrectable error is consumed by a core (R269): the event is noted for the unit it counts against (R268);
outside every region it ends the kernel with code UE; inside one it is noted for R273. `eng` tells an engine's read, `iter` its iteration vector. -/
def consumeUeIter (c : Core) (level : Nat) (info : Word64) (slot : Nat) (eng : Bool) (iter : Word64) : Core :=
  let c := { c with found := c.found ++ [eventUnit level info.toNat] }
  match c.regions with
  | [] => endFault c codeUe info
  | _ :: _ =>
    match c.ueHit with
    | some _ => c
    | none => { c with ueHit := some { level := level, info := info, slot := slot, eng := eng, iter := iter } }

/-- The same outside every iteration of a pump command. -/
def consumeUe (c : Core) (level : Nat) (info : Word64) (slot : Nat) (eng : Bool) : Core :=
  consumeUeIter c level info slot eng 0

/-- The writes that an operation of `d` would have made to registers of `c`, lost: they clear their pending bits
alone (R269). -/
def loseWrites (c d : Core) : Core :=
  { c with
    staged := { c.staged with pend := d.staged.pend }
    inflight := c.inflight ++ (d.inflight.drop c.inflight.length).map (fun l => { l with lost := true }) }

/-- A slot whose read meets an uncorrectable error (R269): outside every region UE, which ends the kernel and
the bundle with it (R8); inside one the error is noted, and of the slot's effect `e` nothing comes but the
cleared pending bits. -/
def ueEffect (c : Core) (level : Nat) (info : Word64) (slot : Nat) (e : Eff) : Eff :=
  if c.regions.isEmpty then .trap codeUe info
  else
    .ok (match e with
      | .ok d => loseWrites (consumeUe c level info slot false) d
      | .trap _ _ => consumeUe c level info slot false)

/-- PENDING beside what the instruction itself raises: R265 records a kernel-ending code first, then the
lowest code. -/
def orPending (e : Eff) (n : RegName) : Eff :=
  match e with
  | .ok _ => .trap codePending (BitVec.ofNat 64 n.info)
  | .trap code info =>
    if kernelEnding code || code < codePending then .trap code info
    else .trap codePending (BitVec.ofNat 64 n.info)

/-- A slot that reads registers, its guard among them whatever its value (R288): an uncorrectable word first
(R269), then its effect, with the trap of a pending word it reads (R173). -/
def runSlotReads (h : Hd) (reads : List RegName) (s : State) (f : Core → Eff) : Out :=
  let c := s.me
  let guard := RegName.p h.pred.toNat
  if c.suppNow.getLsbD h.slot.num then .next s
  else if hasUe c guard then settleSlot h s (ueEffect c 9 guard.ueWord h.slot.num (.ok c))
  else
    runSlot h s (fun c =>
      match firstUe c reads with
      | some n => ueEffect c 9 n.ueWord h.slot.num (f c)
      | none =>
        match firstPending s c (guard :: reads) with
        | some n => orPending (f c) n
        | none => f c)

end Sys2Proof.Machine
end

