-- ==== Sys2Proof/Machine/Operands.lean ====
section
/-!
DEFINITION. The operand forms of R284 to R287, R303 and R334: registers, constant-bank entries, literal
words, imm20 as an integer or as the high bits of an FP32 pattern, in scalar and in vector slots; lane
masks; the registers each form reads (R173).
-/
namespace Sys2Proof.Machine

/-! ## Scalar operands (slots S, A, M, E, Y) -/

/-- Operand b as a 64-bit value: a constant or literal is sign-extended (R286, R314). -/
def opbWord (c : Core) (b : OpB) : Word64 :=
  match b with
  | .reg r => gRead c r.toNat
  | .const k => (cRead c k.toNat).signExtend 64
  | .lit w => w.signExtend 64

/-- Operand b of TSYNC: a literal is zero-extended (R311, R427). -/
def opbWordZero (c : Core) (b : OpB) : Word64 :=
  match b with
  | .lit w => w.setWidth 64
  | .reg _ | .const _ => opbWord c b

/-- The registers operand b reads. -/
def opbReads (b : OpB) : List RegName :=
  match b with
  | .reg r => [.g r.toNat]
  | .const k => [.c k.toNat]
  | .lit _ => []

/-- imm20 as a 64-bit integer (R287). -/
def immWord (imm : BitVec 20) : Word64 := imm.signExtend 64

/-- imm20 as the high bits of an FP32 pattern (R287). -/
def immFloat (imm : BitVec 20) : Word32 := imm ++ 0#12

/-- imm20 as an FP32 pattern in a general register, zero-extended (R315). -/
def immFloatWord (imm : BitVec 20) : Word64 := (immFloat imm).setWidth 64

/-- imm20 as a lane of 32 bits (R334). -/
def immLane (imm : BitVec 20) : Word32 := imm.signExtend 32

/-- A general register named by a field. -/
def gAt (c : Core) (r : BitVec 6) : Word64 := gRead c r.toNat

/-- The address of an MI form: base plus byte offset, modulo 2^64 (R303). -/
def addrImm (c : Core) (a : BitVec 6) (imm : BitVec 20) : Word64 := gAt c a + immWord imm

/-- The address of an MR form: base plus byte index (R303). -/
def addrIndexed (c : Core) (a : BitVec 6) (b : OpB) : Word64 := gAt c a + opbWord c b

/-! ## Vector operands (slots V0 and V1) -/

/-- A vector register named by a field. -/
def vAt (c : Core) (r : BitVec 6) : Lanes := vRead c r.toNat

/-- Operand b of a vector instruction: a constant or literal is the same in every lane (R334). -/
def opbLanes (c : Core) (b : OpB) : Lanes :=
  match b with
  | .reg r => vAt c r
  | .const k => Vector.replicate 64 (cRead c k.toNat)
  | .lit w => Vector.replicate 64 w

/-- The registers operand b of a vector instruction reads. -/
def opbLaneReads (b : OpB) : List RegName :=
  match b with
  | .reg r => [.v r.toNat]
  | .const k => [.c k.toNat]
  | .lit _ => []

/-- The lane mask of a register form (R286, R334). -/
def maskOf (c : Core) (lm : BitVec 4) : Word64 := mRead c lm.toNat

/-- All lanes: the mask of an imm20 form. -/
def allLanes : Word64 := 0xFFFFFFFFFFFFFFFF

/-- The lanes of a function of two lane words. -/
def lanes2 (f : Word32 → Word32 → Word32) (x y : Lanes) : Lanes := mkLanes (fun i => f (lane x i) (lane y i))

/-- The lanes of a function of one lane word. -/
def lanes1 (f : Word32 → Word32) (x : Lanes) : Lanes := mkLanes (fun i => f (lane x i))

end Sys2Proof.Machine
end

