-- ==== Sys2Proof/Machine/Flags.lean ====
section
/-!
DEFINITION. Conditions: the codes of R304 for CMP and VCMP, the predicate logic of R320, the stage
predicates of R329.
-/
namespace Sys2Proof.Machine

/-- The condition of a CMP on two 64-bit values (R304, R319). Codes 6 and 7 do not reach execution. -/
def condHolds (code : Nat) (a b : Word64) : Bool :=
  match code with
  | 0 => a == b
  | 1 => a != b
  | 2 => a.slt b
  | 3 => !a.slt b
  | 4 => a.ult b
  | _ => !a.ult b

/-- The condition of a VCMP.f32 on two lanes: −0 equals +0; a NaN makes eq, lt and ge false and ne true
(R342). -/
def laneCondF32 (code : Nat) (a b : Word32) : Bool :=
  let x := f32Val a
  let y := f32Val b
  match code with
  | 0 => x.eqv y
  | 1 => !x.eqv y
  | 2 => x.lt y
  | _ => !x.isNaN && !y.isNaN && !x.lt y

/-- The condition of a VCMP.i32. -/
def laneCondI32 (code : Nat) (a b : Word32) : Bool :=
  match code with
  | 0 => a == b
  | 1 => a != b
  | 2 => a.slt b
  | _ => !a.slt b

/-- The condition of a VCMP.n32. -/
def laneCondN32 (code : Nat) (a b : Word32) : Bool :=
  match code with
  | 0 => a == b
  | 1 => a != b
  | 2 => a.ult b
  | _ => !a.ult b

/-- PAND, POR, PXOR and PANDN by the low two bits of their opcode (R320). -/
def predLogic (op : Nat) (a b : Bool) : Bool :=
  match op with
  | 0 => a && b
  | 1 => a || b
  | 2 => a != b
  | _ => a && !b

/-- Stage predicate k before pass j of a LOOP of n iterations (R329). -/
def stagePred (n j k : Nat) : Bool := k ≤ j && j - k < n

end Sys2Proof.Machine
end

