-- ==== Sys2Proof/Machine/Vector.lean ====
section
/-!
DEFINITION. The vector instructions (R334 to R346): lane results of a function of the operands, written
to the enabled lanes at the latency of R335.
-/
namespace Sys2Proof.Machine

/-! ## Shadow units -/

/-- The unit number of R267 of a vector slot. -/
def vectorUnit (h : Hd) : Nat := if h.slot = .v1 then 1 else 0

/-- The fault that has struck a unit of the core. -/
def struck (c : Core) (unit : Nat) : Option Glitch :=
  match c.glitch with
  | none => none
  | some x => if x.unit = unit then some x else none

/-- The low bits of the information word of SHADOW: unit and lane (R267). -/
def Glitch.info (x : Glitch) : Word64 := BitVec.ofNat 64 (x.unit % 256 + 256 * (x.lane % 64))

/-- One result of a unit in a format (R266): the datapath's bits, and the information of a divergence from the
shadow's result, which rounds toward zero. -/
def shadowed (f : FloatFmt) (hit : Option Glitch) (main shadow : Nat) : Nat × Option Word64 :=
  match hit with
  | none => (main, none)
  | some x =>
    let wrong := x.wrong.toNat % (2 * f.signBit)
    (wrong, if f.diverges wrong shadow then some x.info else none)

/-- The lanes of a unit's result under a fault, given the shadow's lanes, each lane seen as bits of a format; a lane that
the mask excludes is not written. -/
def shadowedLanesIn (f : FloatFmt) (bits : Word32 → Nat) (hit : Option Glitch) (mask : Word64) (w shadow : Lanes) :
    Lanes × Option Word64 :=
  match hit with
  | none => (w, none)
  | some x =>
    if mask.getLsbD x.lane then
      let wrong : Word32 := x.wrong.setWidth 32
      (mkLanes (fun i => if i = x.lane then wrong else lane w i),
       if f.diverges (bits wrong) (bits (lane shadow x.lane)) then some x.info else none)
    else (w, none)

/-- The same for lanes that are F32. -/
def shadowedLanes (hit : Option Glitch) (mask : Word64) (w shadow : Lanes) : Lanes × Option Word64 :=
  shadowedLanesIn fmtF32 (·.toNat) hit mask w shadow

/-- The fault is over once a result has taken it. -/
def spent (c : Core) (unit : Nat) : Core := if (struck c unit).isSome then { c with glitch := none } else c

/-- Stages a floating-point result with what the shadow of its unit found in it (R266, R267). -/
def stageShadowed (s : State) (c : Core) (h : Hd) (lat unit : Nat) (w : RegWrite) (found : Option Word64) : Core :=
  { c with
    staged := { c.staged with pend := pendSet c.staged.pend w.reg? lat }
    glitch := (spent c unit).glitch
    inflight := c.inflight ++
      [{ write := w, due := dueAt s c lat, rank := 1, issue := issueStamp s c, slot := h.slot.num,
         long := decide (lat > 1), shadow := found }] }

/-! ## Shared forms -/

/-- Writes lanes of a vector register under a mask. -/
def putV (s : State) (c : Core) (h : Hd) (lat : Nat) (d : BitVec 6) (mask : Word64) (w : Lanes) : Core :=
  stage s c h lat (.v d.toNat mask w)

/-- The rounding mode sampled at issue (R56). -/
def modeOf (c : Core) : Nat := c.rmode.toNat

/-- Writes lanes of a floating-point format, given by rounding mode: the sampled mode's, checked against those rounded
toward zero (R266). -/
def putVIn (f : FloatFmt) (bits : Word32 → Nat) (s : State) (c : Core) (h : Hd) (lat : Nat) (d : BitVec 6) (mask : Word64)
    (w : Nat → Lanes) : Core :=
  let r := shadowedLanesIn f bits (struck c (vectorUnit h)) mask (w (modeOf c)) (w 1)
  stageShadowed s c h lat (vectorUnit h) (.v d.toNat mask r.1) r.2

/-- The same for F32 lanes. -/
def putVF (s : State) (c : Core) (h : Hd) (lat : Nat) (d : BitVec 6) (mask : Word64) (w : Nat → Lanes) : Core :=
  putVIn fmtF32 (·.toNat) s c h lat d mask w

/-- A V3 instruction without rounding: vd[i] := f(a[i], b[i]). -/
def vector3 (lat : Nat) (f : Word32 → Word32 → Word32) (o : V3) (s : State) : Out :=
  runSlotReads o.hd (.v o.a.toNat :: .m o.lm.toNat :: opbLaneReads o.b) s
    (fun c => .ok (putV s c o.hd lat o.d (maskOf c o.lm) (lanes2 f (vAt c o.a) (opbLanes c o.b))))

/-- A V3 instruction that rounds with the sampled mode (R336). -/
def vector3F (lat : Nat) (f : Nat → Word32 → Word32 → Word32) (o : V3) (s : State) : Out :=
  runSlotReads o.hd (.v o.a.toNat :: .m o.lm.toNat :: opbLaneReads o.b) s
    (fun c => .ok (putVF s c o.hd lat o.d (maskOf c o.lm)
      (fun mode => lanes2 (f mode) (vAt c o.a) (opbLanes c o.b))))

/-- An imm20 twin on integer lanes; every lane. -/
def vectorImm (lat : Nat) (f : Word32 → Word32 → Word32) (o : GI) (s : State) : Out :=
  runSlotReads o.hd [.v o.a.toNat] s
    (fun c => .ok (putV s c o.hd lat o.d allLanes (lanes1 (fun x => f x (immLane o.imm)) (vAt c o.a))))

/-- An imm20 twin on F32 lanes. -/
def vectorImmF (lat : Nat) (f : Nat → Word32 → Word32 → Word32) (o : GI) (s : State) : Out :=
  runSlotReads o.hd [.v o.a.toNat] s
    (fun c => .ok (putVF s c o.hd lat o.d allLanes
      (fun mode => lanes1 (fun x => f mode x (immFloat o.imm)) (vAt c o.a))))

/-- A V2 instruction of latency 1. -/
def vector2 (f : Word32 → Word32) (o : V2) (s : State) : Out :=
  runSlotReads o.hd [.v o.a.toNat, .m o.lm.toNat] s
    (fun c => .ok (putV s c o.hd 1 o.d (maskOf c o.lm) (lanes1 f (vAt c o.a))))

/-! ## Moves (R337) -/

def execVmov (o : VB) (s : State) : Out :=
  runSlotReads o.hd (.m o.lm.toNat :: opbLaneReads o.b) s
    (fun c => .ok (putV s c o.hd 1 o.d (maskOf c o.lm) (opbLanes c o.b)))

def execVmovImm (o : GM) (s : State) : Out :=
  runSlotReads o.hd [] s
    (fun c => .ok (putV s c o.hd 1 o.d allLanes (Vector.replicate 64 (immLane o.imm))))

def execVmovFimm (o : GM) (s : State) : Out :=
  runSlotReads o.hd [] s
    (fun c => .ok (putV s c o.hd 1 o.d allLanes (Vector.replicate 64 (immFloat o.imm))))

def execVbcast (o : V2) (s : State) : Out :=
  runSlotReads o.hd [.g o.a.toNat, .m o.lm.toNat] s
    (fun c => .ok (putV s c o.hd 1 o.d (maskOf c o.lm)
      (Vector.replicate 64 ((gAt c o.a).setWidth 32))))

/-- VEXT writes gd only when the mask bit of its lane is 1 (R337). -/
def execVext (o : VExtOps) (s : State) : Out :=
  runSlotReads o.hd [.v o.a.toNat, .m o.lm.toNat] s
    (fun c =>
      if (maskOf c o.lm).getLsbD o.lane.toNat then
        .ok (stage s c o.hd 2 (.g o.d.toNat ((lane (vAt c o.a) o.lane.toNat).setWidth 64)))
      else .ok c)

/-! ## Arithmetic (R338, R339) -/

def execVaddF32 (o : V3) (s : State) : Out := vector3F 3 f32Add o s

def execVaddI32 (o : V3) (s : State) : Out := vector3 3 (· + ·) o s

def execVaddF32Imm (o : GI) (s : State) : Out := vectorImmF 3 f32Add o s

def execVaddI32Imm (o : GI) (s : State) : Out := vectorImm 3 (· + ·) o s

def execVmulF32 (o : V3) (s : State) : Out := vector3F 3 f32Mul o s

def execVmulI32 (o : V3) (s : State) : Out := vector3 3 (· * ·) o s

def execVmulF32Imm (o : GI) (s : State) : Out := vectorImmF 3 f32Mul o s

def execVmulI32Imm (o : GI) (s : State) : Out := vectorImm 3 (· * ·) o s

def execVsubF32 (o : V3) (s : State) : Out := vector3F 3 f32Sub o s

def execVsubI32 (o : V3) (s : State) : Out := vector3 3 (· - ·) o s

/-- One lane of VFMA: the exact product and sum, rounded once (R339). -/
def fmaLane (mode : Nat) (negP negA : Bool) (a b c : Word32) : Word32 :=
  let p := (f32Val a).mul (f32Val b)
  let p := if negP then p.neg else p
  let q := if negA then (f32Val c).neg else f32Val c
  f32Round mode (p.add (roundsDown mode) q)

/-- The lanes of VFMA. -/
def fmaLanes (mode : Nat) (negP negA : Bool) (a b c : Lanes) : Lanes :=
  mkLanes (fun i => fmaLane mode negP negA (lane a i) (lane b i) (lane c i))

def execVfma (o : VFmaOps) (s : State) : Out :=
  runSlotReads o.hd (.v o.a.toNat :: .v o.c.toNat :: .m o.lm.toNat :: opbLaneReads o.b) s
    (fun c => .ok (putVF s c o.hd 4 o.d (maskOf c o.lm)
      (fun mode => fmaLanes mode o.negP o.negA (vAt c o.a) (opbLanes c o.b) (vAt c o.c))))

/-! ## Minimum, maximum, sign (R340) -/

def laneMinI (a b : Word32) : Word32 := if b.slt a then b else a
def laneMaxI (a b : Word32) : Word32 := if a.slt b then b else a
def laneMinN (a b : Word32) : Word32 := if b.ult a then b else a
def laneMaxN (a b : Word32) : Word32 := if a.ult b then b else a

def execVminF32 (o : V3) (s : State) : Out := vector3F 2 (fun _ => f32Min) o s

def execVminI32 (o : V3) (s : State) : Out := vector3 2 laneMinI o s

def execVminN32 (o : V3) (s : State) : Out := vector3 2 laneMinN o s

def execVmaxF32 (o : V3) (s : State) : Out := vector3F 2 (fun _ => f32Max) o s

def execVmaxI32 (o : V3) (s : State) : Out := vector3 2 laneMaxI o s

def execVmaxN32 (o : V3) (s : State) : Out := vector3 2 laneMaxN o s

/-- VABS clears bit 31 of a lane that is no NaN. -/
def laneAbs (a : Word32) : Word32 := if f32IsNaN a then f32NaN else a &&& 0x7FFFFFFF

/-- VNEG inverts bit 31 of a lane that is no NaN. -/
def laneNeg (a : Word32) : Word32 := if f32IsNaN a then f32NaN else a ^^^ 0x80000000

def execVabs (o : V2) (s : State) : Out := vector2 laneAbs o s

def execVneg (o : V2) (s : State) : Out := vector2 laneNeg o s

/-! ## Logic and shifts (R341) -/

def laneShl (a b : Word32) : Word32 := a <<< (b.toNat % 32)
def laneShr (a b : Word32) : Word32 := a >>> (b.toNat % 32)
def laneSra (a b : Word32) : Word32 := a.sshiftRight (b.toNat % 32)

def execVand (o : V3) (s : State) : Out := vector3 1 (· &&& ·) o s

def execVor (o : V3) (s : State) : Out := vector3 1 (· ||| ·) o s

def execVxor (o : V3) (s : State) : Out := vector3 1 (· ^^^ ·) o s

def execVshl (o : V3) (s : State) : Out := vector3 1 laneShl o s

def execVshr (o : V3) (s : State) : Out := vector3 1 laneShr o s

def execVsra (o : V3) (s : State) : Out := vector3 1 laneSra o s

/-! ## Compare, select, permute (R342 to R344) -/

/-- Writes a mask pair: the condition to the even register, its complement to the odd one (R342). -/
def putMaskPair (s : State) (c : Core) (h : Hd) (d : BitVec 3) (mask t : Word64) : Core :=
  stage s (stage s c h 2 (.m (2 * d.toNat) mask t)) h 2 (.m (2 * d.toNat + 1) mask (~~~t))

/-- VCMP of one type. -/
def vectorCmp (f : Nat → Word32 → Word32 → Bool) (o : VCmpOps) (s : State) : Out :=
  runSlotReads o.hd (.v o.a.toNat :: .m o.lm.toNat :: opbLaneReads o.b) s
    (fun c =>
      let a := vAt c o.a
      let b := opbLanes c o.b
      .ok (putMaskPair s c o.hd o.d (maskOf c o.lm)
        (mkMask (fun i => f o.cc.toNat (lane a i) (lane b i)))))

def execVcmpF32 (o : VCmpOps) (s : State) : Out := vectorCmp laneCondF32 o s

def execVcmpI32 (o : VCmpOps) (s : State) : Out := vectorCmp laneCondI32 o s

def execVcmpN32 (o : VCmpOps) (s : State) : Out := vectorCmp laneCondN32 o s

/-- VSEL chooses by the mask named in c. -/
def execVsel (o : VSelOps) (s : State) : Out :=
  runSlotReads o.hd (.v o.a.toNat :: .m o.c.toNat :: .m o.lm.toNat :: opbLaneReads o.b) s
    (fun c => .ok (putV s c o.hd 1 o.d (maskOf c o.lm)
      (mergeLanes (mRead c o.c.toNat) (opbLanes c o.b) (vAt c o.a))))

/-- The lanes of VPERM: an index above 63 selects 0. -/
def permLanes (a b : Lanes) : Lanes :=
  mkLanes (fun i => if (lane b i).toNat < 64 then lane a (lane b i).toNat else 0)

def execVperm (o : V3) (s : State) : Out :=
  runSlotReads o.hd (.v o.a.toNat :: .m o.lm.toNat :: opbLaneReads o.b) s
    (fun c => .ok (putV s c o.hd 2 o.d (maskOf c o.lm) (permLanes (vAt c o.a) (opbLanes c o.b))))

/-! ## Reduction (R65, R345) -/

/-- One level of the tree of R65. -/
def pairUp (f : Word32 → Word32 → Word32) : List Word32 → List Word32
  | x :: y :: zs => f x y :: pairUp f zs
  | [x] => [x]
  | [] => []

/-- The six levels of the tree, the last with a function of its own: the shadow takes the operands of the root. -/
def treeReduce (f root : Word32 → Word32 → Word32) (xs : List Word32) : Word32 :=
  (pairUp root (pairUp f (pairUp f (pairUp f (pairUp f (pairUp f xs)))))).getD 0 0

/-- The 64 leaves: an excluded lane is the identity. -/
def leaves (mask : Word64) (ident : Word32) (v : Lanes) : List Word32 :=
  (List.range 64).map (fun i => if mask.getLsbD i then lane v i else ident)

/-- VRED: the reduction to every enabled lane. -/
def vectorRed (float : Bool) (ident : Nat → Word32) (f : Nat → Nat → Word32 → Word32 → Word32)
    (o : VRedOps) (s : State) : Out :=
  runSlotReads o.hd [.v o.a.toNat, .m o.lm.toNat] s
    (fun c =>
      let mask := maskOf c o.lm
      let w (mode : Nat) : Lanes := Vector.replicate 64
        (treeReduce (f (modeOf c) o.op.toNat) (f mode o.op.toNat) (leaves mask (ident o.op.toNat) (vAt c o.a)))
      .ok (if float then putVF s c o.hd 8 o.d mask w else putV s c o.hd 8 o.d mask (w (modeOf c))))

/-- Identities of the F32 reductions: −0, +∞, −∞ (R65). -/
def redIdentF32 (op : Nat) : Word32 :=
  match op with
  | 0 => 0x80000000
  | 1 => 0x7F800000
  | _ => 0xFF800000

/-- Identities of the I32 reductions. -/
def redIdentI32 (op : Nat) : Word32 :=
  match op with
  | 0 => 0
  | 1 => 0x7FFFFFFF
  | _ => 0x80000000

/-- Identities of the N32 reductions. -/
def redIdentN32 (op : Nat) : Word32 :=
  match op with
  | 0 => 0
  | 1 => 0xFFFFFFFF
  | _ => 0

def redF32 (mode op : Nat) : Word32 → Word32 → Word32 :=
  match op with
  | 0 => f32Add mode
  | 1 => f32Min
  | _ => f32Max

def redI32 (_mode op : Nat) : Word32 → Word32 → Word32 :=
  match op with
  | 0 => (· + ·)
  | 1 => laneMinI
  | _ => laneMaxI

def redN32 (_mode op : Nat) : Word32 → Word32 → Word32 :=
  match op with
  | 0 => (· + ·)
  | 1 => laneMinN
  | _ => laneMaxN

def execVredF32 (o : VRedOps) (s : State) : Out := vectorRed true redIdentF32 redF32 o s

def execVredI32 (o : VRedOps) (s : State) : Out := vectorRed false redIdentI32 redI32 o s

def execVredN32 (o : VRedOps) (s : State) : Out := vectorRed false redIdentN32 redN32 o s

/-! ## Conversion (R59, R308, R346) -/

/-- One lane of VCVT with the residual of its feedback group. -/
def convertLane (code mode : Nat) (w : Word32) (e : Num) : Word32 × Num :=
  match code with
  | 0 => let r := roundToIntEF fmtI32 mode (f32Val w) e; (BitVec.ofInt 32 r.1, r.2)
  | 1 => let r := roundToIntEF fmtN32 mode (f32Val w) e; (BitVec.ofInt 32 r.1, r.2)
  | 2 => let r := roundToIntEF fmtI8 mode (f32Val w) e; (BitVec.ofInt 32 r.1, r.2)
  | 3 => let r := fmtF32.roundEF mode (i32Val w) e; (BitVec.ofNat 32 r.1, r.2)
  | 4 => let r := fmtF32.roundEF mode (n32Val w) e; (BitVec.ofNat 32 r.1, r.2)
  | 5 => (if w.toInt < 0 then 0 else w, e)
  | 6 => (if w.toNat > 0x7FFFFFFF then 0x7FFFFFFF else w, e)
  | 7 => let r := fmtBF16.roundEF mode (f32Val w) e; (BitVec.ofNat 32 (r.1 * 0x10000), r.2)
  | _ => let r := fmtF16.roundEF mode (f32Val w) e; (f32RNE (fmtF16.value r.1), r.2)

/-- The lanes from lane i on, rounded in the mode `out`; the residuals are those of the sampled mode, and start at
0 in every group of 16 (R58). -/
def convertFrom (code mode out : Nat) (mask : Word64) (v : Lanes) : Nat → Nat → Num → List Word32
  | 0, _, _ => []
  | n + 1, i, e =>
    let e := if i % 16 = 0 then .zero else e
    if mask.getLsbD i then
      (convertLane code out (lane v i) e).1
        :: convertFrom code mode out mask v n (i + 1) (convertLane code mode (lane v i) e).2
    else 0 :: convertFrom code mode out mask v n (i + 1) e

/-- Lanes from a list. -/
def lanesOf (xs : List Word32) : Lanes := mkLanes (fun i => xs.getD i 0)

/-- The lanes of VCVT, rounded in the mode `out`. -/
def cvtLanes (c : Core) (o : VCvtOps) (out : Nat) : Lanes :=
  lanesOf (convertFrom o.code.toNat (modeOf c) out (maskOf c o.lm) (vAt c o.a) 64 0 .zero)

/-- VCVT writes its lanes; a result that is an integer has no shadow, one in BF16 or F16 is compared in that format
(R266). -/
def putCvt (s : State) (c : Core) (o : VCvtOps) : Core :=
  match o.code.toNat with
  | 3 | 4 => putVF s c o.hd 3 o.d (maskOf c o.lm) (cvtLanes c o)
  | 7 => putVIn fmtBF16 (fun w => w.toNat / 0x10000) s c o.hd 3 o.d (maskOf c o.lm) (cvtLanes c o)
  | 8 => putVIn fmtF16 (fun w => fmtF16.round 1 (f32Val w)) s c o.hd 3 o.d (maskOf c o.lm) (cvtLanes c o)
  | _ => putV s c o.hd 3 o.d (maskOf c o.lm) (cvtLanes c o (modeOf c))

def execVcvt (o : VCvtOps) (s : State) : Out :=
  runSlotReads o.hd [.v o.a.toNat, .m o.lm.toNat] s (fun c => .ok (putCvt s c o))

end Sys2Proof.Machine
end

