-- ==== Sys2Proof/Machine/Access.lean ====
section
/-!
DEFINITION. Private-memory accesses of slot M (R163 to R166, R384 to R388) and the tile ownership
instructions (R167, R168, R406).
-/
namespace Sys2Proof.Machine

/-! ## Tiles and checks -/

/-- A tile (R167). -/
def tileOf (c : Core) (k : Nat) : Tile := tget {} c.tiles k

/-- The owner bit of a tile (R167). -/
def engineOwned (c : Core) (k : Nat) : Bool := (tileOf c k).st != .core

/-- The range check of R163: bits above 19, or past the end of the bank. -/
def outOfBank (ea : Word64) (n : Nat) : Bool := ea.toNat ≥ 2 ^ 20 || ea.toNat % 0x10000 + n > 0x10000

/-- The information word of TILE_OWN (R163). -/
def tileInfo (tile kind : Nat) : Word64 := BitVec.ofNat 64 (tile + 0x100 * kind)

/-- The checks of R163: the range of the whole span, then the owner bits of the bytes touched. -/
def checkAccess (c : Core) (ea : Word64) (span kind : Nat) (addrs : List Nat) (k : Eff) : Eff :=
  if outOfBank ea span then .trap codePrivRange ea
  else
    match addrs.find? (fun a => engineOwned c (a / 0x1000)) with
    | some a => .trap codeTileOwn (tileInfo (a / 0x1000) kind)
    | none => k

/-- The least of a list of numbers. -/
def leastOf : List Nat → Option Nat
  | [] => none
  | x :: xs => match leastOf xs with | none => some x | some y => some (min x y)

/-- The lowest armed barrier whose record holds a byte of some range (R203). -/
def armedIn (c : Core) (rs : List (Nat × Nat)) : Option Nat :=
  leastOf (c.dir.filter (fun b => rs.any (fun r => decide (b < r.1 + r.2 ∧ r.1 < b + 16))))

/-- The lowest armed barrier whose record holds one of these bytes (R203). -/
def armedHit (c : Core) (addrs : List Nat) : Option Nat :=
  leastOf (c.dir.filter (fun b => addrs.any (fun a => b ≤ a && a < b + 16)))

/-- The barrier check of a store (R203). -/
def checkArmed (c : Core) (addrs : List Nat) (k : Eff) : Eff :=
  match armedHit c addrs with
  | some b => .trap codeTxbAccess (BitVec.ofNat 64 b)
  | none => k

/-- A read of private memory that meets an uncorrectable error writes nothing (R269). -/
def readChecked (c : Core) (h : Hd) (addrs : List Nat) (k : Eff) : Eff :=
  match addrs.find? (fun a => c.ue.contains (1, a / 64)) with
  | some a => ueEffect c 1 (ueInfo 1 a) h.slot.num k
  | none => k

/-- The bank format code of an address, as sampled at issue (R165). -/
def bankCode (c : Core) (bank : Nat) : Nat := (c.bfmt.extractLsb' (4 * (bank % 16)) 4).toNat

/-- The bank of an effective address. -/
def bankOf (ea : Word64) : Nat := ea.toNat / 0x10000 % 16

/-- The addresses of n bytes. -/
def span (a n : Nat) : List Nat := (List.range n).map (a + ·)

/-- Bytes with their addresses, from an address up. -/
def cellsFrom (a : Nat) : List Byte → List (Nat × Byte)
  | [] => []
  | b :: bs => (a, b) :: cellsFrom (a + 1) bs

/-- Adds stores of the bundle, which land at the end of the cycle (R164). -/
def addStores (c : Core) (cells : List (Nat × Byte)) : Core := { c with stores := c.stores ++ cells }

/-- An operand trap of class 7 (R385). -/
def formatTrap (sub : Nat) : Eff := operandTrap (0x70 + sub)

/-! ## LD and ST (R386, R387) -/

/-- The element check of R385: subcode 2 under a Q code, subcode 1 out of alignment. -/
def elementChecked (code : Nat) (ea : Word64) (k : Eff) : Eff :=
  if isQ code then formatTrap 2 else if ea.toNat % elemBytes code ≠ 0 then formatTrap 1 else k

/-- The value LD returns: I32 and I8 are sign-extended, the rest zero-extended (R386). -/
def loadedWord (code : Nat) (x : Word32) : Word64 :=
  if code = codeI32 ∨ code = codeI8 then x.signExtend 64 else x.setWidth 64

def loadEffect (s : State) (h : Hd) (d : BitVec 6) (ea : Word64) (c : Core) : Eff :=
  let code := bankCode c (bankOf ea)
  let n := elemBytes code
  let a := ea.toNat
  elementChecked code ea
    (checkAccess c ea n 0 (span a n)
      (readChecked c h (span a n)
        (.ok (stage s (noteRead c (span a n)) h 4 (.g d.toNat (loadedWord code (decodeElem code (readLE c.priv a n))))))))

def execLd (o : GI) (s : State) : Out :=
  runSlotReads o.hd [.g o.a.toNat] s (fun c => loadEffect s o.hd o.d (addrImm c o.a o.imm) c)

def execLdIndexed (o : G3) (s : State) : Out :=
  runSlotReads o.hd (.g o.a.toNat :: opbReads o.b) s
    (fun c => loadEffect s o.hd o.d (addrIndexed c o.a o.b) c)

/-- LD.raw: 2^w bytes, zero-extended, whatever the bank's code (R386). -/
def loadRawEffect (s : State) (h : Hd) (d : BitVec 6) (w : BitVec 2) (ea : Word64) (c : Core) : Eff :=
  let n := 2 ^ w.toNat
  let a := ea.toNat
  if a % n ≠ 0 then formatTrap 1
  else
    checkAccess c ea n 0 (span a n)
      (readChecked c h (span a n)
        (.ok (stage s (noteRead c (span a n)) h 4 (.g d.toNat (BitVec.ofNat 64 (readLE c.priv a n))))))

def execLdRaw (o : MIW) (s : State) : Out :=
  runSlotReads o.hd [.g o.a.toNat] s (fun c => loadRawEffect s o.hd o.d o.w (addrImm c o.a o.imm) c)

def execLdRawIndexed (o : MRW) (s : State) : Out :=
  runSlotReads o.hd (.g o.a.toNat :: opbReads o.b) s
    (fun c => loadRawEffect s o.hd o.d o.w (addrIndexed c o.a o.b) c)

/-- ST: the low word of gs encoded under the bank's code and the sampled mode (R387). -/
def storeEffect (d : BitVec 6) (ea : Word64) (c : Core) : Eff :=
  let code := bankCode c (bankOf ea)
  let n := elemBytes code
  let a := ea.toNat
  elementChecked code ea
    (checkAccess c ea n 1 (span a n)
      (checkArmed c (span a n)
        (.ok (addStores c (cellsFrom a
          (natLE n (encodeElem code (modeOf c) ((gAt c d).setWidth 32) .zero).1))))))

def execSt (o : GI) (s : State) : Out :=
  runSlotReads o.hd [.g o.d.toNat, .g o.a.toNat] s (fun c => storeEffect o.d (addrImm c o.a o.imm) c)

def execStIndexed (o : G3) (s : State) : Out :=
  runSlotReads o.hd (.g o.d.toNat :: .g o.a.toNat :: opbReads o.b) s
    (fun c => storeEffect o.d (addrIndexed c o.a o.b) c)

/-- ST.raw: the low 2^w bytes of gs (R387). -/
def storeRawEffect (d : BitVec 6) (w : BitVec 2) (ea : Word64) (c : Core) : Eff :=
  let n := 2 ^ w.toNat
  let a := ea.toNat
  if a % n ≠ 0 then formatTrap 1
  else
    checkAccess c ea n 1 (span a n)
      (checkArmed c (span a n) (.ok (addStores c (cellsFrom a (natLE n (gAt c d).toNat)))))

def execStRaw (o : MIW) (s : State) : Out :=
  runSlotReads o.hd [.g o.d.toNat, .g o.a.toNat] s
    (fun c => storeRawEffect o.d o.w (addrImm c o.a o.imm) c)

def execStRawIndexed (o : MRW) (s : State) : Out :=
  runSlotReads o.hd (.g o.d.toNat :: .g o.a.toNat :: opbReads o.b) s
    (fun c => storeRawEffect o.d o.w (addrIndexed c o.a o.b) c)

/-! ## VLD and VST (R388) -/

/-- The bytes of the span of 64 elements under a code. -/
def vectorSpan (code : Nat) : Nat := if isQ code then 64 / qGroup code * qRecord code else 64 * elemBytes code

/-- Whether a span under a Q code leaves the last whole record of its bank (R54). -/
def pastLastRecord (code : Nat) (ea : Word64) : Bool :=
  ea.toNat % 0x10000 + vectorSpan code > 0x10000 / qRecord code * qRecord code

/-- The bank whose bytes beyond its last whole record a range of bytes takes in, under a Q code (R54). -/
def strayBank (code a n : Nat) : Option Nat :=
  if !isQ code || n = 0 then none
  else
    (List.range ((a + n - 1) / 0x10000 - a / 0x10000 + 1)).map (a / 0x10000 + ·) |>.find? (fun b =>
      decide (a < (b + 1) * 0x10000 ∧ b * 0x10000 + 0x10000 / qRecord code * qRecord code < a + n))

/-- The check of R54 on ranges of private bytes, lowest bank first. -/
def wholeRecords (code : Nat) (rs : List (Nat × Nat)) (k : Eff) : Eff :=
  match leastOf (rs.filterMap (fun r => strayBank code r.1 r.2)) with
  | some b => operandTrap (0xF0 + b % 16)
  | none => k

/-- The format checks of VLD and VST (R385, steps 1 and 2). -/
def vectorChecked (code : Nat) (ea : Word64) (k : Eff) : Eff :=
  if isQ code then
    if qGroup code = 128 then formatTrap 2
    else if ea.toNat % 0x10000 % qRecord code ≠ 0 then formatTrap 3
    else if pastLastRecord code ea then operandTrap (0xF0 + bankOf ea)
    else k
  else if ea.toNat % elemBytes code ≠ 0 then formatTrap 1
  else k

/-- Whether record j of a group size holds an enabled lane. -/
def recordEnabled (mask : Word64) (g j : Nat) : Bool :=
  (List.range g).any (fun k => mask.getLsbD (j * g + k))

/-- The bytes that a masked access under a code touches: enabled lanes, or records with one (R388). -/
def touched (code : Nat) (mask : Word64) (a : Nat) : List Nat :=
  if isQ code then
    (List.range (64 / qGroup code)).flatMap (fun j =>
      if recordEnabled mask (qGroup code) j then span (a + j * qRecord code) (qRecord code) else [])
  else
    (List.range 64).flatMap (fun i =>
      if mask.getLsbD i then span (a + i * elemBytes code) (elemBytes code) else [])

/-- The lane that element i of a span decodes to (R59, R54). -/
def loadLane (m : Memory) (code a i : Nat) : Word32 :=
  if isQ code then
    qDecode code (readBytes m (a + i / qGroup code * qRecord code) (qRecord code)) (i % qGroup code)
  else decodeElem code (readLE m (a + i * elemBytes code) (elemBytes code))

def vloadEffect (s : State) (h : Hd) (d : BitVec 6) (mask : Word64) (ea : Word64) (c : Core) : Eff :=
  let code := bankCode c (bankOf ea)
  let a := ea.toNat
  let addrs := touched code mask a
  vectorChecked code ea
    (checkAccess c ea (vectorSpan code) 2 addrs
      (readChecked c h addrs
        (.ok (if mask = 0 then c else
          stage s (noteRead c addrs) h 6 (.v d.toNat mask (mkLanes (fun i => loadLane c.priv code a i)))))))

def execVld (o : GI) (s : State) : Out :=
  runSlotReads o.hd [.g o.a.toNat] s
    (fun c => vloadEffect s o.hd o.d allLanes (addrImm c o.a o.imm) c)

def execVldIndexed (o : V3) (s : State) : Out :=
  runSlotReads o.hd (.g o.a.toNat :: .m o.lm.toNat :: opbReads o.b) s
    (fun c => vloadEffect s o.hd o.d (maskOf c o.lm) (addrIndexed c o.a o.b) c)

/-- Encodes enabled lanes in order, the residual passing within groups of `grp` lanes (R58); each result
is the lane's place in bytes and its storage bits. -/
def encodeLanes (code mode grp : Nat) (mask : Word64) (v : Lanes) : Nat → Nat → Num → List (Nat × Nat)
  | 0, _, _ => []
  | n + 1, i, e =>
    let e := if i % grp = 0 then .zero else e
    if mask.getLsbD i then
      let r := encodeElem code mode (lane v i) e
      (i * elemBytes code, r.1) :: encodeLanes code mode grp mask v n (i + 1) r.2
    else encodeLanes code mode grp mask v n (i + 1) e

/-- The elements of record j as VST encodes them: masked lanes take part as NaN (R388). -/
def recordLanes (mask : Word64) (v : Lanes) (g j : Nat) : List Word32 :=
  (List.range g).map (fun k => if mask.getLsbD (j * g + k) then lane v (j * g + k) else f32NaN)

/-- The bytes VST writes. -/
def vstoreCells (code mode : Nat) (mask : Word64) (v : Lanes) (a : Nat) : List (Nat × Byte) :=
  if isQ code then
    (List.range (64 / qGroup code)).flatMap (fun j =>
      if recordEnabled mask (qGroup code) j then
        cellsFrom (a + j * qRecord code) (qEncode code mode (recordLanes mask v (qGroup code) j))
      else [])
  else
    (encodeLanes code mode 16 mask v 64 0 .zero).flatMap
      (fun p => cellsFrom (a + p.1) (natLE (elemBytes code) p.2))

def vstoreEffect (d : BitVec 6) (mask : Word64) (ea : Word64) (c : Core) : Eff :=
  let code := bankCode c (bankOf ea)
  let a := ea.toNat
  let addrs := touched code mask a
  vectorChecked code ea
    (checkAccess c ea (vectorSpan code) 3 addrs
      (checkArmed c addrs (.ok (addStores c (vstoreCells code (modeOf c) mask (vAt c d) a)))))

def execVst (o : GI) (s : State) : Out :=
  runSlotReads o.hd [.v o.d.toNat, .g o.a.toNat] s
    (fun c => vstoreEffect o.d allLanes (addrImm c o.a o.imm) c)

def execVstIndexed (o : V3) (s : State) : Out :=
  runSlotReads o.hd (.v o.d.toNat :: .g o.a.toNat :: .m o.lm.toNat :: opbReads o.b) s
    (fun c => vstoreEffect o.d (maskOf c o.lm) (addrIndexed c o.a o.b) c)

/-! ## Ownership (R167, R406) -/

/-- A change of a tile's owner that an OWN instruction asks for, at the end of the cycle (R168). -/
def Core.own (c : Core) (give : Bool) (first count : Nat) : Core :=
  { c with owns := c.owns ++ (List.range count).map (fun k => (give, first + k)) }

/-- The transition of OWN.GIVE (R167). -/
def tileGive (t : Tile) : Tile :=
  match t.st with
  | .core => { t with st := .given }
  | .given => t
  | .engaged => { t with toGiven := true }

/-- The transition of OWN.TAKE; an ENGAGED tile has trapped before (R167). -/
def tileTake (t : Tile) : Tile :=
  match t.st with
  | .core => t
  | .given => { t with st := .core }
  | .engaged => t

/-- First tile, count and the bits that must be 0 of an OWN instruction (R406). -/
def ownEffect (give : Bool) (imm : BitVec 20) (c : Core) : Eff :=
  let first := imm.toNat % 256
  let count := imm.toNat / 256 % 256 + 1
  if first + count > 256 ∨ imm.toNat / 0x10000 ≠ 0 then operandTrap 0x57
  else if give then .ok (c.own true first count)
  else
    match (span first count).find? (fun k => (tileOf c k).st == .engaged) with
    | some k => .trap codeTileOwn (tileInfo k 6)
    | none => .ok (c.own false first count)

def execOwnGive (o : ImmOps) (s : State) : Out := runSlotReads o.hd [] s (ownEffect true o.imm)

def execOwnTake (o : ImmOps) (s : State) : Out := runSlotReads o.hd [] s (ownEffect false o.imm)

end Sys2Proof.Machine
end

