-- ==== Sys2Proof/Machine/Barrier.lean ====
section
/-!
DEFINITION. Transaction barriers (R202 to R211): the record, its updates, the flip test and the aborts,
and the barrier instructions (R407 to R409).
-/
namespace Sys2Proof.Machine

/-! ## Windows (R193, R247) -/

/-- Window length in ns by WCODE (R247). -/
def windowNs (wcode : Nat) : Nat :=
  match wcode with
  | 0 => 2048
  | 1 => 1024
  | 2 => 4096
  | 3 => 8192
  | 4 => 16384
  | _ => 32768

/-- The window of a 1588 time in 1/192 ns (R193). -/
def windowAt (l : Link) (clock : Nat) : Nat := clock / (192 * windowNs l.wcode)

/-- The current window number. -/
def windowNow (s : State) : Nat := windowAt s.link s.link.clock

/-! ## The record (R202) -/

/-- A barrier record by its fields. -/
structure Bar where
  sect : Int
  arrv : Int
  tmow : Nat
  dline : Nat
  acause : Nat
  stray : Nat
  armed : Bool
  abort : Bool
  phase : Nat
  deriving DecidableEq, Repr

/-- The record in 16 bytes. -/
def barOf (bs : List Byte) : Bar where
  sect := signedOf 32 (fieldLE bs 12 4)
  arrv := signedOf 24 (fieldLE bs 9 3)
  tmow := fieldLE bs 8 1
  dline := fieldLE bs 4 4
  acause := fieldLE bs 3 1
  stray := fieldLE bs 2 1
  armed := bitOf (fieldLE bs 0 2) 5
  abort := bitOf (fieldLE bs 0 2) 4
  phase := fieldLE bs 0 2 % 16

/-- A signed number in `n` bytes. -/
def intLE (n : Nat) (i : Int) : List Byte := natLE n (i % (2 ^ (8 * n) : Nat)).toNat

/-- The 16 bytes of a record; bits 15:6 are 0. -/
def barBytes (b : Bar) : List Byte :=
  natLE 2 (b.phase % 16 + (if b.abort then 16 else 0) + (if b.armed then 32 else 0))
    ++ natLE 1 b.stray ++ natLE 1 b.acause ++ natLE 4 b.dline ++ natLE 1 b.tmow
    ++ intLE 3 b.arrv ++ intLE 4 b.sect

/-! ## Updates (R204 to R207) -/

/-- TXB.INIT and the collective's setting of TMOW give a new deadline from the window in force. -/
def deadline (window tmow : Nat) : Nat := (window + tmow) % 2 ^ 32

/-- One count update of a cycle; discarded and counted in STRAY while ABORT = 1 (R207). -/
def barCount (window : Nat) (b : Bar) (u : BarUpdate) : Bar :=
  match u with
  | .init sect arrv tmow =>
    { sect := sect, arrv := arrv, tmow := tmow, dline := deadline window tmow, acause := 0,
      stray := 0, armed := true, abort := false, phase := 0 }
  | .add sect arrv =>
    if b.abort then { b with stray := min 255 (b.stray + 1) }
    else { b with sect := b.sect + sect, arrv := b.arrv + arrv }
  | .collExpect sect arrv tmow =>
    if b.abort then { b with stray := min 255 (b.stray + 1) }
    else { b with sect := b.sect + sect, arrv := b.arrv + arrv, tmow := tmow,
                  dline := deadline window tmow }
  | .abort _ => b

/-- Whether an update changes counts: the flip test needs one (R205). -/
def BarUpdate.counts (u : BarUpdate) : Bool := match u with | .abort _ => false | _ => true

/-- The causes of the abort sources of a cycle. -/
def abortCauses (ups : List BarUpdate) : List Nat :=
  ups.filterMap (fun u => match u with | .abort c => some c | _ => none)

/-- Whether a count is in range (R205). -/
def sectFits (b : Bar) : Bool := -(2 ^ 31 : Int) ≤ b.sect && b.sect < 2 ^ 31

def arrvFits (b : Bar) : Bool := -(2 ^ 23 : Int) ≤ b.arrv && b.arrv < 2 ^ 23

def countsFit (b : Bar) : Bool := sectFits b && arrvFits b

/-- Whether the deadline of a barrier has been reached (R206). -/
def barExpired (window : Nat) (b : Bar) : Bool :=
  b.armed && !b.abort && b.tmow != 0 && (window + (2 ^ 32 - b.dline)) % 2 ^ 32 < 2 ^ 31

/-- All updates of one package cycle (R205 to R207): counts summed, the range, the flip test, then the
abort sources; TIMEOUT and LATE yield to a flip. A count carried out of range is not stored, the other one is. -/
def barApply (window : Nat) (b : Bar) (ups : List BarUpdate) : Bar :=
  let c := ups.foldl (barCount window) b
  let counted := ups.any BarUpdate.counts
  if !c.abort && !countsFit c then
    { c with sect := if sectFits c then c.sect else b.sect, arrv := if arrvFits c then c.arrv else b.arrv,
             abort := true, acause := (leastOf (5 :: abortCauses ups)).getD 5 }
  else
    let flip := !c.abort && counted && c.sect == 0 && c.arrv == 0
    let f := if flip then { c with phase := (c.phase + 1) % 16, dline := deadline window c.tmow } else c
    if f.abort then f
    else
      match leastOf ((abortCauses ups).filter (fun k =>
          (!flip || k > 2) && (k != 1 || barExpired window f))) with
      | none => f
      | some k => { f with abort := true, acause := k }

/-- The record at a private address. -/
def coreBar (c : Core) (a : Nat) : Bar := barOf (readBytes c.priv a 16)

/-- An update of a barrier of a core, applied at the end of the cycle. -/
def Core.bar (c : Core) (a : Nat) (u : BarUpdate) : Core := { c with barUps := c.barUps ++ [(a, u)] }

/-! ## The instructions (R407 to R409) -/

/-- An operand trap of class 5 (R405). -/
def pumpTrap (sub : Nat) : Eff := operandTrap (0x50 + sub)

/-- The checks every barrier instruction makes first: alignment, then range (R407). -/
def barChecked (ga : Word64) (k : Eff) : Eff :=
  if ga.toNat % 16 ≠ 0 then pumpTrap 8
  else if ga.toNat ≥ 2 ^ 20 then .trap codePrivRange ga
  else k

/-- The checks of an instruction on an armed barrier (R407). -/
def armedChecked (c : Core) (ga : Word64) (k : Eff) : Eff :=
  barChecked ga (if c.dir.contains ga.toNat then k else .trap codeTxbState ga)

def txbInitEffect (o : AB) (c : Core) : Eff :=
  let ga := gAt c o.a
  let gb := (gAt c o.b).toNat
  barChecked ga
    (if (tileOf c (ga.toNat / 0x1000)).st = .engaged then .trap codeTxbAccess ga
     else if !c.dir.contains ga.toNat && c.dir.length ≥ 64 then .trap codeTxbFull ga
     else .ok (c.bar ga.toNat (.init (signedOf 32 (bitsOf gb 31 0)) (signedOf 24 (bitsOf gb 55 32))
       (bitsOf gb 63 56))))

def execTxbInit (o : AB) (s : State) : Out :=
  runSlotReads o.hd [.g o.a.toNat, .g o.b.toNat] s (txbInitEffect o)

def txbExpectEffect (o : AB) (c : Core) : Eff :=
  let ga := gAt c o.a
  let gb := (gAt c o.b).toNat
  if bitsOf gb 63 56 ≠ 0 then pumpTrap 8
  else armedChecked c ga (.ok (c.bar ga.toNat (.add (bitsOf gb 31 0) (bitsOf gb 55 32))))

def execTxbExpect (o : AB) (s : State) : Out :=
  runSlotReads o.hd [.g o.a.toNat, .g o.b.toNat] s (txbExpectEffect o)

def execTxbArrive (o : RA) (s : State) : Out :=
  runSlotReads o.hd [.g o.a.toNat] s (fun c =>
    let ga := gAt c o.a
    armedChecked c ga (.ok (c.bar ga.toNat (.add 0 (-1)))))

/-! ## Beyond the boundary -/

/-- Whether a node is below NODES and its entry VALID, in the domain as applied (R247, R248). -/
def nodeValid (l : Link) (n : Nat) : Bool := n < l.nodes && fieldLE l.table (32 * n) 1 % 2 == 1

/-- Whether a barrier handle breaks R408. -/
def handleBad (l : Link) (h : Nat) : Bool :=
  bitsOf h 63 48 != 0 || bitsOf h 31 25 != 0 || !nodeValid l (bitsOf h 47 40 % 64)

/-- Sampled bytes of a command in a hold (R271). -/
def OutKind.bytes (k : OutKind) : Nat :=
  match k with
  | .wellWrite ss _ => 64 * ss.length
  | .remoteWrite _ ss _ _ => 64 * ss.length
  | .remoteRead _ _ | .arrive _ | .coll _ | .fence _ => 0

/-- A FENCE's place in the stream is no command of it (R188). -/
def OutKind.isFence (k : OutKind) : Bool :=
  match k with
  | .fence _ => true
  | .wellWrite .. | .remoteWrite .. | .remoteRead .. | .arrive _ | .coll _ => false

/-- A remote read's request is not held by a region (R271). -/
def OutKind.isRead (k : OutKind) : Bool :=
  match k with
  | .remoteRead .. => true
  | .wellWrite .. | .remoteWrite .. | .arrive _ | .coll _ | .fence _ => false

/-- The commands that the open regions of a core hold. -/
def heldCmds (c : Core) : List OutCmd :=
  (c.regions.flatMap (·.hold) ++ c.outNew).filter (fun x => !x.kind.isFence && !x.kind.isRead)

/-- Whether one more command of `n` bytes would exceed the bounds of R271. -/
def holdFull (c : Core) (n : Nat) : Bool :=
  !c.regions.isEmpty &&
    (decide ((heldCmds c).length ≥ 64) ||
     decide (((heldCmds c).map (·.kind.bytes)).sum + n > 0x40000))

/-- Puts a command whose start cycle is its issue cycle into the outbound stream (R408, R418). -/
def sendNow (s : State) (c : Core) (kind : OutKind) : Eff :=
  if holdFull c kind.bytes then .trap codeRegion 2
  else .ok { c with
    outNew := c.outNew ++ [{ kind := kind, start := s.ttcOf c, at_ := s.cyc, sys := c.mode != .task, epoch := c.epoch, barrier := none,
                             sent := 0, order := c.orders }]
    orders := c.orders + 1 }

def execTxbArriveRemote (o : RA) (s : State) : Out :=
  runSlotReads o.hd [.g o.a.toNat] s (fun c =>
    let gb := (gAt c o.a).toNat
    if handleBad s.link gb then pumpTrap 8 else sendNow s c (.arrive gb))

/-! ## Waiting (R208, R409) -/

/-- Whether a wait is satisfied by a record. -/
def satisfied (b : Bar) (q : Nat) : Bool := b.phase != q || b.abort

/-- Whether a transfer that an open region of the core holds counts on a barrier (R270). -/
def heldCounts (c : Core) (a : Nat) : Bool := !c.regions.isEmpty && (heldCmds c).any (fun x => x.barrier == some a)

/-- TXB.WAIT: the outcome at once, or a wait (R208). -/
def txbWaitEffect (o : TxbWaitOps) (s : State) (c : Core) : Eff :=
  let ga := gAt c o.a
  armedChecked c ga
    (if heldCounts c ga.toNat then .trap codeRegion 3
     else
       let b := coreBar c ga.toNat
       readChecked c o.hd (span ga.toNat 16)
         (if satisfied b o.q.toNat then .ok (stagePair s c o.hd 1 o.d.toNat (!b.abort))
          else .ok { c with
            wait := some { issue := issueStamp s c, addr := ga.toNat, phase := o.q.toNat, pair := o.d.toNat, out := none } }))

def execTxbWait (o : TxbWaitOps) (s : State) : Out :=
  runSlotReads o.hd [.g o.a.toNat] s (txbWaitEffect o s)

end Sys2Proof.Machine
end

