-- ==== Sys2Proof/Machine/Page.lean ====
section
/-!
DEFINITION. The checks of an access that names a VA (R219, R220), and budgets (R152, R153).
-/
namespace Sys2Proof.Machine

/-! ## Page checks -/

/-- The snapshot page that holds a VA. -/
def findPage (pages : List PageT) (va : Nat) : Option PageT :=
  pages.find? (fun p => p.va ≤ va && va < p.va + p.size)

/-- Whether a page is a pool (R227). -/
def isPool (pools : List Pool) (p : PageT) : Bool := pools.any (fun q => q.va == p.va)

/-- The subcode of a failed check of one byte (R219); none when it passes. -/
def pageSub (pages : List PageT) (va : Nat) (needWrite : Bool) (allowed : PageT → Bool) : Option Nat :=
  if va ≥ 2 ^ 48 then some 4
  else
    match findPage pages va with
    | none => some 1
    | some p => if needWrite && !p.write then some 2 else if !allowed p then some 3 else none

/-- The information word of PAGE (R219). -/
def pageInfo (va access sub : Nat) : Word64 :=
  BitVec.ofNat 64 (va % 2 ^ 64 / 0x10000 * 0x10000 + access * 0x100 + sub)

/-- The first byte of a range that fails, stepping over whole 64 KiB granules, which no page divides. -/
def rangeFault (pages : List PageT) (needWrite : Bool) (allowed : PageT → Bool) :
    Nat → Nat → Nat → Option (Nat × Nat)
  | 0, _, _ => none
  | n + 1, va, len =>
    if len = 0 then none
    else
      match pageSub pages va needWrite allowed with
      | some sub => some (va, sub)
      | none =>
        let step := min len (0x10000 - va % 0x10000)
        rangeFault pages needWrite allowed n (va + step) (len - step)

/-- Checks a range of bytes: the failing VA and its subcode. -/
def checkRange (pages : List PageT) (va len : Nat) (needWrite : Bool) (allowed : PageT → Bool) :
    Option (Nat × Nat) :=
  rangeFault pages needWrite allowed (len / 0x10000 + 2) va len

/-- The physical address of a VA in the snapshot. -/
def physOf (pages : List PageT) (va : Nat) : Nat :=
  match findPage pages va with
  | none => 0
  | some p => p.phys + (va - p.va)

/-! ## Budgets -/

/-- The bay of a package cycle (R152). -/
def bayOf (cyc : Nat) : Nat := cyc % Config.period / 16

/-- Whether a declaration claims a bay for an activity (R148). -/
def claimsBay (decl : List Byte) (a bay : Nat) : Bool := bitOf (fieldLE decl (0x40 + 16 * a) 8) bay

/-- The budget of an activity (R148). -/
def budgetOf (decl : List Byte) (a : Nat) : Nat := fieldLE decl (0x48 + 16 * a) 4

/-- The information word of BUDGET (R153). -/
def budgetInfo (ttc a sub : Nat) : Word64 :=
  BitVec.ofNat 64 (ttc % 2 ^ 52 * 0x1000 + a * 0x100 + sub)

/-- Outcome of one budget check: the new count, or the information word of an overrun. -/
inductive Budget where
  | ok (c : Core)
  | over (info : Word64)

/-- BudgetCheck of R153 for one use; `counted` is false in a handler or stub and under CLIP. -/
def budgetUse (decl : List Byte) (cyc ttc a : Nat) (counted : Bool) (c : Core) : Budget :=
  if !claimsBay decl a (bayOf cyc) then .over (budgetInfo ttc a 2)
  else if !counted then .ok c
  else
    let n := tget 0 c.counts a + 1
    if n > budgetOf decl a then .over (budgetInfo ttc a 1) else .ok { c with counts := tset c.counts a n }

/-- A use by the bundle in progress. -/
def bundleUse (s : State) (k : Kernel) (c : Core) (a : Nat) (next : Core → Eff) : Eff :=
  match budgetUse k.decl s.cyc k.ttc a (c.mode == .task) c with
  | .over info => .trap codeBudget info
  | .ok c => next c

end Sys2Proof.Machine
end

