-- ==== Sys2Proof/Machine/Atomic.lean ====
section
/-!
DEFINITION. Slot E operations that act at the Keystones and on the outbound stream: atomics, staged
reductions, block-table operations, collectives and persist barriers (R410 to R418, R424, R425).
-/
namespace Sys2Proof.Machine

/-- An operand trap of class 4 with an operand address (R437). -/
def atomTrap (sub : Nat) (ga : Word64) : Eff :=
  .trap codeIllegalOperand (BitVec.ofNat 64 (ga.toNat % 2 ^ 48 * 0x10000 + 0x40 + sub))

/-- The width of a word by type (R410). -/
def typeWidth (ty : Nat) : Nat := if ty = 3 ∨ ty = 4 then 8 else 4

/-- Whether a NEAR page is homed on the issuing pier: the short latency (R221). -/
def nearHere (s : State) (p : PageT) (phys : Nat) : Bool :=
  p.near && (tget {} s.ks.pages (p.phys / 0x10000)).home == pierOf phys

/-- A Keystone operation enters its way: it performs at issue + 20 or + 36 in package cycles and its
return lands at the end of issue + 39 or + 71 (R292, R410). -/
def keystoneOp (s : State) (p : PageT) (va : Word64) (kind : KOpKind) (d pair : Nat)
    (c : Core) : Core :=
  let short := nearHere s p s.act
  let op : KOp :=
    { phys := s.act, kid := c.kid.getD 0, role := c.role, kind := kind, va := va,
      addr := p.phys + (va.toNat - p.va), perform := s.cyc + (if short then 20 else 36),
      due := dueAt s c (if short then 40 else 72), issue := issueStamp s c, d := d, pair := pair }
  let reg := match kind with | .redAdd _ _ | .failed _ => none | .atomic .. | .redComb _ | .blk .. => some (RegName.g d)
  let pend := pendSet c.staged.pend reg 40
  let pend := if pair = 0 then pend else
    pendSet (pendSet pend (some (.p (2 * pair))) 40) (some (.p (2 * pair + 1))) 40
  { c with kNew := c.kNew ++ [op], staged := { c.staged with pend := pend } }

/-- The checks of a Keystone operation (R410, R292): the page with access 2, then one KPORT use. -/
def keystoneIssue (s : State) (va : Word64) (needWrite : Bool) (allowed : Kernel → PageT → Bool)
    (kind : KOpKind) (d pair : Nat) (c : Core) : Eff :=
  match s.kernelOf c with
  | none => .trap codePage (pageInfo va.toNat 2 1)
  | some k =>
    match pageSub k.pages va.toNat needWrite (allowed k) with
    | some sub => .trap codePage (pageInfo va.toNat 2 sub)
    | none =>
      match findPage k.pages va.toNat with
      | none => .trap codePage (pageInfo va.toNat 2 1)
      | some p => bundleUse s k c 3 (fun c => .ok (keystoneOp s p va kind d pair c))

/-- A word operation needs a SYNC page that is no pool (R220, R230). -/
def syncWord (k : Kernel) (p : PageT) : Bool := p.kind == 2 && !isPool k.pools p

/-- An operation on a word: its alignment first (R410). -/
def wordOp (s : State) (w : Nat) (va : Word64) (kind : KOpKind) (d pair : Nat) (c : Core) : Eff :=
  if va.toNat % w ≠ 0 then atomTrap 1 va else keystoneIssue s va true syncWord kind d pair c

/-- Low 8w bits of an operand (R412). -/
def operandBits (w : Nat) (x : Word64) : Word64 := BitVec.ofNat 64 (x.toNat % 2 ^ (8 * w))

/-- An atomic with one operand; `op` is the low digit of its opcode (R411). -/
def atomic1 (op : Nat) (o : KOps) (s : State) : Out :=
  runSlotReads o.hd [.g o.a.toNat, .g o.b.toNat] s (fun c =>
    let w := typeWidth o.ty.toNat
    wordOp s w (gAt c o.a) (.atomic op o.ty.toNat (operandBits w (gAt c o.b)) 0) o.d.toNat 0 c)

def execAadd (o : KOps) (s : State) : Out := atomic1 0 o s

def execAincw (o : KOps) (s : State) : Out := atomic1 1 o s

/-- AFADDB: the bound in c; its predicate pair lands with the result (R412). -/
def execAfaddb (o : KAddbOps) (s : State) : Out :=
  runSlotReads o.hd [.g o.a.toNat, .g o.b.toNat, .g o.c.toNat] s (fun c =>
    let w := typeWidth o.ty.toNat
    wordOp s w (gAt c o.a)
      (.atomic 2 o.ty.toNat (operandBits w (gAt c o.b)) (operandBits w (gAt c o.c))) o.d.toNat o.pk.toNat c)

def execAcas (o : KCasOps) (s : State) : Out :=
  runSlotReads o.hd [.g o.a.toNat, .g o.b.toNat, .g o.c.toNat] s (fun c =>
    let w := typeWidth o.ty.toNat
    wordOp s w (gAt c o.a)
      (.atomic 3 o.ty.toNat (operandBits w (gAt c o.b)) (operandBits w (gAt c o.c))) o.d.toNat 0 c)

def execAxchg (o : KOps) (s : State) : Out := atomic1 4 o s

def execAmin (o : KOps) (s : State) : Out := atomic1 5 o s

def execAmax (o : KOps) (s : State) : Out := atomic1 6 o s

def execAand (o : KOps) (s : State) : Out := atomic1 7 o s

def execAor (o : KOps) (s : State) : Out := atomic1 8 o s

def execAxor (o : KOps) (s : State) : Out := atomic1 9 o s

/-- RED.ADD stages into its role's slot; type 5 takes gb[15:0] (R415). -/
def execRedAdd (o : RedAddOps) (s : State) : Out :=
  runSlotReads o.hd [.g o.a.toNat, .g o.b.toNat] s (fun c =>
    wordOp s 4 (gAt c o.a) (.redAdd o.ty.toNat (gAt c o.b)) 0 0 c)

def execRedComb (o : RedCombOps) (s : State) : Out :=
  runSlotReads o.hd [.g o.a.toNat] s (fun c =>
    wordOp s 4 (gAt c o.a) (.redComb o.ty.toNat) o.d.toNat 0 c)

/-! ## Block table (R231, R417) -/

/-- A BLK operation names its pool by a VA whose bits 15:0 are ignored. -/
def blkIssue (s : State) (op : Nat) (pool n1 n2 : Word64) (d : Nat) (c : Core) : Eff :=
  let va := pool &&& ~~~(0xFFFF#64)
  let kind := match s.kernelOf c with
    | none => KOpKind.blk op 64 n1 n2
    | some k => .blk op (k.pools.findIdx (fun p => p.va == va.toNat)) n1 n2
  keystoneIssue s va false (fun _ p => p.kind == 2) kind d 0 c

def execBlkAlloc (o : BlkOps) (s : State) : Out :=
  runSlotReads o.hd [.g o.a.toNat, .g o.b.toNat] s (fun c =>
    blkIssue s 0 (gAt c o.a) (gAt c o.b) 0 o.d.toNat c)

def execBlkXlat (o : BlkOps) (s : State) : Out :=
  runSlotReads o.hd [.g o.a.toNat, .g o.b.toNat] s (fun c =>
    blkIssue s 1 (gAt c o.a) (gAt c o.b) 0 o.d.toNat c)

def execBlkShare (o : BlkShareOps) (s : State) : Out :=
  runSlotReads o.hd [.g o.a.toNat, .g o.b.toNat, .g o.c.toNat] s (fun c =>
    blkIssue s 2 (gAt c o.a) (gAt c o.b) (gAt c o.c) o.d.toNat c)

def execBlkFree (o : BlkOps) (s : State) : Out :=
  runSlotReads o.hd [.g o.a.toNat, .g o.b.toNat] s (fun c =>
    blkIssue s 3 (gAt c o.a) (gAt c o.b) 0 o.d.toNat c)

/-! ## Collectives (R418, R424) -/

/-- COLL.START: the checks at issue, then the outbound stream. -/
def collStartEffect (o : RA) (s : State) (c : Core) : Eff :=
  let ga := gAt c o.a
  if ga.toNat % 64 ≠ 0 then atomTrap 3 ga
  else
    match s.kernelOf c with
    | none => .trap codePage (pageInfo ga.toNat 0 1)
    | some k =>
      match checkRange k.pages ga.toNat 192 false (fun p => p.kind == 0) with
      | some (va, sub) => .trap codePage (pageInfo va 0 sub)
      | none => sendNow s c (.coll ga.toNat)

def execCollStart (o : RA) (s : State) : Out :=
  runSlotReads o.hd [.g o.a.toNat] s (collStartEffect o s)

/-- STATE of COLL.ST (R424). -/
def collCode (k : CollState) : Nat :=
  match k with
  | .waiting | .running => 2
  | .done => 3
  | .aborted => 4
  | .refused => 5

/-- Whether a COLL.START of this VA still stands in an outbound stream of the context, or is held. -/
def collInStream (s : State) (ctx va : Nat) : Bool :=
  let isIt (x : OutCmd) : Bool := match x.kind with
    | .coll v => v == va
    | .wellWrite .. | .remoteWrite .. | .remoteRead .. | .arrive _ | .fence _ => false
  s.streams.any (fun st =>
      (match s.kernel? st.kid with | some k => k.ctx == ctx | none => false) && st.cmds.any isIt)
    || s.cores.any (fun p => (match s.kernelOf p.2 with | some k => k.ctx == ctx | none => false)
        && (p.2.outNew.any isIt || p.2.regions.any (fun r => r.hold.any isIt)))

/-- What COLL.ST reads: the latest collective of this VA among the endpoint's last 32. -/
def collStatus (s : State) (ctx va : Nat) : Word64 :=
  let recent := ((s.link.colls.filter (fun x => x.ctx == ctx)).reverse.take 32)
  if collInStream s ctx va then 1
  else
    match recent.find? (fun x => x.va == va) with
    | none => 0
    | some x =>
      BitVec.ofNat 64 (fieldLE x.desc 0x20 2 * 2 ^ 48 + x.cause * 2 ^ 32 + x.rounds * 2 ^ 16
        + x.round * 2 ^ 8 + collCode x.st)

def execCollSt (o : RR) (s : State) : Out :=
  runSlotReads o.hd [.g o.a.toNat] s (fun c =>
    let ctx := match s.kernelOf c with | none => 64 | some k => k.ctx
    .ok (stage s c o.hd 4 (.g o.d.toNat (collStatus s ctx (gAt c o.a).toNat))))

/-! ## Persist barriers (R199, R200, R425) -/

/-- PBAR.dur ends the current persist epoch. -/
def execPbarDur (hd : Hd) (s : State) : Out :=
  runSlotReads hd [] s (fun c => .ok { c with epoch := c.epoch + 1 })

/-- PBAR.dur ga: one more arrival, removed once the epoch and all before it are durable. -/
def execPbarDurBarrier (o : RA) (s : State) : Out :=
  runSlotReads o.hd [.g o.a.toNat] s (fun c =>
    let ga := gAt c o.a
    if ga.toNat % 16 ≠ 0 then atomTrap 2 ga
    else if !c.dir.contains ga.toNat then .trap codeTxbState ga
    else .ok { (c.bar ga.toNat (.add 0 1)) with
      epoch := c.epoch + 1, pbarNew := c.pbarNew ++ [(c.epoch, ga.toNat)] })

end Sys2Proof.Machine
end

