-- ==== Sys2Proof/Machine/Control.lean ====
section
/-!
DEFINITION. The control instructions of slot S (R323 to R333). Each asks the sequencer of its core for
an effect, which takes place when the bundle commits (Machine/Bundle.lean).
-/
namespace Sys2Proof.Machine

/-- Changes what the bundle in progress has asked of the sequencer. -/
def Core.ask (c : Core) (f : Staged → Staged) : Core := { c with staged := f c.staged }

/-- DELAY_BRANCH reason 1: an enabled control transfer in a delay bundle (R326). -/
def noDelay (c : Core) (e : Eff) : Eff := if c.dly > 0 then .trap codeDelayBranch 1 else e

/-- NOPN n: the next bundle issues n cycles after this one (R323). -/
def execNopn (o : ImmOps) (s : State) : Out :=
  runSlotReads o.hd [] s (fun c => .ok (c.ask (fun q => { q with nopn := o.imm.toNat })))

/-- The target of BR and CALL: bundle address plus byte offset (R324). -/
def branchTarget (c : Core) (imm : BitVec 20) : Word64 := BitVec.ofNat 64 c.cur.addr + immWord imm

/-- Takes a branch (R324); `leave` says that it may leave loop bodies (R331). -/
def takeBranch (c : Core) (target : Word64) (call leave : Bool) : Core :=
  c.ask (fun q => { q with branch := some target, call := call, leave := leave })

def execBr (o : ImmOps) (s : State) : Out :=
  runSlotReads o.hd [] s (fun c => noDelay c (.ok (takeBranch c (branchTarget c o.imm) false true)))

/-- CALL: the link lands with the second delay bundle (R325). -/
def execCall (o : ImmOps) (s : State) : Out :=
  runSlotReads o.hd [] s (fun c => noDelay c (.ok (takeBranch c (branchTarget c o.imm) true false)))

/-- RET: the target is g63, read at issue (R324). -/
def execRet (h : Hd) (s : State) : Out :=
  runSlotReads h [.g 63] s (fun c => noDelay c (.ok (takeBranch c (gRead c 63) false true)))

def execJmpi (o : RA) (s : State) : Out :=
  runSlotReads o.hd [.g o.a.toNat] s (fun c => noDelay c (.ok (takeBranch c (gAt c o.a) false true)))

/-! ## Loops -/

/-- END of a loop's literal word (R328). -/
def loopEnd (lit : Word32) : Nat := (lit.setWidth 20).toNat

/-- The stages of LOOP's literal word: SM1 + 1 (R328). -/
def loopStages (lit : Word32) : Nat := (lit.extractLsb' 20 3).toNat + 1

/-- A level to push (R328, R329): its body starts after this bundle. -/
def newLevel (s : State) (c : Core) (modulo : Bool) (stop n ii stages : Nat) : LoopLevel where
  modulo := modulo
  start := c.cur.next
  stop := stop
  n := n
  j := 0
  ii := ii
  stages := stages
  passStart := issueStamp s c + 1
  entered := issueStamp s c
  sys := c.mode != .task

/-- Writes stage predicates p8 to p(8 + S - 1) for pass j (R329). -/
def stagePredWrites (s : State) (c : Core) (rank slot n j stages : Nat) (due : Due) : List Landing :=
  (List.range stages).map (fun k =>
    { write := .p (8 + k) (stagePred n j k), due := due, rank := rank, issue := issueStamp s c,
      slot := slot, long := false })

/-- LOOPN (R328): its checks in order, then a zero trip or a push. -/
def loopnEffect (o : LoopnOps) (s : State) (c : Core) : Eff :=
  let n := gAt c o.a
  if n.toNat ≥ 2 ^ 32 then operandTrap 0x91
  else if o.lit.toNat / 2 ^ 20 ≠ 0 then operandTrap 0x93
  else if loopEnd o.lit ≤ c.cur.next then operandTrap 0x93
  else if n = 0 then noDelay c (.ok (c.ask (fun q => { q with zeroTrip := some (loopEnd o.lit) })))
  else if c.loops.length ≥ 6 then operandTrap 0x92
  else noDelay c (.ok (c.ask (fun q =>
    { q with push := some (newLevel s c false (loopEnd o.lit) n.toNat 0 0) })))

def execLoopn (o : LoopnOps) (s : State) : Out := runSlotReads o.hd [.g o.a.toNat] s (loopnEffect o s)

/-- LOOP (R329): its checks in order, then a zero trip, or a push and the stage predicates of pass 0. -/
def loopEffect (o : LoopOps) (s : State) (c : Core) : Eff :=
  let n := gAt c o.a
  let stages := loopStages o.lit
  if n.toNat ≥ 2 ^ 32 then operandTrap 0x91
  else if o.lit.toNat / 2 ^ 23 ≠ 0 then operandTrap 0x93
  else if loopEnd o.lit ≤ c.cur.next then operandTrap 0x93
  else if c.loops.any (·.modulo) then operandTrap 0x95
  else if n = 0 then noDelay c (.ok (c.ask (fun q => { q with zeroTrip := some (loopEnd o.lit) })))
  else if c.loops.length ≥ 6 then operandTrap 0x92
  else
    let c := c.ask (fun q =>
      { q with push := some (newLevel s c true (loopEnd o.lit) n.toNat o.ii.toNat stages) })
    noDelay c (.ok { c with
      inflight := c.inflight ++ stagePredWrites s c 1 o.hd.slot.num n.toNat 0 stages (dueAt s c 1) })

def execLoop (o : LoopOps) (s : State) : Out := runSlotReads o.hd [.g o.a.toNat] s (loopEffect o s)

end Sys2Proof.Machine
end

