-- ==== Sys2Proof/Machine/Bundle.lean ====
section
/-!
DEFINITION. Fetching a bundle (R279, R282), the decode checks in the order of R289, running its slots,
choosing the trap that is recorded (R265), and what the sequencer does when a bundle commits: delay
bundles and links (R324 to R326), the end test and leaving loops (R330, R331), NOPN, TSYNC, DONE, ERET.
-/
namespace Sys2Proof.Machine

/-! ## Fetch -/

/-- Where a cluster SRAM byte stands in the state's cluster SRAM table. -/
def csramAddr (cluster off : Nat) : Nat := Config.csramSize * cluster + off

/-- The byte of the image's code section at a code address (R279, R280). -/
def codeByte (s : State) (phys a : Nat) : Byte :=
  memRead s.mem.csram (csramAddr (clusterOf phys) ((s.core phys).cbase + a))

/-- The header byte reached from an address after line pads (R281, R282). -/
def skipPads (s : State) (phys : Nat) : Nat → Nat → Nat
  | 0, a => a
  | n + 1, a =>
    if a ≥ (s.core phys).codeSize then a
    else if codeByte s phys a = 0 then skipPads s phys n (a / 64 * 64 + 64)
    else a

/-- The address of the bundle that fetch finds from an address on. -/
def bundleAt (s : State) (phys a : Nat) : Nat := skipPads s phys ((s.core phys).codeSize / 64 + 1) a

/-- The bytes from a header to the end of its fetch line. -/
def fetchLine (s : State) (phys a : Nat) : List Byte :=
  readBytes s.mem.csram (csramAddr (clusterOf phys) ((s.core phys).cbase + a)) (64 - a % 64)

/-- The information word of a trap raised by one syllable: SYL, KIND 0, and the low byte (R283). -/
def syllableInfo (y : Syllable) (low8 : Nat) : Word64 := BitVec.ofNat 64 (y.word.toNat * 0x10000 + low8)

/-- The opcode of a syllable. -/
def syllableOpcode (y : Syllable) : Nat := (unpackFields y.word).op.toNat

/-- Whether SUPP makes this slot a NOP (R264). -/
def suppressed (c : Core) (sl : Slot) : Bool := c.suppNow.getLsbD sl.num

/-- Step 2 of R289 for one syllable, whatever its guard. -/
def decodeTrap (c : Core) (y : Syllable) : Option TrapReq :=
  if suppressed c y.slot then none
  else
    match y.decoded with
    | .unassigned => some ⟨codeIllegalOpcode, syllableInfo y (syllableOpcode y), 0, y.slot.num, false⟩
    | .fieldFault sub => some ⟨codeIllegalOperand, syllableInfo y (0xA0 + sub), 0, y.slot.num, false⟩
    | .instr _ | .emulate => none

/-- Step 3 of R289 for one syllable: its guard is read (R288), but by a NOP, which ignores it (R284). A word with an
uncorrectable error ends the kernel outside every region (R269); a pending word traps (R173). -/
def guardTrap (s : State) (c : Core) (y : Syllable) : Option TrapReq :=
  let guard := RegName.p (headOf y.slot y.word).pred.toNat
  if suppressed c y.slot || syllableOpcode y == 0 then none
  else if hasUe c guard then
    if c.regions.isEmpty then some ⟨codeUe, guard.ueWord, 0, y.slot.num, false⟩ else none
  else (firstPending s c [guard]).map (fun n => ⟨codePending, BitVec.ofNat 64 n.info, 0, y.slot.num, false⟩)

/-- Step 4 of R289 for one syllable: an enabled extension opcode of no extension (R291). -/
def emulateTrap (c : Core) (y : Syllable) : Option TrapReq :=
  let h := headOf y.slot y.word
  if suppressed c y.slot || hasUe c (.p h.pred.toNat) || !enabled c h then none
  else
    match y.decoded with
    | .emulate => some ⟨codeEmulate, syllableInfo y (syllableOpcode y), 0, y.slot.num, false⟩
    | .instr _ | .unassigned | .fieldFault _ => none

/-- A bundle-level fetch trap with its KIND; no syllable raised it, so SLOT and sr.tlit are 0 (R282). -/
def fetchTrap (s : State) (c : Core) (kind a : Nat) : Core :=
  takeTrap s { c with cur := {} } ⟨codeIllegalOpcode, BitVec.ofNat 64 (kind * 0x1000), 0, 0, false⟩ a

/-- The order of R265 as a number: kernel-ending codes by code, then slot, engine bit and code. -/
def trapKey (t : TrapReq) : Nat :=
  if kernelEnding t.code then t.code * 0x100 + subKey t.code t.info.toNat
  else 0x10000 + t.slot * 0x400 + (if t.eng then 0x200 else 0) + t.code

/-- The first of the traps of one step in the order of R265. -/
def firstTrap : List TrapReq → Option TrapReq
  | [] => none
  | t :: ts =>
    match firstTrap ts with
    | none => some t
    | some u => if trapKey u < trapKey t then some u else some t

/-- The trap of steps 2 to 4 of R289 for the syllables of a bundle. -/
def decodeReq (s : State) (c : Core) (syls : List Syllable) : Option TrapReq :=
  let step (check : Syllable → Option TrapReq) : Option TrapReq := firstTrap (syls.filterMap check)
  [step (decodeTrap c), step (guardTrap s c), step (emulateTrap c)].findSome? id

/-- Fetches and decodes the bundle at `a` into the core: steps 1 to 4 of R289. -/
def fetchInto (s : State) (phys a : Nat) : Core :=
  let c := { s.core phys with trapped := false, staged := {} }
  if a ≥ c.codeSize then fetchTrap s c 2 a
  else
    match decodeBundle (fetchLine s phys a) with
    | .error _ => fetchTrap s c 1 a
    | .ok b =>
      let c := { c with cur := { addr := a, next := a + b.len, syls := b.syls } }
      match decodeReq s c b.syls with
      | some t => takeTrap s c t a
      | none => c

/-- Whether a core's bundle issues in this package cycle: in task mode at its timetable cycle while the
group runs, in system mode at its package cycle (R124, R132, R137). -/
def issuesNow (s : State) (phys : Nat) : Bool :=
  let c := s.core phys
  match s.kernelOf c with
  | none => false
  | some k =>
    (c.wait.isNone || c.mode == .task) &&
    match c.mode with
    | .task => k.st == .running && !c.done && decide (c.nextAt ≤ k.ttc)
    | .handler => !c.eretWait && (match c.hNextAt with | some n => decide (n ≤ s.cyc) | none => false)
    | .stub => !c.stubEnd && (match c.hNextAt with | some n => decide (n ≤ s.cyc) | none => false)

/-- An uncorrectable error in the fetch line (R269). -/
def fetchUe (s : State) (phys a : Nat) : Option Nat :=
  let sector := csramAddr (clusterOf phys) ((s.core phys).cbase + a) / 64
  if s.mem.ue.contains (5, sector) then some sector else none

/-- The core consumes an error of its fetch line and issues nothing: it ends the kernel, or in a region is
noted (R269, R273). -/
def fetchLost (s : State) (c : Core) (sector a : Nat) : Core :=
  let c := { c with cur := {}, trapped := false, staged := {} }
  if c.regions.isEmpty then takeTrap s c ⟨codeUe, ueInfo 5 (sector * 64), 0, 0, false⟩ a
  else consumeUe c 5 (ueInfo 5 (sector * 64)) 0 false

/-- Levels left by a taken branch from `src` to `dst` (R331). -/
def leaveLoops (src dst : Nat) : List LoopLevel → List LoopLevel
  | [] => []
  | l :: ls =>
    if l.start ≤ src && src < l.stop && !(l.start ≤ dst && dst < l.stop) then leaveLoops src dst ls
    else l :: ls

/-- The target of a taken BR, RET or JMPI issues: the branch leaves its loop bodies (R331). -/
def leaveBodies (c : Core) : Core :=
  match c.dly, c.brFrom with
  | 0, some src => { c with loops := leaveLoops src c.pc c.loops, brFrom := none }
  | 0, none | _ + 1, _ => c

/-- FETCH_BUNDLE: the bundle of this core enters its slots, or a decode trap is taken; the bound of the code
section is tested before any byte is read (R282). A core that does not issue in this cycle fetches nothing. -/
def execFetchBundle (core : Nat) (s : State) : Out :=
  if issuesNow s core then
    let s := s.updCore core leaveBodies
    let c := s.core core
    let a := bundleAt s core c.pc
    match (if a ≥ c.codeSize then none else fetchUe s core a) with
    | some sector => .next { (s.setCore core (fetchLost s c sector a)) with act := core }
    | none => .next { (s.setCore core (fetchInto s core a)) with act := core }
  else .next s

/-! ## The sequencer -/

/-- Passes of a level: n for LOOPN, n + S - 1 for LOOP (R329). -/
def LoopLevel.passes (l : LoopLevel) : Nat := if l.modulo then l.n + l.stages - 1 else l.n

/-- Whether a bundle meets the end test of a level (R330). -/
def LoopLevel.meets (l : LoopLevel) (addr next : Nat) : Bool :=
  l.start ≤ addr && addr < l.stop && next == l.stop

/-- The end test (R330): the levels after it, and the level whose next iteration begins. -/
def endTest (addr next start : Nat) : List LoopLevel → List LoopLevel × Option LoopLevel
  | [] => ([], none)
  | l :: ls =>
    if l.meets addr next then
      let l2 := { l with j := l.j + 1, passStart := start }
      if l2.j < l.passes then (l2 :: ls, some l2) else endTest addr next start ls
    else (l :: ls, none)

/-- The end test's trap for a pass of the wrong length (R330, R332). -/
def passTrap (addr next start : Nat) : List LoopLevel → Bool
  | [] => false
  | l :: ls =>
    if l.meets addr next then
      if l.modulo && start - l.passStart != l.ii then true
      else if l.j + 1 < l.passes then false
      else passTrap addr next start ls
    else false

/-- The cycle at which the next bundle issues: after NOPN, a zero trip's two idle cycles (R328) or a
TSYNC target. -/
def nextStamp (stamp : Nat) (q : Staged) : Nat :=
  let base := if q.zeroTrip.isSome then stamp + 3 else stamp + q.nopn
  match q.tsync with
  | none => base
  | some t => max base t.toNat

/-- The loop levels once the bundle's own LOOP or LOOPN is pushed; its first pass starts with the next
bundle. -/
def pushedLevels (c : Core) (start : Nat) : List LoopLevel :=
  match c.staged.push with
  | none => c.loops
  | some l => { l with passStart := start } :: c.loops

/-- The trap the sequencer raises for this bundle, if any (R326 reason 2, R332 subcode 4). -/
def sequencerTrap (s : State) (phys : Nat) : Option TrapReq :=
  let c := s.core phys
  let next := bundleAt s phys (c.staged.zeroTrip.getD c.cur.next)
  let start := nextStamp (issueStamp s c) c.staged
  let levels := pushedLevels c start
  let meets := match levels with | [] => false | l :: _ => l.meets c.cur.addr next
  if meets && (c.staged.branch.isSome || c.dly > 0) then
    some ⟨codeDelayBranch, 2, 0, 0, false⟩
  else if passTrap c.cur.addr next start levels then
    some ⟨codeIllegalOperand, 0x94, 0, 0, false⟩
  else none

/-- A due cycle in the core's own time. -/
def dueStamp (c : Core) (n : Nat) : Due := if c.mode = .task then .ttc n else .cyc n

/-- The link write of a CALL, with its second delay bundle (R325). -/
def linkWrite (s : State) (c : Core) : List Landing :=
  match c.callAt with
  | none => []
  | some at_ =>
    [{ write := .g 63 (BitVec.ofNat 64 c.cur.next), due := dueAt s c 1, rank := 1, issue := at_,
       slot := 0, long := false }]

/-- The place of the next bundle, and the levels, branch and link that go with it. -/
def advancePc (s : State) (phys : Nat) (start : Nat) : Core :=
  let c := s.core phys
  let q := c.staged
  let next := bundleAt s phys (q.zeroTrip.getD c.cur.next)
  let levels := pushedLevels c start
  if c.dly = 2 then { c with pc := next, dly := 1, loops := levels }
  else if c.dly = 1 then
    { c with pc := c.br, dly := 0, br := 0, callAt := none, loops := levels,
             inflight := c.inflight ++ linkWrite s c }
  else
    match q.branch with
    | some t =>
      { c with pc := next, dly := 2, br := t.toNat, loops := levels,
               brFrom := if q.leave then some c.cur.addr else none,
               callAt := if q.call then some (issueStamp s c) else none }
    | none =>
      match endTest c.cur.addr next start levels with
      | (ls, none) => { c with pc := next, loops := ls }
      | (ls, some l) =>
        { c with
          pc := l.start
          loops := ls
          inflight := c.inflight ++
            (if l.modulo then
              stagePredWrites s c 2 0 l.n l.j l.stages (dueStamp c (start - 1)) else []) }

/-- A bundle without a trap commits: the sequencer moves on, and ERET, DONE and the region instructions
of the bundle are noted for the end of the cycle. -/
def commitBundle (s : State) (phys : Nat) : State :=
  let c := s.core phys
  let q := c.staged
  let start := nextStamp (issueStamp s c) q
  let c2 := advancePc s phys start
  s.setCore phys
    { c2 with
      nextAt := if c.mode = .task then start else c.nextAt
      hNextAt := if c.mode = .task then c.hNextAt else if q.tsync.isSome then none else some start
      done := c.done || q.done
      eretWait := c.eretWait || (q.eret && c.mode == .handler)
      stubEnd := c.stubEnd || (q.eret && c.mode == .stub)
      suppNow := 0
      pend := q.pend ++ c2.pend
      staged := { opened := q.opened, closed := q.closed } }

/-! ## Running a bundle -/

/-- The slot of the syllable whose decode checks trap, or 0 for a trap of the fetch itself (R282, R289). -/
def decodeTrapSlot (s : State) (c : Core) : Nat :=
  match decodeReq s c c.cur.syls with
  | none => 0
  | some t => t.slot

/-- The trap a core has just taken, raised by a syllable of this slot. -/
def takenReq (c : Core) (slot : Nat) : TrapReq :=
  match c.kfault with
  | some f => ⟨f.code, BitVec.ofNat 64 f.info, 0, slot, false⟩
  | none => ⟨c.trap.code.toNat, c.trap.info, 0, slot, false⟩

/-- An engine raises a trap in a core (R265): the first in the order of R265 is kept. -/
def raiseEng (c : Core) (t : TrapReq) : Core :=
  match c.engTrap with
  | none => { c with engTrap := some t }
  | some u => if trapKey t < trapKey u then { c with engTrap := some t } else c

/-- The first of the outcomes with the least key. -/
def leastKey (best : Nat × State) : List (Nat × State) → Nat × State
  | [] => best
  | x :: xs => leastKey (if x.1 < best.1 then x else best) xs

/-- A bundle in which a slot traps does nothing (R8): the trap on the state before the bundle, with its place
in the order of R265. -/
def slotTrap (s1 : State) (slot : Nat) (c : Core) : Nat × State :=
  let t := takenReq c slot
  (trapKey t, s1.setMe (takeTrap s1 s1.me t s1.me.cur.addr))

/-- What a syllable does: its instruction; an extension syllable that has not trapped only reads its guard. -/
def runSyllable (ex : Instr → State → Out) (y : Syllable) (s : State) : Out :=
  match y.decoded with
  | .instr i => ex i s
  | .emulate => runSlotReads (headOf y.slot y.word) [] s (fun c => .ok c)
  | .unassigned | .fieldFault _ => .next s

/-- Runs the slots of a bundle in slot order on one state. The outcome of a slot that traps joins the list, and
the slots after it go on without it; `s1` is the state in which the bundle has done nothing. -/
def runSlots (ex : Instr → State → Out) (s1 : State) : List Syllable → State → List (Nat × State) →
    Sum Out (State × List (Nat × State))
  | [], s, ts => .inr (s, ts)
  | y :: ys, s, ts =>
    match runSyllable ex y s with
    | .next t =>
      if t.me.trapped then runSlots ex s1 ys s (ts ++ [slotTrap s1 y.slot.num t.me])
      else runSlots ex s1 ys t ts
    | .fault f => .inl (.fault f)
    | .refused r => .inl (.refused r)

/-- An engine's trap taken by a core (R265): sr.tpc names the bundle it suppresses, or the next one. -/
def engineTrapTaken (s : State) (phys : Nat) (t : TrapReq) : State :=
  let c := s.core phys
  s.setCore phys { takeTrap s { c with cur := {} } t (bundleAt s phys c.pc) with engTrap := none }

/-- The sequencer's trap taken (R326, R330); no one syllable raised it. -/
def sequencerTrapTaken (s : State) (phys : Nat) (t : TrapReq) : State :=
  let c := s.core phys
  s.setCore phys (takeTrap s { c with cur := { c.cur with syls := [] } } t c.cur.addr)

/-- The engine trap of this cycle as an outcome. -/
def engineOutcome (s : State) (phys : Nat) : List (Nat × State) :=
  match (s.core phys).engTrap with
  | none => []
  | some t => [(trapKey t, engineTrapTaken s phys t)]

/-- An error that a bundle's read has consumed inside a region stays consumed where the bundle traps (R273), and
counts (R268): `s1` is the state before the bundle's slots, `s2` the one after them. -/
def keepUe (s1 s2 : State) (phys : Nat) (s : State) : State :=
  s.updCore phys (fun c =>
    if c.regions.isEmpty then c
    else
      { c with
        ueHit := if c.ueHit.isSome then c.ueHit else (s2.core phys).ueHit
        found := c.found ++ (s2.core phys).found.drop (s1.core phys).found.length })

/-- Clears the engine trap that another trap of the same cycle outranked, and the mark of the step. -/
def settleTrap (s : State) (phys : Nat) : State :=
  s.updCore phys (fun c => { c with engTrap := none, trapped := false, staged := {}, suppNow := 0 })

/-- One core's bundle in this cycle: fetch, slots, then the trap R265 records or the commit. A core that
issues none takes its engine's trap (R264). -/
def runBundleWith (ex : Instr → State → Out) (phys : Nat) (s : State) : Out :=
  if !issuesNow s phys then
    match (s.core phys).engTrap with
    | none => .next s
    | some t => .next (settleTrap (engineTrapTaken s phys t) phys)
  else
    match ex (.fetchBundle phys) s with
    | .fault f => .fault f
    | .refused r => .refused r
    | .next s1 =>
      let c1 := s1.core phys
      if c1.trapped then
        let first := (trapKey (takenReq c1 (decodeTrapSlot s { s.core phys with cur := c1.cur })), s1)
        .next (settleTrap (leastKey first (engineOutcome (s.updCore phys leaveBodies) phys)).2 phys)
      else
        match runSlots ex s1 c1.cur.syls s1 [] with
        | .inl o => o
        | .inr (s2, ts) =>
          let seq := match sequencerTrap s2 phys with
            | none => []
            | some t => [(trapKey t, sequencerTrapTaken s1 phys t)]
          match ts ++ seq ++ engineOutcome (s.updCore phys leaveBodies) phys with
          | [] => if c1.cur.syls.isEmpty then .next s2 else .next (commitBundle s2 phys)
          | x :: xs => .next (keepUe s1 s2 phys (settleTrap (leastKey x xs).2 phys))

end Sys2Proof.Machine
end

