-- ==== Sys2Proof/Machine/System.lean ====
section
/-!
DEFINITION. Special registers (R322, R434 to R436), and the system instructions of slot Y: fences, TSYNC,
containment regions, traps, ERET, DONE, test and measurement reads (R426 to R433).
-/
namespace Sys2Proof.Machine

/-! ## Views of the state that special registers show -/

/-- The registered image of a kernel (R278, R299). -/
def imageOf (s : State) (k : Kernel) : Image := tget ⟨0, 0, 0, [], []⟩ (tget {} s.cp.ctxs k.ctx).images k.image

/-- Whether an image declares class B (R299). -/
def classB (im : Image) : Bool := bitOf (fieldLE im.bytes 7 1) 0

/-- sr.svc (R42). -/
def srSvc (m : Mgmt) : Nat :=
  m.stretch * 0x10000 + (if m.limhold then 8 else 0) + (if m.full then 1 else 0)

/-- Number of levels of a declaration, and a level's kind and extent (R148). -/
def declLevels (d : List Byte) : Nat := fieldLE d 6 1

def levelKind (d : List Byte) (i : Nat) : Nat := fieldLE d (0x10 + 4 * i) 1

def levelExtent (d : List Byte) (i : Nat) : Nat := fieldLE d (0x12 + 4 * i) 2

/-- Index of the CORE level (R156). -/
def coreLevel (d : List Byte) : Nat := (List.range (declLevels d)).findIdx (fun i => levelKind d i == 5)

/-- NROLES: the product of the extents from the first level that is not SYS to the CORE level (R147). -/
def declRoles (d : List Byte) : Nat :=
  ((List.range (coreLevel d + 1)).filter (fun i => levelKind d i != 0)).foldl
    (fun acc i => acc * levelExtent d i) 1

/-- sr.grp (R156). -/
def srGrp (d : List Byte) (role : Nat) : Nat :=
  declRoles d * 2 ^ 32 + coreLevel d * 2 ^ 24 + declLevels d * 2 ^ 16 + role

/-- The role's coordinates, from the CORE level outward: level and coordinate (R147). -/
def coordinates (d : List Byte) (self : Nat) : Nat → Nat → List (Nat × Nat)
  | 0, role => if levelKind d 0 = 0 then [(0, self)] else [(0, role % levelExtent d 0)]
  | i + 1, role => (i + 1, role % levelExtent d (i + 1)) :: coordinates d self i (role / levelExtent d (i + 1))

/-- sr.role (R157). -/
def srRole (d : List Byte) (self role : Nat) : Nat :=
  (coordinates d self (coreLevel d) role).foldl (fun acc p => acc + p.2 * 2 ^ (8 * p.1)) 0

/-- sr.wsphase (R176). -/
def srWsphase (cyc : Nat) : Nat :=
  cyc % 1024 / 4 * 8 + (if cyc % 1024 < 64 then 4 else 0) + cyc % 4096 / 1024

/-- A shaft of the package: 32·pier + shaft. -/
def shaftOf (m : Mgmt) (i : Nat) : Shaft := tget {} m.shafts i

/-- sr.shtemp (R241); temperatures are in 1/16 degrees. -/
def srShtemp (sh : Shaft) : Nat :=
  (if sh.temp ≥ 85 * 16 then 0x10000 else 0) + (BitVec.ofInt 16 sh.temp).toNat

/-- Failed lanes of a half: lanes 0 to 527 or 528 to 1,055 (R237). -/
def halfFailed (sh : Shaft) (half : Nat) : Nat :=
  (sh.failed.filter (fun l => if half = 1 then l < 528 else l ≥ 528)).length

/-- The half of its shaft that carries a Cistern sector: the half at work, or either at full width (log entry 111). -/
def halfOf (sh : Shaft) (sector : Nat) : Nat := if sh.half = 0 then (if Config.sectorUpper sector then 2 else 1) else sh.half

/-- Whether two failed lanes that no spare has replaced yet carry a Cistern sector (R238). -/
def laneBad (m : Mgmt) (sector : Nat) : Bool :=
  let sh := shaftOf m (64 * sector / 2 ^ 36 * 32 + 64 * sector / 2 ^ 16 % 32)
  let half := halfOf sh sector
  decide (2 ≤ (sh.waiting.filter (fun l => if half = 1 then l < 528 else l ≥ 528)).length)

/-- sr.shlat (R241). -/
def srShlat (sh : Shaft) : Nat :=
  (if sh.half = 0 then min sh.failed.length 32 else halfFailed sh sh.half) * 0x10000 + sh.half * 4
    + (if sh.gone then 2 else if sh.half = 0 then 0 else 1)

/-- HELD of sr.crgn. -/
def srCrgn (c : Core) : Nat :=
  c.ulevel * 2 ^ 32 + ((c.regions.flatMap (·.hold)).filter (fun x => !x.kind.isFence)).length * 2 ^ 16
    + (if c.unw then 0x80 else 0) + (if c.upend.isEmpty then 0 else 0x40) + c.regions.length

/-- sr.owners of 64 tiles from tile 64n (R171). -/
def srOwners (c : Core) (n : Nat) : Word64 := mkMask (fun k => engineOwned c (64 * n + k))

/-- Cores of a kernel. -/
def coresOf (s : State) (k : Kernel) : List Core := k.bind.map s.core

/-- Hold causes in force (R130). -/
def holdCauses (s : State) (k : Kernel) : Nat :=
  let cs := coresOf s k
  (if cs.any (fun c => c.mode == .task && (match c.wait with | some w => w.out.isNone | none => false))
    then 1 else 0)
    + (if cs.any (fun c => c.mode == .handler) then 2 else 0)
    + (if k.st == .draining then 4 else 0)
    + (if k.limit then 8 else 0)
    + (if cs.any (fun c => match c.mcall with | some m => m.reexec.isSome | none => false) then 16 else 0)

/-- sr.kst (R133). -/
def srKst (s : State) (k : Kernel) : Nat :=
  k.relaunches * 2 ^ 28 + min k.pskip 255 * 2 ^ 8 + (if k.preq.isSome then 0x80 else 0) + holdCauses s k

/-- Whether some shaft of the footprint shows class A: shafts of CISTERN pages (R152). A page above
64 KiB reaches every shaft of its pier. -/
def footprint (pages : List PageT) (i : Nat) : Bool :=
  pages.any (fun p => p.kind == 0 && p.phys / 2 ^ 36 == i / 32 &&
    (p.size > 0x10000 || p.phys / 0x10000 % 32 == i % 32))

/-- Whether Cistern reads of the kernel are padded from 96 to 112 cycles (R143, R158). -/
def padded (s : State) (k : Kernel) : Bool :=
  classB (imageOf s k) &&
    (List.range Config.numShafts).any (fun i => footprint k.pages i && (shaftOf s.mgmt i).half == 0)

/-- sr.bind (R158). -/
def srBind (s : State) (k : Kernel) (phys role : Nat) : Nat :=
  (if padded s k then 0x800 else 0) + (if phys % 5 ≠ positionOf k role then 0x400 else 0)
    + phys % 5 * 0x80 + phys / 5 % 32 * 4 + pierOf phys

/-- sr.tcause (R263). -/
def srTcause (t : TrapRecord) : Nat :=
  t.supp.toNat * 0x10000 + (if t.nest then 0x8000 else 0) + (if t.eng then 0x4000 else 0)
    + t.slot.toNat * 0x800 + t.code.toNat

/-! ## SRD and SWR (R322, R434) -/

/-- Whether a number is assigned. -/
def srAssigned (n : Nat) : Bool :=
  n ≤ 0x015 || (0x020 ≤ n && n ≤ 0x037) || (0x100 ≤ n && n ≤ 0x109)

/-- Whether a number is system-only. -/
def srSystem (n : Nat) : Bool := 0x100 ≤ n && n ≤ 0x109

/-- The value of a special register in the issue cycle. sr.tdly holds the trap's count in a handler and shows the
live count otherwise (R263). -/
def srValue (s : State) (c : Core) (n : Nat) : Word64 :=
  let k? := s.kernelOf c
  let decl := match k? with | none => [] | some k => k.decl
  let w (x : Nat) : Word64 := BitVec.ofNat 64 x
  match n with
  | 0x000 => w (s.ttcOf c)
  | 0x001 => w s.cyc
  | 0x002 => w (srSvc s.mgmt)
  | 0x003 => 0xF
  | 0x004 => s.mgmt.feat1
  | 0x005 => match k? with | none => 0 | some k => k.sctx.setWidth 64
  | 0x006 => w (srGrp decl c.role)
  | 0x007 => w (srRole decl s.link.self c.role)
  | 0x008 => w (c.cbase % 0x800000 / 0x1000 * 0x1000)
  | 0x009 => w (srWsphase s.cyc)
  | 0x00A => c.shsel.setWidth 64
  | 0x00B => w (srShtemp (shaftOf s.mgmt c.shsel.toNat))
  | 0x00C => w (srShlat (shaftOf s.mgmt c.shsel.toNat))
  | 0x00D => c.rmode.setWidth 64
  | 0x00E => w (srCrgn c)
  | 0x00F => c.epicfg.setWidth 64
  | 0x014 => c.mclip0
  | 0x015 => c.mclip1
  | 0x100 => w (srTcause c.trap)
  | 0x101 => c.trap.info
  | 0x102 => c.trap.iter
  | 0x103 => c.trap.pc
  | 0x104 => c.trap.br
  | 0x105 => if c.mode = .handler then c.trap.dly.setWidth 64 else w c.dly
  | 0x106 => c.tvb
  | 0x107 => c.trap.lit.setWidth 64
  | 0x108 => match k? with | none => 0 | some k => w (srKst s k)
  | 0x109 => match k? with | none => 0 | some k => w (srBind s k s.act c.role)
  | n =>
    if 0x010 ≤ n ∧ n ≤ 0x013 then srOwners c (n - 0x010)
    else if 0x020 ≤ n ∧ n ≤ 0x02F then w (bankCode c (n - 0x020))
    else if 0x030 ≤ n ∧ n ≤ 0x037 then tget 0 c.mbox (n - 0x030)
    else 0

/-- The traps of SRD and SWR (R322, R332). -/
def srChecked (c : Core) (n : Nat) (k : Eff) : Eff :=
  if !srAssigned n then .trap codeIllegalOperand (BitVec.ofNat 64 (n * 0x100 + 0x81))
  else if srSystem n && c.mode == .task then .trap codePrivilege (BitVec.ofNat 64 n)
  else k

/-- Whether a special register holds column clipping flags, which R35 says may differ. -/
def isClipSr (n : Nat) : Bool := n == 0x014 || n == 0x015

def execSrd (o : SrdOps) (s : State) : Out :=
  runSlotReads o.hd [] s (fun c =>
    srChecked c o.num.toNat (.ok (stage s (noteLossy c (c.lossyClip && isClipSr o.num.toNat)) o.hd 1 (.g o.d.toNat (srValue s c o.num.toNat)))))

/-- SWR lands at the end of its issue cycle; fields without write access are kept (R11, R322). The
configuration address is set by EPI.CFG alone (R436). -/
def execSwr (o : SwrOps) (s : State) : Out :=
  runSlotReads o.hd [.g o.a.toNat] s (fun c =>
    srChecked c o.num.toNat
      (.ok (if o.num = 0x00F then c else stage s c o.hd 1 (.sr o.num.toNat (gAt c o.a)))))

/-- CONFIG of a context (R73). -/
def ctxConfig (s : State) (ctx : Nat) : Nat := fieldLE (tget {} s.cp.ctxs ctx).desc 0 8

/-- SWR sr.rmode: a reserved mode, or mode 4 where CONFIG.EFOK is 0, traps (R55). -/
def execSwrRmode (o : RA) (s : State) : Out :=
  runSlotReads o.hd [.g o.a.toNat] s (fun c =>
    let mode := (gAt c o.a).toNat % 8
    let ef := match s.kernelOf c with | none => false | some k => bitOf (ctxConfig s k.ctx) 0
    if mode ≥ 5 ∨ (mode = 4 ∧ ef = false) then operandTrap (0x100 + mode)
    else .ok (stage s c o.hd 1 (.sr 0x00D (gAt c o.a))))

/-- SWR sr.bfmtN: a reserved code traps (R49). -/
def execSwrBfmt (o : SwrBfmtOps) (s : State) : Out :=
  runSlotReads o.hd [.g o.a.toNat] s (fun c =>
    let code := (gAt c o.a).toNat % 16
    if codeReserved code then operandTrap (code * 0x100 + 0x30 + o.bank.toNat)
    else .ok (stage s c o.hd 1 (.sr (0x020 + o.bank.toNat) (gAt c o.a))))

/-! ## Slot Y -/

/-- FENCE takes a place in the outbound stream for scopes .sys and .dur, and has no other effect (R188). -/
def execFence (o : FenceOps) (s : State) : Out :=
  runSlotReads o.hd [] s (fun c =>
    if o.scope.toNat < 5 then .ok c
    else .ok { c with
      outNew := c.outNew ++ [{ kind := .fence (o.scope == 6), start := s.ttcOf c, at_ := s.cyc, sys := c.mode != .task, epoch := c.epoch,
                               barrier := none, sent := 0, order := c.orders }]
      orders := c.orders + 1 })

/-- The information word of SLIP (R134). -/
def slipInfo (ttc sub : Nat) : Word64 := BitVec.ofNat 64 (ttc % 2 ^ 56 * 0x100 + sub)

/-- TSYNC: issue stops until sr.ttc reaches the target; a target not after its own cycle is slip 4. -/
def execTsync (o : TsyncOps) (s : State) : Out :=
  runSlotReads o.hd (opbReads o.b) s (fun c =>
    let t := match o.b with
      | .const k => (cRead c k.toNat).setWidth 64
      | .reg _ | .lit _ => opbWordZero c o.b
    if t.toNat ≤ s.ttcOf c then .trap codeSlip (slipInfo (s.ttcOf c) 4)
    else .ok (c.ask (fun q => { q with tsync := some t })))

/-- CRGN.OPEN: its misuses at issue, then the opening at the end of the cycle (R270, R428). -/
def execCrgnOpen (o : CrgnOps) (s : State) : Out :=
  runSlotReads o.hd [] s (fun c =>
    if c.mode ≠ .task then .trap codeRegion 7
    else if c.regions.length ≥ 4 then .trap codeRegion 5
    else .ok (c.ask (fun q => { q with opened := some o.lit.toNat })))

/-- CRGN.CLOSE: suppressed while an unwind is pending (R272). -/
def execCrgnClose (hd : Hd) (s : State) : Out :=
  runSlotReads hd [] s (fun c =>
    if c.mode ≠ .task then .trap codeRegion 7
    else if c.regions.isEmpty then .trap codeRegion 6
    else if !c.upend.isEmpty then .ok c
    else .ok (c.ask (fun q => { q with closed := true })))

/-- TRAP (R429). -/
def execTrap (o : ImmOps) (s : State) : Out :=
  runSlotReads o.hd [] s (fun _ => .trap codeTrap (immWord o.imm))

/-- ERET: PRIVILEGE in task mode; otherwise it acts when the bundle commits (R430). -/
def execEret (hd : Hd) (s : State) : Out :=
  runSlotReads hd [] s (fun c =>
    if c.mode = .task then .trap codePrivilege 0
    else .ok (c.ask (fun q => { q with eret := true })))

/-- DONE (R431). -/
def execDone (hd : Hd) (s : State) : Out :=
  runSlotReads hd [] s (fun c =>
    if !c.regions.isEmpty then .trap codeRegion 4
    else if c.mode ≠ .task then operandTrap 0x44
    else .ok (c.ask (fun q => { q with done := true })))

/-- TEST.RD: a word of the command processor's copy of the cluster's test record (R432). -/
def execTestRd (o : TestRdOps) (s : State) : Out :=
  runSlotReads o.hd [] s (fun c =>
    let rec_ := tget [] s.mgmt.testRd (clusterOf s.act)
    .ok (stage s c o.hd 1 (.g o.d.toNat (BitVec.ofNat 64 (fieldLE rec_ (8 * o.w.toNat) 8)))))

/-- MHEAD: a word of the chain value captured at acceptance (R433). -/
def execMhead (o : MHeadOps) (s : State) : Out :=
  runSlotReads o.hd [] s (fun c =>
    let head := match s.kernelOf c with | none => [] | some k => k.mhead
    .ok (stage s c o.hd 1 (.g o.d.toNat (BitVec.ofNat 64 (fieldLE head (8 * o.w.toNat) 8)))))

end Sys2Proof.Machine
end

