-- ==== Sys2Proof/Machine/Memory.lean ====
section
/-!
DEFINITION. The memories outside a core (R26, R212): cluster SRAM, and physical memory under the keys of
its pages (R214, R215); what lands in them at the end of a cycle (R181); errors of their sectors (R269).
-/
namespace Sys2Proof.Machine

/-! ## Keys -/

/-- The key value of a key slot: its material plus 1; 0 stands for no key. -/
def keyValue (cp : CmdProc) (slot : Nat) : Nat := leNat (tget [] cp.keys slot) + 1

/-- The key value under which a page is read and written (R215). -/
def pageKey (cp : CmdProc) (p : PageT) : Nat := if p.enc && p.kind != 1 then keyValue cp p.key else 0

/-- A stored byte as it reads under a key value (log entry 5). -/
def seenByte (m : Mem) (key a : Nat) : Byte :=
  let tag := tget 0 m.key (a / 64)
  if tag = key then memRead m.phys a else Config.scrambled tag key a (memRead m.phys a)

/-- Physical memory read under a key value. -/
def physRead (m : Mem) (key a n : Nat) : List Byte := (List.range n).map (fun i => seenByte m key (a + i))

/-- Brings a sector under a key value: its bytes become what they read as under it. -/
def retag (m : Mem) (key sector : Nat) : Mem :=
  if tget 0 m.key sector = key then m
  else
    { m with
      phys := writeBytes m.phys (64 * sector) (physRead m key (64 * sector) 64)
      key := if key = 0 then tdel m.key sector else tset m.key sector key }

/-- Writes one byte of physical memory under a key value. -/
def physWriteByte (m : Mem) (key a : Nat) (b : Byte) : Mem :=
  let m := retag m key (a / 64)
  { m with phys := memWrite m.phys a b }

/-- Writes bytes of physical memory under a key value. -/
def physWrite (m : Mem) (key a : Nat) : List Byte → Mem
  | [] => m
  | b :: bs => physWrite (physWriteByte m key a b) key (a + 1) bs

/-- Well memory as reads see it: accepted sectors over durable ones, the latest accepted first (R192). -/
def wellRead (m : Mem) (key sector : Nat) : List Byte :=
  match m.pend.reverse.find? (fun w => w.addr / 64 == sector) with
  | none => physRead m key (64 * sector) 64
  | some w =>
    if w.key = key then w.data
    else (w.data.zipIdx).map (fun (b, i) => Config.scrambled w.key key (64 * sector + i) b)

/-! ## Data that a value of an MCALL with s > 0 has reached (R89) -/

/-- The sectors of 64 bytes that a range touches. -/
def sectorsOf (a n : Nat) : List Nat := (List.range ((a + n - 1) / 64 - a / 64 + 1)).map (a / 64 + ·)

/-- Whether such a value has reached a range: place 0 is physical memory, 1 cluster SRAM. -/
def lossyIn (m : Mem) (place a n : Nat) : Bool :=
  n != 0 && !m.lossy.isEmpty && (sectorsOf a n).any (fun u => m.lossy.contains (place, u))

/-- Marks or clears whole sectors. -/
def setLossy (m : Mem) (place : Nat) (sectors : List Nat) (on : Bool) : Mem :=
  let rest := m.lossy.filter (fun u => !(u.1 == place && sectors.contains u.2))
  { m with lossy := if on then rest ++ sectors.map (fun u => (place, u)) else rest }

/-- Writes that land at the end of the cycle, and whether such a value has reached them. -/
def queueWrites (m : Mem) (on : Bool) (cells : List (Nat × Nat × Byte)) : Mem :=
  { m with
    writes := m.writes ++ cells
    taint := if on then (m.taint ++ cells.map (fun (w : Nat × Nat × Byte) => (if w.1 = 0 then 1 else 0, w.2.1 / 64))).eraseDups
             else m.taint }

/-! ## Writes of the command processor, the engines of the boundary and the service cores -/

/-- Bytes of a write that fall in a sector, over what the sector holds. -/
def mergeSector (old : List Byte) (sector addr : Nat) (data : List Byte) : List Byte :=
  old.zipIdx.map (fun (b, i) =>
    let a := 64 * sector + i
    if addr ≤ a ∧ a < addr + data.length then data.getD (a - addr) 0 else b)

/-- Bytes written from a physical address: to the Well's write path sector by sector (R192), else to memory, where
they land at the end of the cycle, or at once when the cycle's landings are over (`now`). `lossy` is what R89
marks of them. -/
def putBytes (m : Mem) (now lossy : Bool) (key a : Nat) (bs : List Byte) : Mem :=
  if bs.isEmpty then m
  else if a ≥ 0x20000000000 then
    let one (m : Mem) (u : Nat) : Mem := { m with
      pend := m.pend ++ [{ addr := 64 * u, data := mergeSector (wellRead m key u) u a bs, key := key, src := none }] }
    setLossy ((sectorsOf a bs.length).foldl one m) 0 (sectorsOf a bs.length) lossy
  else if now then
    let m := physWrite m key a bs
    if lossy then setLossy m 0 (sectorsOf a bs.length) true else m
  else queueWrites m lossy (bs.zipIdx.map (fun (b, i) => (1 + key, a + i, b)))

/-- Bytes written over a list of pieces: physical address, key value, length. -/
def putPieces (m : Mem) (now lossy : Bool) : List (Nat × Nat × Nat) → List Byte → Mem
  | [], _ => m
  | (a, key, n) :: ps, bs => putPieces (putBytes m now lossy key a (bs.take n)) now lossy ps (bs.drop n)

/-! ## Landing -/

/-- Whether every byte of a unit of 64 is among the addresses. -/
def coversUnit (addrs : List Nat) (unit : Nat) : Bool :=
  (List.range 64).all (fun i => addrs.contains (64 * unit + i))

/-- One write of the cycle. -/
def landWrite (m : Mem) (w : Nat × Nat × Byte) : Mem :=
  if w.1 = 0 then { m with csram := memWrite m.csram w.2.1 w.2.2 }
  else physWriteByte m (w.1 - 1) w.2.1 w.2.2

/-- The writes of the cycle land in order; a unit written whole loses its error and what R89 marks (R181, R269). -/
def landMemory (m : Mem) : Mem :=
  let cs := (m.writes.filter (fun w => w.1 == 0)).map (·.2.1)
  let ps := (m.writes.filter (fun w => w.1 != 0)).map (·.2.1)
  let m2 := m.writes.foldl landWrite m
  { m2 with
    writes := []
    taint := []
    lossy := ((if m.lossy.isEmpty then [] else m.lossy.filter (fun u =>
      !(u.1 == 1 && coversUnit cs u.2) && !(u.1 == 0 && coversUnit ps u.2))) ++ m.taint).eraseDups
    ue := m.ue.filter (fun u =>
      !(u.1 == 5 && coversUnit cs u.2) && !((u.1 == 6 || u.1 == 7) && coversUnit ps u.2)) }

/-- The storage level of a physical address (R212, R269). -/
def physLevel (a : Nat) : Nat := if a < 0x4000000000 then 6 else 7

/-- Whether R212 gives a physical address storage. -/
def hasStorage (a : Nat) : Bool :=
  (a < 0x4000000000 && a % 0x1000000000 < 0xC00000000)
    || (0x4000000000 ≤ a && a < 0x4200000000)
    || (0x20000000000 ≤ a && a < 0x40000000000)

/-- The first sector with an error among n bytes of a level. -/
def memUe (m : Mem) (level a n : Nat) : Option Nat :=
  (sectorsOf a n).find? (fun u => m.ue.contains (level, u))

/-- The first sector of a physical range that cannot be read: an error in storage, or two bad lanes (R238). -/
def physUe (s : State) (a n : Nat) : Option Nat :=
  let level := physLevel a
  (sectorsOf a n).find? (fun u => s.mem.ue.contains (level, u) || (level == 6 && laneBad s.mgmt u))

/-! ## The fault-log area (R47) -/

/-- First byte of the Well. -/
def wellBase : Nat := 0x20000000000

/-- Bytes of the fault-log area. -/
def faultAreaSize : Nat := 0x4000000

/-- First byte of the area behind the test, GEN and recovery records (R87, R224, R276). -/
def faultLogBase : Nat := 0x2400000

/-- Bytes are written to the fault-log area, at some place behind its records (log entry 116). -/
def logToArea (s : State) (bs : List Byte) : State :=
  let room := faultAreaSize - faultLogBase
  let place := Config.faultPlace s.free % room
  { s with
    free := s.free + 1
    mem := { s.mem with phys := writeBytes s.mem.phys (wellBase + faultLogBase + place) (bs.take (room - place)) } }

/-- A log of at most some bytes, in a form that the spec leaves open (log entry 116). -/
def writeFaultLog (s : State) (most : Nat) : State := logToArea s ((Config.faultBytes s.free).take most)

/-! ## Private memory at the end of a cycle (R164, R181) -/

/-- Engine beats, then the bundle's stores. A sector written whole loses its error, and what R89 marks but for what the
cycle's writes mark. -/
def landPrivate (c : Core) : Core :=
  let cells := c.engWrites ++ c.stores
  let addrs := cells.map (·.1)
  { c with
    priv := writeCells c.priv cells
    engWrites := []
    stores := []
    ue := if addrs.isEmpty then c.ue else c.ue.filter (fun u => !(u.1 == 1 && coversUnit addrs u.2))
    lossyPriv :=
      ((if c.lossyPriv.isEmpty then [] else c.lossyPriv.filter (fun u => !coversUnit addrs u)) ++ c.lossyNew
        ++ (if c.lossy then c.stores.map (fun (w : Nat × Byte) => w.1 / 64) else [])).eraseDups
    lossyNew := [] }

end Sys2Proof.Machine
end

