-- ==== Sys2Proof/Machine/Transform.lean ====
section
/-!
DEFINITION. The transform units and XMOV (R347 to R354). A start's result is computed from the operands
of its issue cycle and lands in the unit's result register; one register serves task mode, one system
mode (R348).
-/
namespace Sys2Proof.Machine

/-! ## Table interpolation (R350) -/

/-- floor of a value clamped to 0 to hi. -/
def floorClamp (t : Num) (hi : Nat) : Nat :=
  match t with
  | .nan => 0
  | .inf s => if s then 0 else hi
  | .fin s n d => (clampInt (signedNum s (roundMag 3 s n d)) 0 hi).toNat

/-- Clamp of an exact value to 0 to 1. -/
def clampUnit (u : Num) : Num :=
  if u.lt .zero then .zero else if (Num.ofInt 1).lt u then .ofInt 1 else u

/-- Where an argument of tie falls: its scaled value, and the interval's number; none for a NaN. -/
def tieIndex (lo invh : Word32) (n : Nat) (x : Word32) : Option (Num × Nat) :=
  let t := f32Val (f32RNE (((f32Val x).sub false (f32Val lo)).mul (f32Val invh)))
  if t.isNaN then none else some (t, floorClamp t (n - 1))

/-- One lane of tie, its result rounded in a mode: the nearest value is the datapath's, toward zero the shadow's
(R266). -/
def tieLane (c : Core) (mode op : Nat) (lo invh : Word32) (base n : Nat) (x : Word32) : Word32 :=
  match tieIndex lo invh n x with
  | none => f32NaN
  | some (t, k) =>
    let u := t.sub false (.ofInt k)
    let u := if op = 1 then clampUnit u else u
    let y := f32Val (cRead c (base + 2 * k))
    let slope := cRead c (base + 2 * k + 1)
    let p : Num :=
      if (f32Val slope).isZero then .zero
      else if u.isZero then .fin (slope.getLsbD 31 != u.sign) 0 1
      else (f32Val slope).mul u
    f32Round mode (y.add false p)

/-- The entries of the constant bank that tie reads for an argument. -/
def tieReads (lo invh : Word32) (base n : Nat) (x : Word32) : List RegName :=
  match tieIndex lo invh n x with
  | none => []
  | some (_, k) => [.c (base + 2 * k), .c (base + 2 * k + 1)]

/-- Whether a tie header is refused. -/
def tieBad (w : Word32) : Bool :=
  let base := w.toNat % 256
  let n := w.toNat / 256 % 512
  n == 0 || n > 128 || base + 2 * n > 256 || w.toNat / 2 ^ 17 != 0

/-- tie over the included lanes; the others receive +0. -/
def tieLanes (c : Core) (mode op : Nat) (mask : Word64) (a b : Lanes) : Lanes :=
  let h := lane b 2
  mkLanes (fun i =>
    if mask.getLsbD i then
      tieLane c mode op (lane b 0) (lane b 1) (h.toNat % 256) (h.toNat / 256 % 512) (lane a i)
    else 0)

/-! ## Sort and select (R351) -/

/-- A sort key: NaNs are equal and above +∞. -/
def selKey (op : Nat) (w : Word32) : Int :=
  match op with
  | 0 | 1 => if f32IsNaN w then 2 ^ 32 else f32Key w
  | 2 | 3 => w.toInt
  | 4 | 5 => w.toNat
  | _ => 0

/-- Places a lane after every lane whose key is not greater; `desc` turns the order round. -/
def selInsert (desc : Bool) (x : Int × Nat) : List (Int × Nat) → List (Int × Nat)
  | [] => [x]
  | y :: ys =>
    if (if desc then y.1 < x.1 else x.1 < y.1) then x :: y :: ys else y :: selInsert desc x ys

/-- The source lane of each result position: included lanes in key order, then the others. -/
def selOrder (op : Nat) (mask : Word64) (a : Lanes) : List Nat :=
  let inc := (List.range 64).filter (fun i => mask.getLsbD i)
  let exc := (List.range 64).filter (fun i => !mask.getLsbD i)
  let sorted := inc.foldl
    (fun acc i => selInsert (op == 1 || op == 3 || op == 5) (selKey op (lane a i), i) acc) []
  sorted.map (·.2) ++ exc

/-- Lanes in a given order of source lanes. -/
def gatherLanes (order : List Nat) (v : Lanes) : Lanes := mkLanes (fun i => lane v (order.getD i 0))

/-! ## Prefix scan (R352) -/

/-- The identity of an excluded lane. -/
def scanIdent (op : Nat) : Word32 :=
  match op with
  | 0 | 1 => 0x80000000
  | 2 | 3 => 0
  | 4 => 0xFF800000
  | _ => 0x7F800000

/-- One step of a scan. -/
def scanStep (op mode : Nat) (s x : Word32) : Word32 :=
  match op with
  | 0 | 1 => f32Add mode s x
  | 2 | 3 => s + x
  | 4 => f32Max s x
  | _ => f32Min s x

/-- The results from lane i on. -/
def scanFrom (op mode : Nat) (mask : Word64) (v : Lanes) : Nat → Nat → Word32 → List Word32
  | 0, _, _ => []
  | n + 1, i, s =>
    let t := scanStep op mode s (if mask.getLsbD i then lane v i else scanIdent op)
    (if op = 1 ∨ op = 3 then s else t) :: scanFrom op mode mask v n (i + 1) t

/-! ## mix32 (R353) -/

/-- rng.raw and rng.unif of a counter and a seed. -/
def rngLane (op : Nat) (ctr seed : Word32) : Word32 :=
  let t := (seed ^^^ (ctr * 0x9E3779B9)) * 0x85EBCA6B
  let t := t ^^^ (t >>> 13)
  if op = 0 then t else f32RNE (.fin false (t.toNat / 256) (2 ^ 24))

/-! ## Fingerprint (R354) -/

/-- The fingerprint carried in vb lanes 0 to 5. -/
def fprIn (b : Lanes) : Fingerprint where
  nanCnt := lane b 0
  maxMag := lane b 1
  sum := lane b 3 ++ lane b 2
  sumSq := lane b 5 ++ lane b 4

/-- A fingerprint in result lanes 0 to 5. -/
def fprOut (f : Fingerprint) : List Word32 :=
  [f.nanCnt, f.maxMag, f.sum.setWidth 32, f.sum.extractLsb' 32 32, f.sumSq.setWidth 32,
    f.sumSq.extractLsb' 32 32]

/-- The exact value of an element by operation. -/
def fprValue (op : Nat) (w : Word32) : Num :=
  match op with
  | 0 => f32Val w
  | 1 => i32Val w
  | _ => n32Val w

/-- The values of the included lanes. -/
def fprValues (op : Nat) (mask : Word64) (a : Lanes) : List Num :=
  ((List.range 64).filter (fun i => mask.getLsbD i)).map (fun i => fprValue op (lane a i))

/-- The fingerprint extended by the included lanes, and what the shadow of its accumulators has. -/
def fprLanes (op : Nat) (mask : Word64) (a b : Lanes) : Fingerprint × (Word64 × Word64) :=
  (fprIn b).steps ((fprIn b).sum, (fprIn b).sumSq) (fprValues op mask a)

/-! ## XMOV (R347, R348) -/

/-- The result register of a port, for the core's mode. -/
def resultKey (c : Core) (port : Nat) : Nat := if c.mode = .task then port else port + 16

/-- The latency of a start port (R347). -/
def startLatency (port : Nat) : Nat :=
  match port with
  | 0 => 10
  | 2 => 12
  | 5 => 7
  | 7 => 4
  | _ => 16

/-- The shadow unit of a start port: tie and fpr have one (R266). -/
def portUnit (port : Nat) : Nat :=
  match port with
  | 0 => 5
  | 9 => 6
  | _ => 256

/-- The accumulators of a fingerprint under a fault: SUMSQ where the fault names one of its lanes, 4 and 5, else SUM
(R266, R354). -/
def shadowedSum (hit : Option Glitch) (f : Fingerprint × (Word64 × Word64)) : Fingerprint × Option Word64 :=
  if (match hit with | none => false | some x => x.lane == 4 || x.lane == 5) then
    let r := shadowed fmtF64 hit f.1.sumSq.toNat f.2.2.toNat
    ({ f.1 with sumSq := BitVec.ofNat 64 r.1 }, r.2)
  else
    let r := shadowed fmtF64 hit f.1.sum.toNat f.2.1.toNat
    ({ f.1 with sum := BitVec.ofNat 64 r.1 }, r.2)

/-- The results of a start: result port, lanes, and the divergence found in them (R266). -/
def startResults (c : Core) (port op : Nat) (mask : Word64) (a b : Lanes) : List (Nat × Lanes × Option Word64) :=
  match port with
  | 0 => [(1, shadowedLanes (struck c 5) mask (tieLanes c 0 op mask a b) (tieLanes c 1 op mask a b))]
  | 2 =>
    let order := selOrder op mask a
    [(3, gatherLanes order a, none), (4, gatherLanes order b, none)]
  | 5 => [(6, lanesOf (scanFrom op (modeOf c) mask a 64 0 (lane b 0)), none)]
  | 7 => [(8, mkLanes (fun i => if mask.getLsbD i then rngLane op (lane a i) (lane b i) else 0), none)]
  | _ =>
    let r := shadowedSum (struck c 6) (fprLanes op mask a b)
    [(10, lanesOf (fprOut r.1), r.2)]

/-- The entries of the constant bank that a start reads. -/
def startConsts (port : Nat) (mask : Word64) (a b : Lanes) : List RegName :=
  if port = 0 then
    (List.range 64).flatMap (fun i =>
      if mask.getLsbD i then
        tieReads (lane b 0) (lane b 1) ((lane b 2).toNat % 256) ((lane b 2).toNat / 256 % 512) (lane a i)
      else [])
  else []

/-- XMOV start: a refused tie header traps with 0xB1. -/
def execXmovStart (o : XStartOps) (s : State) : Out :=
  runSlotReads o.hd [.v o.a.toNat, .v o.b.toNat, .m o.lm.toNat] s
    (fun c =>
      let a := vAt c o.a
      let b := vAt c o.b
      let port := o.port.toNat
      let started : Core := (startResults c port o.op.toNat (maskOf c o.lm) a b).foldl
        (fun c r => stageShadowed s c o.hd (startLatency port) (portUnit port) (.xres (resultKey c r.1) r.2.1) r.2.2) c
      if port = 0 ∧ tieBad (lane b 2) then operandTrap 0xB1
      else
        match firstUe c (startConsts port (maskOf c o.lm) a b) with
        | some n => ueEffect c 9 n.ueWord o.hd.slot.num (.ok started)
        | none => .ok started)

/-- XMOV collect: the result register as it stands in the issue cycle. -/
def execXmovCollect (o : XCollectOps) (s : State) : Out :=
  runSlotReads o.hd [.m o.lm.toNat] s
    (fun c => .ok (putV s c o.hd 1 o.d (maskOf c o.lm)
      (tget zeroLanes c.xres (resultKey c o.port.toNat))))

end Sys2Proof.Machine
end

