-- ==== Sys2Proof/Machine/Routine.lean ====
section
/-!
DEFINITION. The matrix array's data: slots, routine images and their checks (R358 to R367, R376), segment
values (R61 to R63, R369), and what an MCALL leaves in its working copies (R368).
-/
namespace Sys2Proof.Machine

/-! ## Slots of a core -/

def actOf (c : Core) (k : Nat) : ActSlot := tget {} c.acts k

def wtOf (c : Core) (k : Nat) : WtSlot := tget {} c.wts k

def Core.setAct (c : Core) (k : Nat) (x : ActSlot) : Core := { c with acts := tset c.acts k x }

def Core.setWt (c : Core) (k : Nat) (x : WtSlot) : Core := { c with wts := tset c.wts k x }

def ringOf (c : Core) (e : Nat) : RingEntry := tget {} c.ring (e % 8)

def Core.setRing (c : Core) (e : Nat) (x : RingEntry) : Core := { c with ring := tset c.ring (e % 8) x }

/-- An operand trap of class 6; `slot` goes to bits 15:8 (R383). -/
def matrixTrap (sub slot : Nat) : Eff := operandTrap (slot * 0x100 + 0x60 + sub)

/-- Elements in a row of an activation slot, by bank code (R358); 0 for a code OLOAD refuses. -/
def rowElems (code : Nat) : Nat :=
  match code with
  | 11 | 5 | 6 | 7 => 128
  | 8 | 9 | 10 => 256
  | 1 => 64
  | _ => 0

/-- Bytes of a row (R358). -/
def rowBytes (code : Nat) : Nat := bytesFor code (rowElems code)

/-! ## Routine images (R363, R364) -/

/-- A step of a routine. -/
structure RStep where
  asel  : Nat
  wsel  : Nat
  first : Nat
  count : Nat
  rows  : Nat
  ent   : Nat
  fresh : Bool
  deriving DecidableEq, Repr

def imageByte (im : List Byte) (i : Nat) : Nat := (im.getD i 0).toNat

def imgSteps (im : List Byte) : Nat := imageByte im 4
def imgKind (im : List Byte) : Nat := imageByte im 5
def imgPush (im : List Byte) : Nat := imageByte im 6
def imgCoop (im : List Byte) : Bool := imageByte im 7 % 2 == 1
def imgLend (im : List Byte) : Nat := fieldLE im 8 4
def imgLenc (im : List Byte) : Nat := fieldLE im 12 4

/-- Step t of an image. -/
def imgStep (im : List Byte) (t : Nat) : RStep :=
  let b (i : Nat) : Nat := imageByte im (16 + 16 * t + i)
  { asel := b 1, wsel := b 2, first := b 4 / 16, count := b 4 % 16, rows := b 5, ent := b 6,
    fresh := b 7 % 2 == 1 }

def stepsOf (im : List Byte) : List RStep := (List.range (imgSteps im)).map (imgStep im)

/-- The most segments of a kind (R364). -/
def mostSegs (kind : Nat) : Nat := match kind with | 0 => 2 | 1 => 4 | _ => 1

/-- The cost per row of n segments (R364). -/
def rowCost (kind : Nat) (split : Bool) (n : Nat) : Nat :=
  match kind with
  | 0 => if split then n else 2 * n
  | 1 => if split then (n + 1) / 2 else n
  | _ => 4 * n

/-- LMIN of R364. -/
def leastLength (im : List Byte) (split : Bool) : Nat :=
  (stepsOf im).foldl
    (fun acc st => acc + (if st.rows = 0 then 96 else st.rows) * rowCost (imgKind im) split st.count) 12

/-- Whether step t's fields keep the layout of R363. -/
def stepFits (im : List Byte) (t : Nat) : Bool :=
  let b (i : Nat) : Nat := imageByte im (16 + 16 * t + i)
  b 0 == 1 && b 1 ≤ 9 && b 2 ≤ 11 && b 3 == 0 && b 5 ≤ 96 && b 6 ≤ 7 && b 7 ≤ 1 && zeroBytes im (16 + 16 * t + 8) 8

/-- Check 1 of R362. -/
def layoutFits (im : List Byte) : Bool :=
  fieldLE im 0 4 == 0x4D394A48 && 1 ≤ imgSteps im && imgSteps im ≤ 31 && imgKind im ≤ 2 &&
    imgPush im ≤ 8 && imageByte im 7 ≤ 1 && (List.range (imgSteps im)).all (stepFits im) &&
    zeroBytes im (16 + 16 * imgSteps im) (512 - (16 + 16 * imgSteps im))

/-- Check 2 of R362. -/
def segmentsFit (im : List Byte) : Bool :=
  (stepsOf im).all (fun st => 1 ≤ st.count && st.first + st.count ≤ mostSegs (imgKind im))

/-- The first of checks 1 to 4 of R362 that an image fails. -/
def imageRefused (im : List Byte) : Option Nat :=
  if !layoutFits im then some 1
  else if !segmentsFit im then some 2
  else if imgLend im < leastLength im false then some 3
  else if (if imgKind im = 2 then imgLenc im ≠ 0 else imgLenc im < leastLength im true) then some 4
  else none

/-! ## Operands of a step (R365, R376) -/

/-- The activation slot of a step; none where ASEL names no field. -/
def actSel (x0 : Word64) (st : RStep) : Option Nat :=
  if st.asel < 8 then some st.asel
  else if st.asel = 8 then some (bitsOf x0.toNat 2 0)
  else if st.asel = 9 then some (bitsOf x0.toNat 6 4)
  else none

/-- The weight slot of a step. -/
def wtSel (x0 : Word64) (st : RStep) : Option Nat :=
  if st.wsel < 8 then some st.wsel
  else if st.wsel < 12 then some (bitsOf x0.toNat (4 * (st.wsel - 8) + 10) (4 * (st.wsel - 8) + 8))
  else none

/-- Rows of a step: ROWS, or x1. -/
def stepRows (x1 : Word64) (st : RStep) : Nat := if st.rows = 0 then x1.toNat % 128 else st.rows

/-- N of the sparse form by its code. -/
def sparseN (code : Nat) : Nat := match code with | 0 => 4 | 1 => 8 | _ => 16

/-- What the array reads of a step: bytes and code of the activation slot, bytes of the weight slot, and
with sparsity the metadata bytes and N. -/
structure StepData where
  act  : Array Byte
  code : Nat
  kind : Nat
  wts  : Array Byte
  spars : Option (Nat × Array Byte)
  lossy : Bool := false

def byteNat (a : Array Byte) (i : Nat) : Nat := (a.getD i 0).toNat

/-- Activation code at row r, position p: S8 for I8, unsigned for Q (R369). -/
def actCode (d : StepData) (r p : Nat) : Int :=
  let base := r * rowBytes d.code
  if d.code = codeI8 then signedOf 8 (byteNat d.act (base + p))
  else
    let rec_ := base + p / qGroup d.code * qRecord d.code
    let j := p % qGroup d.code
    if qBits d.code = 8 then byteNat d.act (rec_ + j)
    else byteNat d.act (rec_ + j / 2) / (if j % 2 = 0 then 1 else 16) % 16

/-- Scale and zero point of the group that holds position p of row r (R53, R358). -/
def actScale (d : StepData) (r p : Nat) : Num :=
  if d.code = codeI8 then .ofInt 1
  else
    let t := r * rowBytes d.code + p / qGroup d.code * qRecord d.code + qBytes d.code
    fmtF16.value (byteNat d.act t + 256 * byteNat d.act (t + 1))

def actZero (d : StepData) (r p : Nat) : Int :=
  if d.code = codeI8 then 0
  else (byteNat d.act (r * rowBytes d.code + p / qGroup d.code * qRecord d.code + qBytes d.code + 2)
    % 2 ^ qBits d.code : Nat)

/-- A weight as the slot holds it, row j, column n (R360). -/
def slotWeight (d : StepData) (j n : Nat) : Int :=
  if d.kind = 1 then
    signedOf 4 (byteNat d.wts (128 * (j / 2) + n) / (if j % 2 = 0 then 1 else 16) % 16)
  else signedOf 8 (byteNat d.wts (128 * j + n))

/-- The weight at position p, column n; positions that the metadata do not name count as 0 (R376). -/
def weightAt (d : StepData) (p n : Nat) : Int :=
  match d.spars with
  | none => slotWeight d p n
  | some (cnt, m) =>
    match (List.range cnt).find? (fun j => byteNat m (128 * (cnt * (p / 32) + j) + n) == p % 32) with
    | none => 0
    | some j => slotWeight d (cnt * (p / 32) + j) n

/-- Positions of each part of segment q (R62, R369). -/
def segParts (code q : Nat) : List (List Nat) :=
  if isQ code && qGroup code == 32 then
    [(List.range 32).map (64 * q + ·), (List.range 32).map (64 * q + 32 + ·)]
  else [(List.range 64).map (64 * q + ·)]

/-! ## The split sum (R369) -/

/-- Plane b of an activation code, as its bit. -/
def planeBit (a : Int) (b : Nat) : Nat := (a / (2 ^ b : Nat) % 2).toNat

/-- Σ of a plane's bits times weights. -/
def planeSum (d : StepData) (r n b : Nat) (ps : List Nat) : Int :=
  ps.foldl (fun acc p => acc + planeBit (actCode d r p) b * weightAt d p n) 0

/-- The bits of a plane as a number. -/
def planePattern (d : StepData) (r b : Nat) (ps : List Nat) : Nat :=
  ps.foldl (fun acc p => 2 * acc + planeBit (actCode d r p) b) 0

/-- Whether a plane clips. -/
def planeClips (p : Int) : Bool := decide (p > 2047) || decide (p < -2048)

/-- Q of a plane: the bound it clips to, or an integer within 1 of P (log entry 4). -/
def convert (p : Int) (key : List Nat) : Int :=
  if p > 2047 then 2047 else if p < -2048 then -2048 else p + ((Config.conv key % 3 : Nat) : Int) - 1

/-- D of R369 for one part; s = 0 is exact. -/
def splitSum (d : StepData) (s r n : Nat) (key : List Nat) (ps : List Nat) : Int :=
  let digital := ps.foldl
    (fun acc p => acc + actCode d r p / (2 ^ s : Nat) * (2 ^ s : Nat) * weightAt d p n) 0
  (List.range s).foldl (fun acc b =>
    acc + (2 ^ b : Nat) * convert (planeSum d r n b ps) (b :: planePattern d r b ps :: key)) digital

/-- Contribution of one part: s_a · (D − z_a Σ w) (R62). -/
def partValue (d : StepData) (s r n : Nat) (key : List Nat) (ps : List Nat) : Num :=
  let p0 := ps.headD 0
  let w := ps.foldl (fun acc p => acc + weightAt d p n) 0
  let scale := actScale d r p0
  if scale.isFinite then scale.mul (.ofInt (splitSum d s r n key ps - actZero d r p0 * w)) else .nan

/-- The BF16 product at position p (R61). -/
def bf16Product (d : StepData) (r p n : Nat) : Num :=
  (fmtBF16.value (byteNat d.act (128 * r + 2 * p) + 256 * byteNat d.act (128 * r + 2 * p + 1))).mul
    (fmtBF16.value (byteNat d.wts (256 * p + 2 * n) + 256 * byteNat d.wts (256 * p + 2 * n + 1)))

/-- A sum of exact values; an exact zero is +0. -/
def exactSum (xs : List Num) : Num := xs.foldl (Num.add false) .zero

/-- V(q, r, n) of R369. -/
def segValue (d : StepData) (s q r n : Nat) (key : List Nat) : Num :=
  if d.kind = 2 then exactSum ((List.range 64).map (fun p => bf16Product d r p n))
  else
    exactSum ((segParts d.code q).zipIdx.map (fun (ps, i) => partValue d s r n (i :: key) ps))

/-- Whether segment q clips in column n: some plane of some row and part (R369). -/
def segClips (d : StepData) (s q rows n : Nat) : Bool :=
  d.kind != 2 &&
    (segParts d.code q).any (fun ps => (List.range rows).any (fun r =>
      (List.range s).any (fun b => planeClips (planeSum d r n b ps))))

/-- Largest |s_a| of a part over the rows (R63); a NaN scale makes it a NaN (log entry 34). -/
def partScale (d : StepData) (rows : Nat) (ps : List Nat) : Num :=
  (List.range rows).foldl (fun m r =>
    let x := (actScale d r (ps.headD 0)).abs
    if m.isNaN || x.isNaN then .nan else if m.lt x then x else m) .zero

/-- SSumA of R368. -/
def segScale (d : StepData) (q rows : Nat) : Num :=
  (segParts d.code q).foldl (fun acc ps => f32Val (f32Round 2 (acc.add false (partScale d rows ps)))) .zero

/-! ## Working copies (R368) -/

/-- A step with its operands resolved: number, rows, entry, and data. -/
structure StepRun where
  t     : Nat
  st    : RStep
  rows  : Nat
  entry : Nat
  data  : StepData

/-- Segments of a step. -/
def StepRun.segs (x : StepRun) : List Nat := (List.range x.st.count).map (x.st.first + ·)

/-- The steps of an MCALL in flight with what they read. -/
def mcallSteps (c : Core) (m : MCall) : List StepRun :=
  (stepsOf m.image).zipIdx.map (fun (st, t) =>
    let a := actOf c ((actSel m.x0 st).getD 0)
    let wk := (wtSel m.x0 st).getD 0
    { t := t, st := st, rows := stepRows m.x1 st, entry := (m.head + st.ent) % 8,
      data := { act := a.bytes.toArray, code := a.code, kind := imgKind m.image,
                wts := (wtOf c wk).bytes.toArray,
                spars := if m.sparse = 0 then none
                        else some (m.sparse, (wtOf c (Nat.xor wk 1)).bytes.toArray)
                lossy := a.lossy || (wtOf c wk).lossy || (m.sparse != 0 && (wtOf c (Nat.xor wk 1)).lossy) } })

/-- The clipped (step, segment, column) triples of an MCALL. -/
def mcallClips (c : Core) (m : MCall) : List (Nat × Nat × Nat) :=
  (mcallSteps c m).flatMap (fun x => x.segs.flatMap (fun q =>
    ((List.range 128).filter (segClips x.data m.s q x.rows)).map (fun n => (x.t, q, n))))

/-- Whether a (step, segment) is among those clipped. -/
def clipped (cl : List (Nat × Nat × Nat)) (t q : Nat) : Bool := cl.any (fun k => k.1 == t && k.2.1 == q)

/-- The accumulation of R368 at one element: every segment of a step in increasing order, each addition in RNE but the
last, which is in the mode `last`: the shadow unit rounds it toward zero (R266). -/
def accumulate (last free s : Nat) (x : StepRun) (digital : Nat → Bool) (r n : Nat) (a0 : Word32) : Word32 :=
  let add (mode : Nat) (acc : Word32) (q : Nat) : Word32 :=
    f32Add mode acc (f32RNE (segValue x.data (if digital q then 0 else s) q r n [n, x.t, q, free]))
  match x.segs.getLast? with
  | none => a0
  | some q => add last (x.segs.dropLast.foldl (add 0) a0) q

/-- The working copy of an entry after one step; `redo` re-executes its clipped segments (R372). -/
def stepEntry (free s : Nat) (cl : List (Nat × Nat × Nat)) (redo : Bool) (x : StepRun) (w : RingEntry) :
    RingEntry :=
  let digital (q : Nat) : Bool := redo && clipped cl x.t q
  let e0 : Word32 := if x.st.fresh then 0 else w.e
  let keys := (List.range x.rows).flatMap (fun r => (List.range 128).map (fun n => (r, n)))
  let vals := keys.foldl (fun v k =>
    let i := 128 * k.1 + k.2
    tset v i (accumulate 0 free s x digital k.1 k.2
      (if x.st.fresh then 0x80000000 else tget 0 w.vals i))) w.vals
  { w with
    vals := vals
    e := if s = 0 then e0 else x.segs.foldl (fun e q =>
      if digital q then e
      else f32Round 2 ((f32Val e).add false ((Num.ofInt (2 ^ s - 1)).mul (segScale x.data q x.rows)))) e0
    clipAny := (!x.st.fresh && w.clipAny) || (!redo && x.segs.any (clipped cl x.t))
    lossy :=
      let old := if x.st.fresh then w.lossy.filter (fun r => decide (x.rows ≤ r)) else w.lossy
      if 0 < s || x.data.lossy then (old ++ List.range x.rows).eraseDups else old }

/-- The working copies of an MCALL, by entry. -/
def mcallCopies (free : Nat) (c : Core) (m : MCall) (cl : List (Nat × Nat × Nat)) (redo : Bool) :
    Table RingEntry :=
  (mcallSteps c m).foldl (fun wk x =>
    tset wk x.entry (stepEntry free m.s cl redo x ((tfind wk x.entry).getD (ringOf c x.entry)))) []

/-- Cycles of a re-execution (R372). -/
def reexecCycles (c : Core) (m : MCall) (cl : List (Nat × Nat × Nat)) : Nat :=
  (mcallSteps c m).foldl (fun acc x =>
    acc + ((x.segs.filter (clipped cl x.t)).length * x.rows * rowCost (imgKind m.image) false 1)) 12

/-- A mask of clipped columns: 64·half and up (R371). -/
def clipMask (cl : List (Nat × Nat × Nat)) (half : Nat) : Word64 :=
  mkMask (fun i => cl.any (fun k => k.2.2 == 64 * half + i))

/-- The information word of CLIP (R372). -/
def clipInfo (cl : List (Nat × Nat × Nat)) : Word64 :=
  let low := cl.foldl (fun m k => match m with
    | none => some k
    | some b => if k.2.2 < b.2.2 then some k else some b) (none : Option (Nat × Nat × Nat))
  match low with
  | none => 0
  | some (t, q, n) => BitVec.ofNat 64 (n + t * 0x100 + q * 0x2000 + min cl.length 0xFFFF * 0x10000)

/-! ## Metadata checks (R376) -/

/-- The first bad entry of a (group, column): the entry number and its reason. -/
def metaFault (m : Array Byte) (cnt g n : Nat) : Nat → Nat → List Nat → Option (Nat × Nat)
  | 0, _, _ => none
  | k + 1, j, seen =>
    let b := byteNat m (128 * (cnt * g + j) + n)
    if b = 63 then metaFault m cnt g n k (j + 1) seen
    else if b ≥ 32 then some (j, 1)
    else if seen.contains b then some (j, 2)
    else metaFault m cnt g n k (j + 1) (b :: seen)

/-- The information word of the first metadata fault of an MCALL, in step, group, column and entry order. -/
def sparseFault (c : Core) (m : MCall) : Option Word64 :=
  (mcallSteps c m).findSome? (fun x =>
    match x.data.spars with
    | none => none
    | some (cnt, md) =>
      (x.segs.flatMap (fun q => [2 * q, 2 * q + 1])).findSome? (fun g =>
        (List.range 128).findSome? (fun n =>
          match metaFault md cnt g n cnt 0 [] with
          | none => none
          | some (j, reason) =>
            some (BitVec.ofNat 64 (reason + n * 0x100 + g * 0x10000 + j * 0x1000000
              + (Nat.xor ((wtSel m.x0 x.st).getD 0) 1) * 2 ^ 32)))))

end Sys2Proof.Machine
end

