-- ==== Sys2Proof/Machine/Matrix.lean ====
section
/-!
DEFINITION. The matrix instructions of slot X (19_isa_matrix.md): claims and releases, the issue of OLOAD,
WLOAD, MPLOAD, MCALL and EPI.POP, EPI.CFG, EPI.ST, calibration reads and writes.
-/
namespace Sys2Proof.Machine

/-! ## Claims and releases (R356, R357) -/

def execWclaim (o : SlotOps) (s : State) : Out :=
  runSlotReads o.hd [] s (fun c =>
    let x := wtOf c o.k.toNat
    if x.st ≠ .free then matrixTrap 1 o.k.toNat else .ok (c.setWt o.k.toNat { x with st := .claimed }))

def execOclaim (o : SlotOps) (s : State) : Out :=
  runSlotReads o.hd [] s (fun c =>
    let x := actOf c o.k.toNat
    if x.st ≠ .free then matrixTrap 1 o.k.toNat else .ok (c.setAct o.k.toNat { x with st := .claimed }))

/-- Whether a slot may be released or loaded: CLAIMED or LOADED, and not in use (R356). -/
def slotIdle (st : SlotState) (use : Nat) : Bool := (st == .claimed || st == .loaded) && use == 0

def execWrel (o : SlotOps) (s : State) : Out :=
  runSlotReads o.hd [] s (fun c =>
    let x := wtOf c o.k.toNat
    if slotIdle x.st x.use then .ok (c.setWt o.k.toNat { x with st := .free })
    else matrixTrap 2 o.k.toNat)

def execOrel (o : SlotOps) (s : State) : Out :=
  runSlotReads o.hd [] s (fun c =>
    let x := actOf c o.k.toNat
    if slotIdle x.st x.use then .ok (c.setAct o.k.toNat { x with st := .free })
    else matrixTrap 2 o.k.toNat)

/-! ## Loads -/

/-- Whether a range check of R163 fails for a beat of an engine. -/
def beatTrap (c : Core) (a n kind : Nat) : Option (Nat × Word64) :=
  if outOfBank (BitVec.ofNat 64 a) n then some (codePrivRange, BitVec.ofNat 64 a)
  else if engineOwned c (a / 0x1000) then some (codeTileOwn, tileInfo (a / 0x1000) kind)
  else none

/-- Bytes of beat j of a load of `size` bytes. -/
def beatLen (size j : Nat) : Nat := min 64 (size - 64 * j)

/-- One beat of an OLOAD (R359): the bytes read, or the old bytes of the slot where a sector holds an
uncorrectable error (R269), or a trap. -/
def oloadBeat (c : Core) (o : OLoad) (j : Nat) : Core × Option (Nat × Word64) :=
  let a := o.addr + 64 * j
  let n := beatLen o.size j
  match beatTrap c a n 4 with
  | some t => (c, some t)
  | none =>
    let old := (((actOf c o.slot).bytes.drop (64 * j)).take n)
    let old := old ++ List.replicate (n - old.length) 0
    if c.ue.contains (1, a / 64) then
      ({ (consumeUe c 1 (ueInfo 1 a) 5 true) with oload := some { o with data := o.data ++ old } }, none)
    else
      ({ c with oload := some { o with
          data := o.data ++ readBytes c.priv a n, lossy := o.lossy || privLossy c (span a n) } }, none)

/-- Six beats from beat j on (R359); the first trap stops them. -/
def oloadBeats (c : Core) (j : Nat) : Nat → Core × Option (Nat × Word64)
  | 0 => (c, none)
  | n + 1 =>
    match c.oload with
    | none => (c, none)
    | some o =>
      if 64 * j ≥ o.size then (c, none)
      else
        match oloadBeat c o j with
        | (c, some t) => (c, some t)
        | (c, none) => oloadBeats c (j + 1) n

/-- What has come of the beats that an OLOAD or a WLOAD makes in its issue cycle, from core `c` to core `d`. Outside every
region an error that they have consumed ends the kernel, and the bundle commits nothing (R8, R269); beside another trap
R265 records a kernel-ending code first, then the lowest code. -/
def beatsEffect (c d : Core) (t : Option (Nat × Word64)) : Eff :=
  let ue := if c.regions.isEmpty then (d.found.drop c.found.length).head? else none
  match t, ue with
  | none, none => .ok d
  | some (code, info), none => .trap code info
  | none, some u => .trap codeUe (BitVec.ofNat 64 (u.1 + u.2))
  | some (code, info), some u =>
    if kernelEnding code && decide (code < codeUe) then .trap code info else .trap codeUe (BitVec.ofNat 64 (u.1 + u.2))

/-- OLOAD (R358, R359, R383): its checks, that of R54 after those of its slot (log entry 100), and the first six
beats. -/
def oloadEffect (o : OLoadOps) (s : State) (c : Core) : Eff :=
  let k := o.k.toNat
  let ga := gAt c o.a
  let rows := (gAt c o.b).toNat
  let code := bankCode c (bankOf ga)
  let x := actOf c k
  if rowElems code = 0 || rows = 0 || rows > 96 || ga.toNat % 64 ≠ 0 || c.oload.isSome then
    matrixTrap 0xA k
  else if !slotIdle x.st x.use then matrixTrap 3 k
  else
    let ld : OLoad :=
      { slot := k, addr := ga.toNat, size := rows * rowBytes code, code := code, rows := rows,
        issue := issueStamp s c, k := 1, sys := c.mode != .task, data := [], failed := false }
    wholeRecords code [(ga.toNat, ld.size)]
      (let r := oloadBeats { (c.setAct k { x with st := .loading }) with oload := some ld } 0 6
       beatsEffect c r.1 r.2)

def execOload (o : OLoadOps) (s : State) : Out :=
  runSlotReads o.hd [.g o.a.toNat, .g o.b.toNat] s (oloadEffect o s)

/-- Budget and slip checks of beat j of a WLOAD, at package cycle `cyc` and timetable cycle `ttc` (R134,
R153, R175, R361). -/
def wloadUse (decl : List Byte) (cyc ttc : Nat) (src : WSource) (off j : Nat) (sys : Bool) (c : Core) :
    Core × Option (Nat × Word64) :=
  match src with
  | .store =>
    if cyc % 1024 < 64 && cyc % 4096 / 1024 == (off + 64 * j) / 0x4000 % 4 then
      (c, some (codeSlip, slipInfo ttc 3))
    else
      match budgetUse decl cyc ttc 4 (!sys) c with
      | .over i => (c, some (codeBudget, i))
      | .ok c => (c, none)
  | .cisternA =>
    if j % 2 = 0 then
      match budgetUse decl cyc ttc 2 (!sys) c with
      | .over i => (c, some (codeBudget, i))
      | .ok c => (c, none)
    else (c, none)
  | .cisternB =>
    match budgetUse decl cyc ttc 2 (!sys) c with
    | .over i => (c, some (codeBudget, i))
    | .ok c => (c, none)

/-- Bytes read in the cycle of beat j of a WLOAD: 64 a cycle, or a 128-byte shaft word every second
cycle (R361). -/
def wloadRead (src : WSource) (j : Nat) : Nat × Nat :=
  match src with
  | .store | .cisternB => (64 * j, 64)
  | .cisternA => if j % 2 = 0 then (64 * j, 128) else (64 * j, 0)

/-- Latency of a WLOAD (R361). -/
def wloadLatency (src : WSource) : Nat := match src with | .store => 256 | .cisternA => 288 | .cisternB => 304

/-- Where a WLOAD from this page reads. -/
def wloadSource (s : State) (k : Kernel) (p : PageT) : WSource :=
  if p.kind = 1 then .store else if classB (imageOf s k) || padded s k then .cisternB else .cisternA

/-- One cycle of a WLOAD: uses, then the bytes; an uncorrectable error keeps the slot's old bytes (R269). -/
def wloadCycle (s : State) (k : Kernel) (ttc : Nat) (c : Core) (w : WLoad) (j : Nat) :
    Core × Option (Nat × Word64) :=
  if j ≥ 256 then (c, none)
  else
    let phys := physOf k.pages w.va
    match wloadUse k.decl s.cyc ttc w.src (phys % 0x80000000) j w.sys c with
    | (c, some t) => (c, some t)
    | (c, none) =>
      let (off, n) := wloadRead w.src j
      let level := if w.src == .store then 7 else 6
      let old := ((wtOf c w.slot).bytes.drop off).take n
      let old := old ++ List.replicate (n - old.length) 0
      match physUe s (phys + off) n with
      | some u =>
        ({ (consumeUe c level (ueInfo level (64 * u)) 5 true) with
            wload := some { w with data := w.data ++ old, ue := true } }, none)
      | none =>
        let key := match findPage k.pages w.va with | none => 0 | some p => pageKey s.cp p
        ({ c with
            wload := some { w with
              data := w.data ++ physRead s.mem key (phys + off) n, lossy := w.lossy || lossyIn s.mem 0 (phys + off) n } }, none)

/-- WLOAD (R360, R361, R383): its checks, and its first transfer. -/
def wloadEffect (o : WLoadOps) (s : State) (c : Core) : Eff :=
  let k := o.k.toNat
  let ga := (gAt c o.a).toNat
  let x := wtOf c k
  if ga % 0x4000 ≠ 0 || c.wload.isSome then matrixTrap 0xB k
  else if !slotIdle x.st x.use then matrixTrap 3 k
  else
    match s.kernelOf c with
    | none => .trap codePage (pageInfo ga 3 1)
    | some kn =>
      match pageSub kn.pages ga false (fun p => p.kind == 0 || p.kind == 1), findPage kn.pages ga with
      | some sub, _ => .trap codePage (pageInfo ga 3 sub)
      | none, none => .trap codePage (pageInfo ga 3 1)
      | none, some p =>
        let w : WLoad := { slot := k, va := ga, int4 := o.int4, src := wloadSource s kn p,
                           issue := issueStamp s c, k := 1, sys := c.mode != .task, data := [],
                           ue := false }
        let r := wloadCycle s kn kn.ttc { (c.setWt k { x with st := .loading }) with wload := some w } w 0
        beatsEffect c r.1 r.2

def execWload (o : WLoadOps) (s : State) : Out := runSlotReads o.hd [.g o.a.toNat] s (wloadEffect o s)

/-- MPLOAD (R362): the routine is written at the end of issue + 7. -/
def mploadEffect (o : AB) (s : State) (c : Core) : Eff :=
  let ga := gAt c o.a
  let gb := (gAt c o.b).toNat
  let a := ga.toNat
  let bad := gb % 0x1000 + gb / 0x10000 % 32 * 0x10000 ≠ gb
  if a % 64 ≠ 0 || bad then operandTrap 0x65
  else
    checkAccess c ga 512 4 (span a 512)
      (readChecked c o.hd (span a 512)
        (let im := readBytes c.priv a 512
         match imageRefused im with
         | some n => operandTrap (n * 0x100 + 0x65)
         | none => .ok { c with
             mploads := c.mploads ++
               [{ place := gb / 0x10000 % 32, tag := gb % 0x1000, image := im, due := dueAt s c 8 }] }))

def execMpload (o : AB) (s : State) : Out :=
  runSlotReads o.hd [.g o.a.toNat, .g o.b.toNat] s (mploadEffect o s)

/-! ## MCALL (R365 to R367) -/

/-- Check 4 of R367 for one step: the slot it names, where it fails. -/
def stepRefused (c : Core) (kind : Nat) (x0 x1 : Word64) (sparse : Nat) (st : RStep) : Option Nat :=
  match actSel x0 st, wtSel x0 st with
  | none, _ | _, none => some 0
  | some a, some w =>
    let act := actOf c a
    let wt := wtOf c w
    let wm := wtOf c (Nat.xor w 1)
    let rows := stepRows x1 st
    if act.st ≠ .loaded then some a
    else if wt.st ≠ .loaded then some w
    else if sparse ≠ 0 && wm.st != .loaded then some (Nat.xor w 1)
    else if wt.int4 ≠ (kind == 1) then some w
    else if sparse ≠ 0 && wm.int4 then some (Nat.xor w 1)
    else if (match kind with | 0 => act.code != 11 && !(5 ≤ act.code && act.code ≤ 7)
                             | 1 => !(8 ≤ act.code && act.code ≤ 10)
                             | _ => act.code != 1) then some a
    else if rows = 0 || rows > 96 || act.rows < rows then some a
    else none

/-- The members that x7 lists (R375). -/
def members (x7 : Word64) : List Nat := (List.range 6).map (fun i => bitsOf x7.toNat (9 * i + 8) (9 * i))

/-- Check 6 of R367. -/
def coopRefused (role nroles : Nat) (x7 : Word64) : Bool :=
  let ms := members x7
  x7.toNat ≥ 2 ^ 54 || (ms.filter (· == role)).length ≠ 1 || !decide ms.Nodup || ms.any (· ≥ nroles)

/-- The slots that an MCALL reads, activation slots and weight slots (R368). -/
def mcallSlots (m : MCall) : List Nat × List Nat :=
  let st := stepsOf m.image
  ((st.filterMap (actSel m.x0)).eraseDups,
   ((st.filterMap (wtSel m.x0)).flatMap (fun w => if m.sparse = 0 then [w] else [w, Nat.xor w 1])).eraseDups)

/-- Raises or lowers the use counts of the slots an MCALL reads. -/
def mcallUse (f : Nat → Nat) (m : MCall) (c : Core) : Core :=
  let (as, ws) := mcallSlots m
  let c := as.foldl (fun c a => c.setAct a { actOf c a with use := f (actOf c a).use }) c
  ws.foldl (fun c w => c.setWt w { wtOf c w with use := f (wtOf c w).use }) c

/-- SMAX of the launch record (R118). -/
def splitMax (s : State) (c : Core) : Nat :=
  match s.kernelOf c with | none => 0 | some k => fieldLE k.record 9 1

/-- The place that holds a tag. -/
def findTag (c : Core) (tag : Nat) : Option (List Byte) :=
  match c.store.find? (fun p => p.2.1 == tag) with
  | none => none
  | some p => some p.2.2

/-- The checks of R367 in their order, then the MCALL in flight. -/
def mcallEffect (tag sp clip sparse : Nat) (s : State) (c : Core) : Eff :=
  if sp > splitMax s c then operandTrap (0xE0 + sp)
  else
    match findTag c tag with
    | none => operandTrap 0x165
    | some im =>
      let kind := imgKind im
      if c.mcall.isSome then operandTrap 0x265
      else if (kind = 0 && sp > 6) || (kind = 1 && sp > 3) || (kind = 2 && sp > 0)
          || (sparse ≠ 0 && kind ≠ 0) then operandTrap 0x66
      else
        let m : MCall :=
          { tag := tag, image := im, s := sp, clip := clip, sparse := sparse, x0 := xRead c 0,
            x1 := xRead c 1, x7 := xRead c 7, head := c.head, issue := issueStamp s c,
            len := if sp > 0 then imgLenc im else imgLend im, k := 1, sys := c.mode != .task,
            reexec := none }
        let bad := (stepsOf im).zipIdx.findSome? (fun (st, t) =>
          (stepRefused c kind m.x0 m.x1 sparse st).map (fun sl => (t, sl)))
        match bad with
        | some (t, sl) => operandTrap (sl * 0x10000 + t * 0x100 + 0x64)
        | none =>
          match sparseFault c m with
          | some info => .trap codeSparseMeta info
          | none =>
            if imgCoop im && coopRefused c.role
                (match s.kernelOf c with | none => 0 | some k => declRoles k.decl) m.x7 then
              operandTrap 0x68
            else .ok { (mcallUse (· + 1) m c) with mcall := some m }

/-- The registers every MCALL reads (R365). -/
def mcallReads : List RegName := [.x 0, .x 1, .x 7]

def execMcall (o : MCallOps) (s : State) : Out :=
  runSlotReads o.hd mcallReads s (mcallEffect o.tag.toNat 0 0 0 s)

def execMcallSplit (o : MCallSplitOps) (s : State) : Out :=
  runSlotReads o.hd mcallReads s (mcallEffect o.tag.toNat o.s.toNat o.clip.toNat 0 s)

def execMcallSparse (o : MCallSparseOps) (s : State) : Out :=
  runSlotReads o.hd mcallReads s
    (mcallEffect o.tag.toNat o.s.toNat o.clip.toNat (sparseN o.n.toNat) s)

/-! ## Epilogue (R377 to R380) -/

/-- EPI.CFG records the configuration address at the end of its cycle (R377). -/
def execEpiCfg (o : RA) (s : State) : Out :=
  runSlotReads o.hd [.g o.a.toNat] s (fun c =>
    let ga := gAt c o.a
    if ga.toNat % 64 ≠ 0 || outOfBank ga 1088 then operandTrap 0x67
    else .ok (stage s c o.hd 1 (.sr 0x00F ga)))

/-- Bytes of a row of a pop under a code. -/
def popRowBytes (code cols : Nat) : Nat := bytesFor code cols

/-- Whether the header of a configuration, with the destination's code, breaks R377 or R378. -/
def popRefused (h : List Byte) (code : Nat) : Bool :=
  let b (i : Nat) : Nat := imageByte h i
  let stride := fieldLE h 8 4
  b 0 == 0 || b 0 > 96 || b 1 != 0 || b 2 == 0 || b 2 > 128 || b 3 != 0 || b 4 > 2 || b 6 == 0 || b 6 > 128
    || b 7 > 1 || stride % 64 != 0 || stride == 0 || stride > 0x10000 || !zeroBytes h 0x14 0x2C
    || (b 4 > 0 && b 5 + 2 * b 6 > 256)
    || code == 4 || code == 12 || codeReserved code
    || (isQ code && b 2 % qGroup code != 0)
    || popRowBytes code (b 2) > stride

/-- Beats of a pop: the rows', then the trailer's (R378). -/
def popBeats (h : List Byte) (code : Nat) : Nat :=
  imageByte h 0 * ceilDiv (popRowBytes code (imageByte h 2)) 64 + imageByte h 7 % 2

/-- The private address of beat j of a pop: the rows', then the trailer's (R378). -/
def popBeatAddr (h : List Byte) (code dst j : Nat) : Nat :=
  let per := ceilDiv (popRowBytes code (imageByte h 2)) 64
  let rows := imageByte h 0
  let stride := fieldLE h 8 4
  if j < rows * per then dst + j / per * stride + 64 * (j % per) else dst + rows * stride

/-- The bytes that a pop will write, beat by beat. -/
def popRanges (h : List Byte) (code dst : Nat) : List (Nat × Nat) :=
  (List.range (popBeats h code)).map (fun j => (popBeatAddr h code dst j, 64))

/-- A pop issues when none of the bytes that it will write lies in an armed barrier (R203); each beat is checked again
in its own cycle, with R163 and R54 (R378, log entry 100). -/
def popIssues (c : Core) (h : List Byte) (code dst : Nat) (k : Eff) : Eff :=
  match armedIn c (popRanges h code dst) with
  | some b => .trap codeTxbAccess (BitVec.ofNat 64 b)
  | none => k

def popEffect (o : RA) (s : State) (c : Core) : Eff :=
  let ga := gAt c o.a
  let cfg := c.epicfg.toNat
  if ga.toNat % 64 ≠ 0 || cfg = 0 || c.pop.isSome || (ringOf c c.tail).st != .queued then operandTrap 0x67
  else
    checkAccess c (BitVec.ofNat 64 cfg) 64 5 [cfg]
      (readChecked c o.hd [cfg]
        (let h := readBytes c.priv cfg 64
         let code := bankCode c (bankOf ga)
         if popRefused h code then operandTrap 0x67
         else popIssues c h code ga.toNat (.ok { (c.setRing c.tail { ringOf c c.tail with st := .popping }) with
           pop := some
             { cfg := cfg, dst := ga.toNat, header := h, params := [], mode := modeOf c, code := code,
               entry := c.tail, issue := issueStamp s c, k := 1, beats := popBeats h code,
               sys := c.mode != .task, failed := false, out := [], lossy := privLossy c (span cfg 64) } })))

def execEpiPop (o : RA) (s : State) : Out := runSlotReads o.hd [.g o.a.toNat] s (popEffect o s)

/-- The ring status word (R380). -/
def ringStatus (c : Core) : Word64 :=
  let t := ringOf c c.tail
  let held := t.st == .queued || t.st == .popping
  let n := ((List.range 8).filter (fun e => (ringOf c e).st == .queued || (ringOf c e).st == .popping)).length
  BitVec.ofNat 64 ((if held then t.e.toNat else 0) * 2 ^ 32 + (if c.pop.isSome then 0x40000 else 0)
    + (if c.mcall.isSome then 0x20000 else 0) + (if t.clipAny then 0x10000 else 0) + n * 0x100
    + c.tail % 8 * 0x10 + c.head % 8)

def execEpiSt (o : RD) (s : State) : Out :=
  runSlotReads o.hd [] s (fun c =>
    .ok (stage s (noteLossy c (!(ringOf c c.tail).lossy.isEmpty)) o.hd 1 (.g o.d.toNat (ringStatus c))))

/-! ## Calibration (R381) -/

/-- The physical column that an index of a macro reaches; none for an index out of range. -/
def columnOf (c : Core) (g : Nat) : Option Nat :=
  let mac := g / 0x100 % 8
  let col := g % 0x100
  if g ≥ 0x800 || col > 129 then none
  else if col ≥ 128 then some (mac * 130 + col)
  else some (mac * 130 + tget col c.colMap (mac * 128 + col))

def execCalRd (o : RR) (s : State) : Out :=
  runSlotReads o.hd [.g o.a.toNat] s (fun c =>
    match columnOf c (gAt c o.a).toNat with
    | none => operandTrap 0x69
    | some k => .ok (stage s c o.hd 2 (.g o.d.toNat ((tget 0 c.calib k).signExtend 64))))

/-- Whether an MCALL in flight reads a macro. -/
def macroBusy (c : Core) (mac : Nat) : Bool :=
  match c.mcall with | none => false | some m => (mcallSlots m).2.contains mac

def execCalWr (o : AB) (s : State) : Out :=
  runSlotReads o.hd [.g o.a.toNat, .g o.b.toNat] s (fun c =>
    let g := (gAt c o.a).toNat
    if c.mode = .task then .trap codePrivilege 0
    else
      match columnOf c g with
      | none => operandTrap 0x69
      | some k =>
        if macroBusy c (g / 0x100 % 8) then matrixTrap 9 (g / 0x100 % 8)
        else .ok { c with calib := tset c.calib k ((gAt c o.b).setWidth 16) })

end Sys2Proof.Machine
end

