-- ==== Sys2Proof/Machine/Engine.lean ====
section
/-!
DEFINITION. What proceeds beside the bundles of a core: results that land (R172), Keystone and transform
results, OLOAD, WLOAD, MPLOAD, MCALL and EPI.POP in flight (19_isa_matrix.md), cycle by cycle.
-/
namespace Sys2Proof.Machine

/-! ## Time -/

/-- The timetable cycle of the package cycle for a kernel's engines: sr.ttc, and during a drain the point
plus the cycles since (R154). -/
def Kernel.time (k : Kernel) : Nat := if k.st = .draining then k.point + k.drained else k.ttc

/-- Whether engine work and landings of task mode go on in this cycle: not in a hold (R131), and not in
a package cycle that replays a timetable cycle whose engine work is done. -/
def Kernel.flows (k : Kernel) : Bool :=
  (k.st == .running || k.st == .draining) && decide (k.ran ≤ k.time)

/-- Whether work of a mode goes on for a core in this cycle (R131, R132). -/
def flowsFor (s : State) (c : Core) (sys : Bool) : Bool :=
  match s.kernelOf c with
  | none => false
  | some k => if sys then k.st != .suspended else k.flows

/-- Whether a core is to re-execute its bundle of the timetable cycle in progress: a trap has suppressed it
(R265). -/
def reissues (c : Core) (k : Kernel) : Bool := c.mode == .handler && !c.done && decide (c.nextAt ≤ k.ttc)

/-- Whether a due cycle has come by the end of this package cycle. The results of the timetable cycle of a bundle
that is to be re-executed are kept back with it (R131, R172). -/
def Due.reached (s : State) (c : Core) (d : Due) : Bool :=
  match d with
  | .cyc n => decide (n ≤ s.cyc)
  | .ttc n =>
    match s.kernelOf c with
    | none => false
    | some k =>
      (k.st == .running || k.st == .draining) && decide (n ≤ k.time) && !(reissues c k && decide (k.ttc ≤ n))

/-! ## Results that land (R172, R173, R267) -/

/-- The words of the register files that a write covers whole, and whose errors it clears (R269); one
predicate is part of its word. -/
def RegWrite.covers (w : RegWrite) : List Nat :=
  match w with
  | .g r _ => (RegName.g r).ueUnits
  | .x r _ => (RegName.x r).ueUnits
  | .f r _ => (RegName.f r).ueUnits
  | .m r mask _ => if mask == allLanes then (RegName.m r).ueUnits else []
  | .v r mask _ =>
    ((RegName.v r).ueUnits.zipIdx.filter (fun p => mask.getLsbD (2 * p.2) && mask.getLsbD (2 * p.2 + 1))).map (·.1)
  | .p _ _ | .sr _ _ | .xres _ _ => []

/-- One landing: the write, its pending bit, the errors it covers, the divergence found in it. A lost write only
clears its pending bit (R269). -/
def landOne (ttc : Nat) (c : Core) (l : Landing) : Core :=
  let c := if l.lost then c else
    { (applyWrite c l.write) with ue := c.ue.filter (fun u => !(u.1 == 9 && l.write.covers.contains u.2)) }
  let c := { c with pend := if l.long then pendClear c.pend l.write.reg? else c.pend }
  match l.shadow with
  | none => c
  | some u => shadowFault ttc c u

/-- The order of R172. -/
def landBefore (a b : Landing) : Bool :=
  decide (a.rank < b.rank ∨ (a.rank = b.rank ∧ (a.issue < b.issue ∨ (a.issue = b.issue ∧ a.slot ≤ b.slot))))

/-- Places a landing behind those that land before it or with it. -/
def insertLanding (l : Landing) : List Landing → List Landing
  | [] => [l]
  | x :: xs => if landBefore x l then x :: insertLanding l xs else l :: x :: xs

/-- The landings in the order of R172; ties keep the order of issue. -/
def sortLandings (ls : List Landing) : List Landing := ls.foldl (fun acc l => insertLanding l acc) []

/-- Whether a landing is a Keystone return, a transform result, or any other. -/
def isXres (l : Landing) : Bool := match l.write with
  | .xres _ _ => true
  | .g _ _ | .p _ _ | .v _ _ _ | .m _ _ _ | .x _ _ | .f _ _ | .sr _ _ => false

def isMailbox (l : Landing) : Bool := match l.write with
  | .sr _ _ => true
  | .g _ _ | .p _ _ | .v _ _ _ | .m _ _ _ | .x _ _ | .f _ _ | .xres _ _ => false

/-- A return of the Keystone (R172, first group). -/
def isReturn (l : Landing) : Bool := l.rank == 0 && !isMailbox l

/-- Lands the due writes of a core that a test selects. -/
def landSome (s : State) (phys : Nat) (pick : Landing → Bool) : State :=
  let c := s.core phys
  let now := c.inflight.filter (fun l => pick l && l.due.reached s c)
  let later := c.inflight.filter (fun l => !(pick l && l.due.reached s c))
  let ttc := s.ttcOf c
  s.setCore phys ((sortLandings now).foldl (landOne ttc) { c with inflight := later })

/-- RESULT_LAND: mailbox writes, then the core's own results (R172). -/
def execResultLand (core : Nat) (s : State) : Out :=
  .next (landSome s core (fun l => !isReturn l && !isXres l))

/-- KEYSTONE_RETURN (R172, R410). -/
def execKeystoneReturn (core : Nat) (s : State) : Out := .next (landSome s core isReturn)

/-- TRANSFORM_RESULT: a transform unit's result register (R348). -/
def execTransformResult (core : Nat) (s : State) : Out := .next (landSome s core isXres)

/-! ## Errors of ECC units -/

/-- Removes the errors of units that a write covers (R269). -/
def clearUnits (c : Core) (level first count : Nat) : Core :=
  { c with ue := c.ue.filter (fun u => !(u.1 == level && first ≤ u.2 && u.2 < first + count)) }

/-- The first unit with an error in a range. -/
def firstUnit (c : Core) (level first count : Nat) : Option Nat :=
  ((List.range count).map (first + ·)).find? (fun u => c.ue.contains (level, u))

/-! ## OLOAD, WLOAD, MPLOAD -/

/-- The cycle of an OLOAD after its issue cycle (R359). -/
def oloadAdvance (s : State) (c : Core) : Core :=
  match c.oload with
  | none => c
  | some o =>
    if !flowsFor s c o.sys then c
    else
      let c := { c with oload := some { o with k := o.k + 1 } }
      if o.failed then c
      else
        match oloadBeats c (6 * o.k) 6 with
        | (c, none) => c
        | (c, some (code, info)) =>
          let c := match c.oload with
            | none => c
            | some o => { c with oload := some { o with failed := true } }
          raiseEng c ⟨code, info, 0, 5, true⟩

/-- Latency of an OLOAD (R359). -/
def oloadLatency (o : OLoad) : Nat := 4 + ceilDiv o.size 384

/-- OLOAD_COMPLETE: LOADED, or CLAIMED after a fault on a later beat, with the bytes of the beats performed
before it (R164, R359). -/
def execOloadComplete (core : Nat) (s : State) : Out :=
  let c := s.core core
  match c.oload with
  | none => .next s
  | some o =>
    if o.k < oloadLatency o then .next s
    else
      let x := actOf c o.slot
      let c := { c with oload := none }
      let c :=
        if o.failed then
          c.setAct o.slot { x with st := .claimed, bytes := o.data ++ x.bytes.drop o.data.length, lossy := o.lossy || x.lossy }
        else
          (clearUnits c 2 (256 * o.slot) (o.size / 64)).setAct o.slot
            { x with st := .loaded, code := o.code, rows := o.rows,
                     bytes := o.data ++ x.bytes.drop o.size
                     lossy := o.lossy || (x.lossy && decide (o.size < x.bytes.length)) }
      .next (s.setCore core c)

/-- The cycle of a WLOAD after its issue cycle (R361). -/
def wloadAdvance (s : State) (c : Core) : Core :=
  match c.wload, s.kernelOf c with
  | some w, some k =>
    if !flowsFor s c w.sys then c
    else
      let w2 := { w with k := w.k + 1 }
      match wloadCycle s k k.time { c with wload := some w2 } w2 w.k with
      | (c, none) => c
      | (c, some (code, info)) => raiseEng c ⟨code, info, 0, 5, true⟩
  | none, _ | some _, none => c

/-- WLOAD_COMPLETE (R361). -/
def execWloadComplete (core : Nat) (s : State) : Out :=
  let c := s.core core
  match c.wload with
  | none => .next s
  | some w =>
    if w.k < wloadLatency w.src then .next s
    else
      let x := wtOf c w.slot
      let c := { c with wload := none }
      let c := if w.ue then c else clearUnits c 3 (256 * w.slot) 256
      .next (s.setCore core (c.setWt w.slot { x with
        st := .loaded, bytes := w.data, int4 := w.int4, lossy := w.lossy || (x.lossy && w.ue) }))

/-- Writes a routine into its place; a place with the same tag is emptied (R362). -/
def storeRoutine (c : Core) (m : MpLoad) : Core :=
  { c with store := tset (c.store.filter (fun p => p.2.1 != m.tag)) m.place (m.tag, m.image) }

/-- MPLOAD_WRITE: the routines due at the end of this cycle (R362). -/
def execMploadWrite (core : Nat) (s : State) : Out :=
  let c := s.core core
  let now := c.mploads.filter (fun m => m.due.reached s c)
  let later := c.mploads.filter (fun m => !m.due.reached s c)
  .next (s.setCore core (now.foldl storeRoutine { c with mploads := later }))

/-! ## MCALL (R368 to R375) -/

/-- The physical cores of the set an MCALL belongs to: its own core, or the six of x7 (R375). -/
def mcallSet (s : State) (core : Nat) (m : MCall) : List Nat :=
  if imgCoop m.image then
    match s.kernelOf (s.core core) with
    | none => [core]
    | some k => (members m.x7).map (fun r => k.bind.getD r 0)
  else [core]

/-- Whether another member issued the same MCALL (R375). -/
def sameCall (m : MCall) (c : Core) : Bool :=
  match c.mcall with
  | none => false
  | some n => n.tag == m.tag && n.s == m.s && n.clip == m.clip && n.x7 == m.x7 && n.issue == m.issue
      && n.len == m.len && imgCoop n.image

/-- Ends an MCALL without a commit: use counts fall. -/
def dropCall (c : Core) (m : MCall) : Core := { (mcallUse (· - 1) m c) with mcall := none }

/-- Whether a commit would meet a QUEUED or POPPING entry (R373). -/
def ringSlip (c : Core) (m : MCall) : Bool :=
  let held (e : Nat) : Bool := (ringOf c e).st == .queued || (ringOf c e).st == .popping
  (mcallSteps c m).any (fun x => held x.entry) || (List.range (imgPush m.image)).any (fun i => held (c.head + i))

/-- The first error in a slot or ring entry that an MCALL reads: storage level and unit. Every entry that a step names is
copied whole, a NEW step's too (R368). -/
def mcallUe (c : Core) (m : MCall) : Option (Nat × Nat) :=
  let (as, ws) := mcallSlots m
  let inActs := as.findSome? (fun a => (firstUnit c 2 (256 * a) 256).map (fun u => (2, u)))
  let inWts := ws.findSome? (fun w => (firstUnit c 3 (256 * w) 256).map (fun u => (3, u)))
  let inRing := (mcallSteps c m).findSome? (fun x => (firstUnit c 4 (768 * x.entry) 768).map (fun u => (4, u)))
  match inActs, inWts, inRing with
  | some x, _, _ => some x
  | none, some x, _ => some x
  | none, none, x => x

/-- What a core finds in the commit cycle that stops its commit: an error, a slip, or both. -/
def commitFault (ttc : Nat) (c : Core) (m : MCall) : Option Core :=
  match mcallUe c m, ringSlip c m with
  | none, false => none
  | ue, slip =>
    let c := dropCall c m
    let c := match ue with
      | none => c
      | some (lv, u) => consumeUe c lv (ueInfo lv (64 * u)) 5 true
    some (if slip then raiseEng c ⟨codeSlip, slipInfo ttc 2, 0, 5, true⟩ else c)

/-- Applies a change to a set of cores. -/
def updCores (s : State) (set : List Nat) (f : Core → Core) : State := set.foldl (fun s p => s.updCore p f) s

/-- The last rounding of the matrix unit in row 0 of an entry at a column, as the unit rounds it and rounded toward zero:
the addition of the last segment of the last step that names the entry (R266, R368). -/
def shadowedSegment (free : Nat) (redo : Bool) (c : Core) (m : MCall) (entry n : Nat) : Word32 :=
  let cl := mcallClips c m
  let steps := (mcallSteps c m).filter (fun x => x.entry == entry)
  let before := steps.dropLast.foldl (fun w x => stepEntry free m.s cl redo x w) (ringOf c entry)
  match steps.getLast? with
  | none => tget 0 before.vals n
  | some x => accumulate 1 free m.s x (fun q => redo && clipped cl x.t q) 0 n
      (if x.st.fresh then 0x80000000 else tget 0 before.vals n)

/-- The working copies that a core's MCALL is to commit, and the divergence that its shadow unit finds: a fault of the
unit strikes row 0 of the first entry, in its lane (R266). -/
def callCopies (free : Nat) (redo : Bool) (c : Core) : Table RingEntry × Option Word64 :=
  match c.mcall with
  | none => ([], none)
  | some m =>
    let wk := mcallCopies free c m (mcallClips c m) redo
    match struck c 3, wk with
    | some x, (e, w) :: rest =>
      let r := shadowed fmtF32 (some x) (tget 0 w.vals x.lane).toNat (shadowedSegment free redo c m e x.lane).toNat
      ((e, { w with vals := tset w.vals x.lane (BitVec.ofNat 32 r.1) }) :: rest, r.2)
    | _, _ => (wk, none)

/-- Whether the shadow unit of a core finds a divergence in what its MCALL is to commit. -/
def callDiverges (free : Nat) (redo : Bool) (c : Core) : Bool := (callCopies free redo c).2.isSome

/-- An MCALL whose set does not commit: the core whose shadow unit has found a divergence raises SHADOW (R370). -/
def divergeCall (free : Nat) (redo : Bool) (ttc : Nat) (c : Core) : Core :=
  match c.mcall with
  | none => c
  | some m =>
    match (callCopies free redo c).2 with
    | none => dropCall c m
    | some u => shadowFault ttc (spent (dropCall c m) 3) u

/-- The MCALL of a core, ended by a core that raises CLIP: sr.mclip0 and sr.mclip1 are written (R371). -/
def clipTrap (c : Core) (m : MCall) : Core :=
  let cl := mcallClips c m
  raiseEng { (dropCall c m) with mclip0 := clipMask cl 0, mclip1 := clipMask cl 1, lossyClip := decide (0 < m.s) }
    ⟨codeClip, clipInfo cl, 0, 5, true⟩

/-- The cores of a set whose commit an error or a slip stops. -/
def stoppedCores (s : State) (set : List Nat) (ttc : Nat) : List Nat :=
  set.filter (fun p => match (s.core p).mcall with
    | none => false
    | some n => (commitFault ttc (s.core p) n).isSome)

/-- A set of which some core cannot commit: none of it does (R375). -/
def stopSet (s : State) (set : List Nat) (ttc : Nat) : State :=
  updCores s set (fun c => match c.mcall with
    | none => c
    | some n => (commitFault ttc c n).getD (dropCall c n))

/-- The commit cycle of an MCALL, before the bundle of the cycle: what keeps the set from committing
(R370 to R375). A divergence comes before CLIP (R265). -/
def mcallDecide (s : State) (core : Nat) (m : MCall) : State :=
  let set := mcallSet s core m
  let c := s.core core
  let ttc := match s.kernelOf c with | none => 0 | some k => k.time
  if !set.all (fun p => sameCall m (s.core p) || p == core) then
    s.setCore core (raiseEng (dropCall c m) ⟨codeIllegalOperand, 0x68, 0, 5, true⟩)
  else
    if !(stoppedCores s set ttc).isEmpty then stopSet s set ttc
    else if m.clip = 1 && m.reexec.isNone
        && set.any (fun p => match (s.core p).mcall with
          | none => false
          | some n => !(mcallClips (s.core p) n).isEmpty) then
      if set.any (fun p => callDiverges s.free false (s.core p)) then
        { (updCores s set (divergeCall s.free false ttc)) with free := s.free + 1 }
      else updCores s set (fun c => match c.mcall with | none => c | some n => clipTrap c n)
    else s

/-- The cycle of an MCALL after its issue cycle, its re-execution included (R368, R372). -/
def mcallAdvance (s : State) (core : Nat) : State :=
  let c := s.core core
  match c.mcall with
  | none => s
  | some m =>
    match m.reexec with
    | some n =>
      let m2 := { m with reexec := some (n - 1) }
      let s2 := s.setCore core { c with mcall := some m2 }
      if n = 1 then
        let set := mcallSet s core m
        if (stoppedCores s2 set (s.ttcOf c)).isEmpty then s2 else stopSet s2 set (s.ttcOf c)
      else s2
    | none =>
      if !flowsFor s c m.sys then s
      else
        let m2 := { m with k := m.k + 1 }
        let s2 := s.setCore core { c with mcall := some m2 }
        if m2.k = m2.len then mcallDecide s2 core m2 else s2

/-- Pushes n entries from HEAD (R374). -/
def pushEntries (c : Core) : Nat → Core
  | 0 => c
  | n + 1 =>
    let c := c.setRing c.head { ringOf c c.head with st := .queued }
    pushEntries { c with head := (c.head + 1) % 8 } n

/-- The commit of one core (R374). -/
def commitCall (free : Nat) (redo : Bool) (c : Core) : Core :=
  match c.mcall with
  | none => c
  | some m =>
    let cl := mcallClips c m
    let c2 := (callCopies free redo c).1.foldl
      (fun c p => (clearUnits c 4 (768 * p.1) 768).setRing p.1 { p.2 with st := .opened }) (spent c 3)
    let c3 := pushEntries c2 (imgPush m.image)
    { (mcallUse (· - 1) m c3) with
      mcall := none, mclip0 := clipMask cl 0, mclip1 := clipMask cl 1, lossyClip := decide (0 < m.s) }

/-- A set commits together (R375), or, where a shadow unit finds a divergence, nothing of it (R370). -/
def commitSet (s : State) (set : List Nat) (redo : Bool) (ttc : Nat) : State :=
  let one := if set.any (fun p => callDiverges s.free redo (s.core p)) then divergeCall s.free redo ttc
    else commitCall s.free redo
  { (updCores s set one) with free := s.free + 1 }

/-- MCALL_COMMIT: at the end of the commit cycle the set commits together, or a re-execution begins
(R372, R374, R375). -/
def execMcallCommit (core : Nat) (s : State) : Out :=
  let c := s.core core
  match c.mcall with
  | none => .next s
  | some m =>
    if m.k < m.len || m.reexec.isSome then .next s
    else
      let set := mcallSet s core m
      let clips := set.map (fun p => match (s.core p).mcall with
        | none => []
        | some n => mcallClips (s.core p) n)
      if m.clip = 2 && clips.any (fun cl => !cl.isEmpty) then
        let n := set.foldl (fun acc p => match (s.core p).mcall with
          | none => acc
          | some n => let cl := mcallClips (s.core p) n
            if cl.isEmpty then acc else max acc (reexecCycles (s.core p) n cl)) 0
        .next (updCores s set (fun c => match c.mcall with
          | none => c
          | some k => { c with mcall := some { k with reexec := some n } }))
      else
        .next (commitSet s set false (s.ttcOf c))

/-- CLIP_REEXECUTE_DONE: the re-executed set commits (R372, R375). -/
def execClipReexecuteDone (core : Nat) (s : State) : Out :=
  match (s.core core).mcall with
  | none => .next s
  | some m =>
    if m.reexec = some 0 then
      .next (commitSet s (mcallSet s core m) true (s.ttcOf (s.core core)))
    else .next s

/-! ## EPI.POP (R378, R379) -/

/-- The scaled and biased value of element n of row r of a pop, rounded in a mode. -/
def popScaled (c : Core) (o : Pop) (mode r n : Nat) : Word32 :=
  let par (i : Nat) : Num := f32Val (BitVec.ofNat 32 (fieldLE o.params (4 * i) 4))
  let a := f32Val (tget 0 (ringOf c o.entry).vals (128 * r + n))
  f32Round mode ((a.mul (par n)).add (roundsDown mode) (par (128 + n)))

/-- The mode in which a pop rounds before it encodes. -/
def Pop.round (o : Pop) : Nat := if o.mode = 4 then 0 else o.mode

/-- Element n of row r of a pop before encoding; `last` is the mode of its last rounding. -/
def popValue (c : Core) (o : Pop) (last r n : Nat) : Word32 :=
  let act := imageByte o.header 4
  if act = 0 then popScaled c o last r n
  else
    tieLane c (if last = o.round then 0 else last) (act - 1) (BitVec.ofNat 32 (fieldLE o.header 0x0C 4))
      (BitVec.ofNat 32 (fieldLE o.header 0x10 4)) (imageByte o.header 5) (imageByte o.header 6)
      (popScaled c o o.round r n)

/-- Element (0, lane) of a pop under a fault of the epilogue, and the divergence found (R266). -/
def popStruck (c : Core) (o : Pop) : Option (Nat × Nat × Option Word64) :=
  (struck c 2).map (fun x =>
    (x.lane, shadowed fmtF32 (some x) (popValue c o o.round 0 x.lane).toNat (popValue c o 1 0 x.lane).toNat))

/-- Element n of row r of a pop before encoding, as the datapath gives it. -/
def popElem (c : Core) (o : Pop) (r n : Nat) : Word32 :=
  match popStruck c o with
  | none => popValue c o o.round r n
  | some (ln, bits, _) => if r = 0 ∧ n = ln then BitVec.ofNat 32 bits else popValue c o o.round r n

/-- Encodes one element of a pop outside the Q codes (R379). -/
def popEncodeElem (code mode : Nat) (y : Word32) (e : Num) : Nat × Num :=
  if code = codeI32 then
    let r := roundToIntEF fmtI32 mode (f32Val y) e
    ((BitVec.ofInt 32 r.1).toNat, r.2)
  else if code = codeI8 then
    let r := roundToIntEF fmtI8 mode (f32Val y) e
    ((BitVec.ofInt 8 r.1).toNat, r.2)
  else encodeElem code mode y e

/-- A row outside the Q codes; feedback groups are 64 elements. -/
def popEncodeRow (code mode : Nat) : List Word32 → Nat → Num → List Byte
  | [], _, _ => []
  | y :: ys, i, e =>
    let r := popEncodeElem code mode y (if i % 64 = 0 then .zero else e)
    natLE (elemBytes code) r.1 ++ popEncodeRow code mode ys (i + 1) r.2

/-- Cuts a list into pieces of n. -/
def pieces {α : Type} (n : Nat) : Nat → List α → List (List α)
  | 0, _ => []
  | k + 1, xs => if xs.isEmpty then [] else xs.take n :: pieces n k (xs.drop n)

/-- The bytes of row r (R379). -/
def popRow (c : Core) (o : Pop) (r : Nat) : List Byte :=
  let cols := imageByte o.header 2
  let ys := (List.range cols).map (popElem c o r)
  if isQ o.code then (pieces (qGroup o.code) 4 ys).flatMap (qEncode o.code o.mode)
  else popEncodeRow o.code o.mode ys 0 .zero

/-- The beats of a pop in order: each row padded with zeros to whole beats, then the trailer (R378). -/
def popOut (c : Core) (o : Pop) : List (List Byte) :=
  let rows := imageByte o.header 0
  let per := ceilDiv (popRowBytes o.code (imageByte o.header 2)) 64
  let x := ringOf c o.entry
  let pad (bs : List Byte) : List Byte := bs ++ List.replicate (64 - bs.length) 0
  (List.range rows).flatMap (fun r => (pieces 64 per (popRow c o r)).map pad)
    ++ (if imageByte o.header 7 % 2 = 1 then
          [pad (natLE 4 x.e.toNat ++ [if x.clipAny then 1 else 0])] else [])

/-- Whether R89 marks what a pop reads of its entry: one of its rows, or with the trailer CLIPANY (R35). -/
def popLossy (c : Core) (o : Pop) : Bool :=
  (ringOf c o.entry).lossy.any (fun r => decide (r < imageByte o.header 0) || imageByte o.header 7 % 2 == 1)

/-- The private address of beat j. -/
def popAddr (o : Pop) (j : Nat) : Nat := popBeatAddr o.header o.code o.dst j

/-- An error in the ring sectors or the constants that beat j reads: storage level and information word. -/
def popUe (c : Core) (o : Pop) (j : Nat) : Option (Nat × Word64) :=
  let cols := imageByte o.header 2
  let per := ceilDiv (popRowBytes o.code cols) 64
  if j ≥ imageByte o.header 0 * per then none
  else
    let b := j % per
    let lo := if isQ o.code then 64 * b / qRecord o.code * qGroup o.code else 64 * b / elemBytes o.code
    let hi := if isQ o.code then ((64 * b + 63) / qRecord o.code + 1) * qGroup o.code
              else (64 * b + 63) / elemBytes o.code + 1
    let lo := min lo (cols - 1)
    let hi := min hi cols
    let consts (n : Nat) : List RegName :=
      if imageByte o.header 4 = 0 then []
      else tieReads (BitVec.ofNat 32 (fieldLE o.header 0x0C 4)) (BitVec.ofNat 32 (fieldLE o.header 0x10 4))
        (imageByte o.header 5) (imageByte o.header 6) (popScaled c o o.round (j / per) (lo + n))
    match firstUnit c 4 (768 * (o.entry % 8) + (128 * (j / per) + lo) / 16) ((hi - 1) / 16 - lo / 16 + 1) with
    | some u => some (4, ueInfo 4 (64 * u))
    | none => (firstUe c ((List.range (hi - lo)).flatMap consts)).map (fun n => (9, n.ueWord))

/-- The trap of a beat of a pop under a code: R163, then R54, then R203 (log entry 100). -/
def popTrap (c : Core) (code a : Nat) : Option (Nat × Word64) :=
  match beatTrap c a 64 5, strayBank code a 64 with
  | some t, _ => some t
  | none, some b => some (codeIllegalOperand, BitVec.ofNat 64 (0xF0 + b % 16))
  | none, none => (armedHit c (span a 64)).map (fun b => (codeTxbAccess, BitVec.ofNat 64 b))

/-- The beat of a pop that writes the first byte of element (0, n). -/
def popBeatOf (o : Pop) (n : Nat) : Nat :=
  (if isQ o.code then n / qGroup o.code * qRecord o.code + n % qGroup o.code * qBits o.code / 8 else n * elemBytes o.code) / 64

/-- The cycle of a pop after its issue cycle: parameter beats at 1 to 16, destination beats from 20 on
(R378). A divergence is raised with the beat that writes its lane (R267). -/
def popAdvance (s : State) (c : Core) : Core :=
  match c.pop with
  | none => c
  | some o =>
    if !flowsFor s c o.sys then c
    else
      let i := o.k
      let o := { o with k := i + 1 }
      let fail (c : Core) (t : Nat × Word64) : Core :=
        raiseEng { c with pop := some { o with failed := true } } ⟨t.1, t.2, 0, 5, true⟩
      if o.failed then { c with pop := some o }
      else if 1 ≤ i ∧ i ≤ 16 then
        let a := o.cfg + 64 * i
        match beatTrap c a 64 5 with
        | some t => fail c t
        | none =>
          let o := { o with params := o.params ++ readBytes c.priv a 64, lossy := o.lossy || privLossy c (span a 64) }
          if c.ue.contains (1, a / 64) then
            { (consumeUe c 1 (ueInfo 1 a) 5 true) with pop := some o }
          else { c with pop := some o }
      else if 20 ≤ i ∧ i < 20 + o.beats then
        let o := if i = 20 then
            { o with
              out := popOut c o, found := (popStruck c o).bind (fun x => x.2.2.map (fun u => (popBeatOf o x.1, u)))
              lossy := o.lossy || popLossy c o }
          else o
        let c := if i = 20 then spent c 2 else c
        let j := i - 20
        let a := popAddr o j
        match popTrap c o.code a with
        | some t => fail c t
        | none =>
          let c := { c with pop := some o }
          match popUe c o j with
          | some (level, info) => consumeUe c level info 5 true
          | none =>
            let c := engWrite c o.lossy (cellsFrom a (o.out.getD j []))
            match o.found with
            | some (b, u) => if b = j then shadowFault (s.ttcOf c) c u else c
            | none => c
      else { c with pop := some o }

/-- EPI_POP_COMPLETE: the entry becomes FREE and TAIL moves on (R373, R378). -/
def execEpiPopComplete (core : Nat) (s : State) : Out :=
  let c := s.core core
  match c.pop with
  | none => .next s
  | some o =>
    if o.k < 20 + o.beats then .next s
    else
      .next (s.setCore core
        { (c.setRing o.entry { ringOf c o.entry with st := .free }) with
          tail := (c.tail + 1) % 8, pop := none })

/-! ## A cycle of the array -/

/-- The beats of OLOAD, WLOAD, MCALL and EPI.POP of one core in one cycle. -/
def arrayBeats (core : Nat) (s : State) : State :=
  let s := s.updCore core (fun c => popAdvance s (wloadAdvance s (oloadAdvance s c)))
  mcallAdvance s core

end Sys2Proof.Machine
end

