-- ==== Sys2Proof/Machine/Keystone.lean ====
section
/-!
DEFINITION. The Keystones' side (R186, R189, R221, R222, R231 to R233, R412 to R416): operations perform in
their package cycle, in the order of R186, and their returns are scheduled.
-/
namespace Sys2Proof.Machine

/-! ## Words of resident sync pages -/

def kRead (s : State) (a n : Nat) : Nat := readLE s.mem.kmem a n

def kWrite (s : State) (a n x : Nat) : State :=
  { s with mem := { s.mem with kmem := writeBytes s.mem.kmem a (natLE n x) } }

/-- An access of a pier to a resident page is counted (R222). -/
def countAccess (s : State) (a phys : Nat) : State :=
  let p := tget {} s.ks.pages (a / 0x10000)
  let n := min (tget 0 p.counts (pierOf phys) + 1) 0xFFFFFFFF
  { s with ks := { s.ks with
      pages := tset s.ks.pages (a / 0x10000) { p with counts := tset p.counts (pierOf phys) n } } }

/-! ## Atomics (R412) -/

/-- The extension rule of results: I32 is sign-extended. -/
def extendResult (ty : Nat) (x : Nat) : Word64 :=
  if ty = 0 then (BitVec.ofNat 32 x).signExtend 64 else BitVec.ofNat 64 x

/-- The order of a type: signed, unsigned, or that of R52. -/
def typedMin (ty old b : Nat) : Nat :=
  match ty with
  | 0 => if signedOf 32 old ≤ signedOf 32 b then old else b
  | 2 => (f32Min (BitVec.ofNat 32 old) (BitVec.ofNat 32 b)).toNat
  | 3 => if signedOf 64 old ≤ signedOf 64 b then old else b
  | _ => min old b

def typedMax (ty old b : Nat) : Nat :=
  match ty with
  | 0 => if signedOf 32 b ≤ signedOf 32 old then old else b
  | 2 => (f32Max (BitVec.ofNat 32 old) (BitVec.ofNat 32 b)).toNat
  | 3 => if signedOf 64 b ≤ signedOf 64 old then old else b
  | _ => max old b

/-- The new word of an atomic, and t of AFADDB. -/
def atomicNew (op ty old b c : Nat) : Nat × Bool :=
  let m := 2 ^ (8 * typeWidth ty)
  match op with
  | 0 => (if ty = 2 then (f32Add 0 (BitVec.ofNat 32 old) (BitVec.ofNat 32 b)).toNat else (old + b) % m, false)
  | 1 => (if old ≥ b then 0 else old + 1, false)
  | 2 => if old + b ≤ c then (old + b, true) else (old, false)
  | 3 => (if old = b then c else old, false)
  | 4 => (b, false)
  | 5 => (typedMin ty old b, false)
  | 6 => (typedMax ty old b, false)
  | 7 => (Nat.land old b, false)
  | 8 => (Nat.lor old b, false)
  | _ => (Nat.xor old b, false)

/-- Schedules the returns of an operation (R172: before the core's own results). -/
def scheduleReturn (s : State) (o : KOp) (result : Word64) (t : Option Bool) (shadow : Option Word64) :
    State :=
  let l (w : RegWrite) : Landing :=
    { write := w, due := o.due, rank := 0, issue := o.issue, slot := 6, long := true, shadow := shadow }
  let pair := match t with
    | none => []
    | some b => [l (.p (2 * o.pair) b), l (.p (2 * o.pair + 1) (!b))]
  s.updCore o.phys (fun c => { c with inflight := c.inflight ++ [l (.g o.d result)] ++ pair })

/-- The sum of a floating-point add at a Keystone, given by rounding mode, under a fault of its adder: the bits
written, and the divergence found, an event of the Keystone (R266, R267). -/
def keystoneSum (s : State) (o : KOp) (sum : Nat → Word32) : State × Word32 × Option Word64 :=
  let r := shadowed fmtF32 (struck (s.core o.phys) 4) (sum 0).toNat (sum 1).toNat
  (s.updCore o.phys (fun c =>
      let c := spent c 4
      if r.2.isSome then { c with found := c.found ++ [eventUnit 8 o.addr] } else c), BitVec.ofNat 32 r.1, r.2)

/-! ## Staged reductions (R189, R415, R416) -/

/-- Leaves an operation without effect; its trap, if any, comes when its return was due. -/
def failOp (s : State) (o : KOp) (sub : Option Nat) : State :=
  { s with ks := { s.ks with ops := s.ks.ops ++ [{ o with kind := .failed sub }] } }

/-- The home of a page. -/
def homeOf (s : State) (a : Nat) : Nat := (tget {} s.ks.pages (a / 0x10000)).home

/-- The value staged: BF16 is widened (R415). -/
def stagedValue (ty : Nat) (b : Word64) : Word32 :=
  if ty = 5 then BitVec.ofNat 32 (b.toNat % 0x10000 * 0x10000) else b.setWidth 32

/-- One slot takes a value. -/
def stageSlot (float : Bool) (mode : Nat) (old : Option Word32) (v : Word32) : Word32 :=
  match old with
  | none => v
  | some x => if float then f32Add mode x v else x + v

/-- RED.ADD at its perform cycle. -/
def performRedAdd (s : State) (o : KOp) (ty : Nat) (b : Word64) : State :=
  let float := ty == 2 || ty == 5
  let home := homeOf s o.addr
  match s.ks.lines.find? (fun l => l.kid == o.kid && l.word == o.addr) with
  | some l =>
    if l.float != float then failOp s o (some 6)
    else
      let v (mode : Nat) : Word32 := stageSlot float mode (tfind l.slots o.role) (stagedValue ty b)
      let (s, v, shadow) := if float && (tfind l.slots o.role).isSome then keystoneSum s o v else (s, v 0, none)
      let s := { s with ks := { s.ks with lines := s.ks.lines.map (fun x =>
        if x.kid = o.kid ∧ x.word = o.addr then { x with slots := tset x.slots o.role v } else x) } }
      match shadow with
      | none => s
      | some u => s.updCore o.phys (fun c => { c with inflight := c.inflight ++
          [{ write := .g 0 0, due := o.due, rank := 0, issue := o.issue, slot := 6, long := false,
             shadow := some u }] })
  | none =>
    if (s.ks.lines.filter (fun l => l.kid == o.kid && l.pier == home)).length ≥ 64 then
      failOp s o (some 5)
    else
      { s with ks := { s.ks with lines := s.ks.lines ++
          [{ kid := o.kid, pier := home, word := o.addr, float := float,
             slots := [(o.role, stagedValue ty b)] }] } }

/-- RED.COMB at its perform cycle: the fold of R189, every slot emptied. -/
def performRedComb (s : State) (o : KOp) (ty : Nat) : State :=
  let float := ty == 2
  let line := s.ks.lines.find? (fun l => l.kid == o.kid && l.word == o.addr)
  if (match line with | none => false | some l => l.float != float) then failOp s o (some 6)
  else
    let slots := match line with | none => [] | some l => l.slots
    let v0 : Word32 := BitVec.ofNat 32 (kRead s o.addr 4)
    let add (mode : Nat) (v x : Word32) : Word32 := if float then f32Add mode v x else v + x
    let v := slots.dropLast.foldl (fun v p => add 0 v p.2) v0
    let (s, v, shadow) := match slots.getLast? with
      | none => (s, v, none)
      | some p => if float then keystoneSum s o (fun mode => add mode v p.2) else (s, add 0 v p.2, none)
    let s := kWrite s o.addr 4 v.toNat
    let s := { s with ks := { s.ks with
      lines := s.ks.lines.filter (fun l => !(l.kid == o.kid && l.word == o.addr)) } }
    scheduleReturn s o (extendResult ty v.toNat) none shadow

/-! ## Block tables (R228 to R233) -/

/-- The table entry of a name; none when the name is out of range. -/
def nameIndex (p : Pool) (n : Word64) : Option Nat :=
  let x := n.toNat
  let l := bitsOf x 31 16
  let q := bitsOf x 47 32
  let b := bitsOf x 15 0
  if bitsOf x 63 48 ≠ 0 || q ≥ p.nseq || l ≥ p.nlayer || b ≥ p.nbps then none
  else some ((q * p.nlayer + l) * p.nbps + b)

def tableAt (base i : Nat) : Nat := base + 0x8000 + 4 * i
def metaAt (base k : Nat) : Nat := base + 0x4000 + 4 * k

/-- T(n): a block or 0xFFFF. -/
def blockOf (s : State) (base i : Nat) : Nat := kRead s (tableAt base i) 4 % 0x10000

def refOf (s : State) (base k : Nat) : Nat := kRead s (metaAt base k + 2) 2
def nextOf (s : State) (base k : Nat) : Nat := kRead s (metaAt base k) 2

/-- A block handle (R232). -/
def blockHandle (pool k : Nat) (freed : Bool) : Word64 :=
  BitVec.ofNat 64 (2 ^ 63 + (if freed then 2 ^ 62 else 0) + pool * 2 ^ 27 + k * 2 ^ 15)

/-- Sets a block word. -/
def setBlock (s : State) (base k ref next : Nat) : State := kWrite s (metaAt base k) 4 (ref * 0x10000 + next)

/-- Changes FREECNT and FREEHD. -/
def setFree (s : State) (base cnt hd : Nat) : State := kWrite s (base + 0x14) 4 (hd * 0x10000 + cnt % 0x10000)

def freeCount (s : State) (base : Nat) : Nat := kRead s (base + 0x14) 2
def freeHead (s : State) (base : Nat) : Nat := kRead s (base + 0x16) 2

/-- BLK.ALLOC. -/
def blkAlloc (s : State) (base pool : Nat) (p : Pool) (n : Word64) : State × Word64 :=
  match nameIndex p n with
  | none => (s, 1)
  | some i =>
    if blockOf s base i ≠ 0xFFFF then (s, 2)
    else
      let k := freeHead s base
      if k = 0xFFFF then (s, 4)
      else if k ≥ p.nblk || refOf s base k != 0
          || (nextOf s base k ≥ p.nblk && nextOf s base k != 0xFFFF) then (s, 7)
      else
        let s1 := setFree s base (freeCount s base + 0xFFFF) (nextOf s base k)
        (kWrite (setBlock s1 base k 1 0xFFFF) (tableAt base i) 4 k, blockHandle pool k false)

/-- BLK.XLAT. -/
def blkXlat (s : State) (base pool : Nat) (p : Pool) (n : Word64) : State × Word64 :=
  match nameIndex p n with
  | none => (s, 1)
  | some i =>
    if blockOf s base i = 0xFFFF then (s, 3) else (s, blockHandle pool (blockOf s base i) false)

/-- BLK.SHARE. -/
def blkShare (s : State) (base pool : Nat) (p : Pool) (n m : Word64) : State × Word64 :=
  match nameIndex p n, nameIndex p m with
  | none, _ | _, none => (s, 1)
  | some i, some j =>
    let k := blockOf s base i
    if k = 0xFFFF then (s, 3)
    else if blockOf s base j ≠ 0xFFFF || i = j then (s, 2)
    else if refOf s base k = 65535 then (s, 5)
    else
      (kWrite (setBlock s base k (refOf s base k + 1) (nextOf s base k)) (tableAt base j) 4 k,
       blockHandle pool k false)

/-- BLK.FREE. -/
def blkFree (s : State) (base pool : Nat) (p : Pool) (n : Word64) : State × Word64 :=
  match nameIndex p n with
  | none => (s, 1)
  | some i =>
    let k := blockOf s base i
    if k = 0xFFFF then (s, 3)
    else
      let s1 := kWrite s (tableAt base i) 4 0xFFFF
      let ref := (refOf s base k + 0xFFFF) % 0x10000
      if ref ≠ 0 then (setBlock s1 base k ref (nextOf s base k), blockHandle pool k false)
      else
        (setFree (setBlock s1 base k 0 (freeHead s base)) base (freeCount s base + 1) k,
         blockHandle pool k true)

/-- The pool that a BLK operation names. -/
def blkPool (s : State) (o : KOp) (pool : Nat) : Option Pool :=
  match s.kernel? o.kid with
  | none => none
  | some k => k.pools[pool]?

/-- The words that a BLK operation reads beside the pool's header, in the order of its checks (R233). -/
def blkReads (s : State) (base : Nat) (p : Pool) (op : Nat) (n m : Word64) : List Nat :=
  match nameIndex p n with
  | none => []
  | some i =>
    let t := tableAt base i
    let k := blockOf s base i
    let word (k : Nat) : List Nat := if k < p.nblk then [metaAt base k] else []
    match op with
    | 0 => t :: (if k = 0xFFFF then word (freeHead s base) else [])
    | 1 => [t]
    | 2 =>
      match nameIndex p m with
      | none => []
      | some j =>
        if k = 0xFFFF then [t]
        else if blockOf s base j ≠ 0xFFFF || i = j then [t, tableAt base j]
        else t :: tableAt base j :: word k
    | _ => t :: (if k = 0xFFFF then [] else word k)

/-- The addresses that an operation reads, in order. -/
def KOp.reads (s : State) (o : KOp) : List Nat :=
  match o.kind with
  | .blk op pool n m =>
    let base := o.addr / 0x10000 * 0x10000
    base :: (match blkPool s o pool with | none => [] | some p => blkReads s base p op n m)
  | .atomic .. | .redAdd .. | .redComb _ | .failed _ => [o.addr]

/-- A BLK operation at its perform cycle; a page that is no pool answers NOT_POOL. -/
def performBlk (s : State) (o : KOp) (op pool : Nat) (n m : Word64) : State :=
  let base := o.addr / 0x10000 * 0x10000
  let (s, result) := match blkPool s o pool with
    | none => (s, 6)
    | some p =>
      match op with
      | 0 => blkAlloc s base pool p n
      | 1 => blkXlat s base pool p n
      | 2 => blkShare s base pool p n m
      | _ => blkFree s base pool p n
  scheduleReturn s o result none none

/-! ## Performing (R186) -/

/-- What R89 marks goes from the core to the sector that its operation acts on, and back with its return. -/
def shareLossy (s : State) (o : KOp) : State :=
  let on := (s.core o.phys).lossy || lossyIn s.mem 0 o.addr 1
  if on then
    let s := s.updCore o.phys (fun c => { c with lossy := true })
    { s with mem := setLossy s.mem 0 [o.addr / 64] true }
  else s

/-- One operation performs. The first error in what it reads is consumed and it has no effect (R269). -/
def performOp (s : State) (o : KOp) : State :=
  match o.kind with
  | .failed _ => s
  | .atomic .. | .redAdd .. | .redComb _ | .blk .. =>
    let s := shareLossy (countAccess s o.addr o.phys) o
    match (o.reads s).find? (fun a => s.mem.ue.contains (8, a / 64)) with
    | some a => failOp (s.updCore o.phys (fun c => consumeUe c 8 (ueInfo 8 a) 6 false)) o none
    | none =>
      match o.kind with
      | .atomic op ty b c =>
        let w := typeWidth ty
        let old := kRead s o.addr w
        let (new, t) := atomicNew op ty old b.toNat c.toNat
        let (s, new, shadow) := if op == 0 && ty == 2 then
            let r := keystoneSum s o (fun mode => f32Add mode (BitVec.ofNat 32 old) (b.setWidth 32))
            (r.1, r.2.1.toNat, r.2.2)
          else (s, new, none)
        scheduleReturn (kWrite s o.addr w new) o (extendResult ty old)
          (if op = 2 then some t else none) shadow
      | .redAdd ty b => performRedAdd s o ty b
      | .redComb ty => performRedComb s o ty
      | .blk op pool n m => performBlk s o op pool n m
      | .failed _ => s

def KOpKind.isComb (k : KOpKind) : Bool :=
  match k with
  | .redComb _ => true
  | .atomic .. | .redAdd .. | .blk .. | .failed _ => false

def KOpKind.isFailed (k : KOpKind) : Bool :=
  match k with
  | .failed _ => true
  | .atomic .. | .redAdd .. | .blk .. | .redComb _ => false

/-- Whether an operation performs in this cycle. -/
def KOp.dueNow (cyc : Nat) (o : KOp) : Bool := !o.kind.isFailed && decide (o.perform ≤ cyc)

/-- R186: ascending physical core, RED.COMB last. -/
def kBefore (a b : KOp) : Bool :=
  if a.kind.isComb != b.kind.isComb then b.kind.isComb else decide (a.phys < b.phys)

/-- The first operation due, in the order of R186. -/
def firstOp (cyc : Nat) (ops : List KOp) : Option KOp :=
  (ops.filter (KOp.dueNow cyc)).foldl (fun m o => match m with
    | none => some o
    | some b => if kBefore o b then some o else some b) none

/-- KEYSTONE_PERFORM: the operation first due. -/
def execKeystonePerform (s : State) : Out :=
  match firstOp s.cyc s.ks.ops with
  | none => .next s
  | some o => .next (performOp { s with ks := { s.ks with ops := s.ks.ops.erase o } } o)

/-! ## Operations that failed (R416, R173) -/

/-- The cycle after an operation's return was due. -/
def failedDue (s : State) (o : KOp) : Bool :=
  match o.due with
  | .cyc n => decide (n < s.cyc)
  | .ttc n =>
    match s.kernelOf (s.core o.phys) with
    | none => true
    | some k => (k.st == .running || k.st == .draining) && decide (n < k.time)

/-- Clears the pending bits of a failed operation, and raises its trap (R416). -/
def settleFailed (s : State) (o : KOp) : State :=
  match o.kind with
  | .failed sub =>
    s.updCore o.phys (fun c =>
      let c := { c with pend := pendClear (pendClear (pendClear c.pend (some (.g o.d)))
        (some (.p (2 * o.pair)))) (some (.p (2 * o.pair + 1))) }
      match sub with
      | none => c
      | some n => raiseEng c ⟨codeIllegalOperand,
          BitVec.ofNat 64 (o.va.toNat % 2 ^ 48 * 0x10000 + 0x40 + n), 0, 6, true⟩)
  | .atomic .. | .redAdd .. | .redComb _ | .blk .. => s

/-- Operations without effect whose time has come. -/
def settleFailures (s : State) : State :=
  let now := s.ks.ops.filter (fun o => o.kind.isFailed && failedDue s o)
  let s := { s with ks := { s.ks with ops := s.ks.ops.filter (fun o => !(o.kind.isFailed && failedDue s o)) } }
  now.foldl settleFailed s

end Sys2Proof.Machine
end

