-- ==== Sys2Proof/Machine/Claims.lean ====
section
/-!
DEFINITION. Footprints and bays (R152), the endpoint of a context (R249), barriers named from outside their
core (R204, R210), and the walk of a context's page tables (R214, R215).
-/
namespace Sys2Proof.Machine

/-! ## Footprints -/

/-- A kernel bound to cores: its bays are claimed (R159). -/
def Kernel.bound (k : Kernel) : Bool := k.st == .running || k.st == .held || k.st == .draining

/-- The shafts of a page of KIND 0 by number 32·pier + shaft (R212). -/
def pageShafts (p : PageT) : List Nat :=
  if p.kind ≠ 0 then []
  else
    let pier := p.phys / 0x1000000000
    if p.size = 0x10000 then [32 * pier + p.phys / 0x10000 % 32]
    else (List.range 32).map (32 * pier + ·)

/-- The piers of a kernel's bound clusters. -/
def Kernel.piers (k : Kernel) : List Nat := (k.bind.map pierOf).eraseDups

/-- Whether a kernel's footprint holds an instance of an activity (R152): a cluster, a pier's network
segments (4: the inter-pier segments), a shaft, a cluster quad's Keystone port, a pier's weight store. -/
def inFootprint (k : Kernel) (act inst : Nat) : Bool :=
  match act with
  | 0 => k.bind.any (fun p => clusterOf p == inst)
  | 1 => if inst = 4 then decide (k.piers.length > 1) else k.piers.contains inst
  | 2 => k.pages.any (fun p => (pageShafts p).contains inst)
  | 3 => k.bind.any (fun p => clusterOf p / 4 == inst)
  | _ => k.piers.contains inst

/-- Whether a running group claims the bay of this cycle on an instance. -/
def instClaimed (s : State) (act inst : Nat) : Bool :=
  s.kernels.any (fun p => p.2.bound && inFootprint p.2 act inst && claimsBay p.2.decl act (bayOf s.cyc))

/-- The instance that a landing sector uses: the cluster SRAM port or the shaft, as activity and number. -/
def destInstance (csram : Bool) (addr : Nat) : Nat × Nat :=
  if csram then (0, addr / Config.csramSize) else (2, 32 * (addr / 0x1000000000) + addr / 0x10000 % 32)

/-- Whether a bay of an activity is the device's own: bays 0 and 1 of every shaft, at all times (R152, R240). -/
def bayReserved (act bay : Nat) : Bool := act == 2 && decide (bay < 2)

/-- Whether a sector may land now: in a bay that no running group claims on the instance (R195) and refresh leaves free,
on an instance that has taken no other such sector in this cycle. -/
def mayLand (s : State) (i : Nat × Nat) : Bool :=
  !instClaimed s i.1 i.2 && !bayReserved i.1 (bayOf s.cyc) && !s.link.busy.contains (1000 * i.1 + i.2)

/-- Marks an instance as taken in this cycle. -/
def takeInstance (s : State) (i : Nat × Nat) : State :=
  { s with link := { s.link with busy := (1000 * i.1 + i.2) :: s.link.busy } }

/-! ## Endpoints (R249) -/

/-- Whether a declaration has a SYS level. -/
def hasSys (decl : List Byte) : Bool := fieldLE decl 0x06 1 != 0 && fieldLE decl 0x10 1 == 0

/-- The kernel that a context's endpoint resolves to. -/
def endpointKernel (s : State) (ctx : Nat) : Option (Nat × Kernel) :=
  s.kernels.find? (fun p => p.2.ctx == ctx && hasSys p.2.decl
    && (p.2.bound || p.2.st == .suspended || p.2.st == .resuming || p.2.st == .relaunching))

/-- The core record of a role: the bound core's, or the saved one of a suspended kernel. -/
def roleCore (s : State) (kid role : Nat) : Option Core :=
  match s.kernel? kid with
  | none => none
  | some k =>
    if k.st = .suspended || k.st = .resuming then tfind k.saved role
    else
      match k.bind[role]? with
      | none => none
      | some p =>
        let c := s.core p
        if c.kid = some kid ∧ c.role = role then some c else none

/-- Changes the core record of a role. -/
def updRole (s : State) (kid role : Nat) (f : Core → Core) : State :=
  match s.kernel? kid with
  | none => s
  | some k =>
    if k.st = .suspended || k.st = .resuming then
      match tfind k.saved role with
      | none => s
      | some c => s.setKernel kid { k with saved := tset k.saved role (f c) }
    else
      match k.bind[role]? with
      | none => s
      | some p => s.updCore p (fun c => if c.kid = some kid ∧ c.role = role then f c else c)

/-- An update of a barrier of a role, applied at the end of the cycle (R204). A barrier that the role
has not armed takes none. -/
def barUpdate (s : State) (kid role addr : Nat) (u : BarUpdate) : State :=
  updRole s kid role (fun c => if c.dir.contains addr then c.bar addr u else c)

/-- Whether a role has armed a barrier. -/
def isArmed (s : State) (kid role addr : Nat) : Bool :=
  match roleCore s kid role with
  | none => false
  | some c => c.dir.contains addr

/-- The kernel, role and address that a barrier handle names, if armed there (R204). -/
def handleBar (s : State) (h : Nat) : Option (Nat × Nat × Nat) :=
  match endpointKernel s (bitsOf h 37 32) with
  | none => none
  | some (kid, _) =>
    let role := bitsOf h 24 16
    let addr := 16 * bitsOf h 15 0
    if bitsOf h 31 25 = 0 && bitsOf h 39 38 = 0 && bitsOf h 47 40 = s.link.self && isArmed s kid role addr then
      some (kid, role, addr)
    else none

/-- Applies an update to a list of barriers. -/
def barAll (s : State) (bars : List (Nat × Nat × Nat)) (u : BarUpdate) : State :=
  bars.foldl (fun s b => barUpdate s b.1 b.2.1 b.2.2 u) s

/-! ## Page tables (R214, R215) -/

/-- Whether a range of a pier's Cistern reaches a mapped-out part (R239). -/
def cisternOut (m : Mgmt) (pier off len : Nat) : Bool :=
  (m.shafts.any (·.2.gone) || !m.layersOut.isEmpty || !m.banksOut.isEmpty) &&
  (List.range ((off + len - 1) / 0x10000 - off / 0x10000 + 1)).any (fun g =>
    let o := 0x10000 * (off / 0x10000 + g)
    let shaft := o / 0x10000 % 32
    let layer := o / 0x100000000
    (tget {} m.shafts (32 * pier + shaft)).gone || m.layersOut.contains (pier, layer)
      || m.banksOut.contains (pier, shaft, layer))

/-- Whether a range lies wholly in the Cistern region of one pier, outside every mapped-out part. -/
def inCistern (m : Mgmt) (a len : Nat) : Bool :=
  let pier := a / 0x1000000000
  let off := a % 0x1000000000
  pier < 4 && off + len ≤ 0xC00000000 && !cisternOut m pier off len

/-- Whether a leaf's range lies wholly in the region of its KIND, outside the fault-log area (R212). -/
def inRegion (m : Mgmt) (kind a len : Nat) : Bool :=
  match kind with
  | 0 | 2 => inCistern m a len
  | 1 => 0x4000000000 ≤ a && a / 0x80000000 == (a + len - 1) / 0x80000000 && a + len ≤ 0x4200000000
  | _ => 0x20004000000 ≤ a && a + len ≤ 0x40000000000

/-- Size and alignment of a table of a level, and size that one of its leaves maps. -/
def tableSize (level : Nat) : Nat := if level = 0 then 256 else 4096

def leafSize (level : Nat) : Nat :=
  match level with
  | 0 => 0x10000
  | 1 => 0x200000
  | _ => 0x40000000

/-- The index of a VA in a table of a level. -/
def tableIndex (level va : Nat) : Nat :=
  match level with
  | 0 => bitsOf va 20 16
  | 1 => bitsOf va 29 21
  | 2 => bitsOf va 38 30
  | _ => bitsOf va 47 39

/-- Whether a valid entry of a level is well formed (R215). -/
def entryWell (m : Mgmt) (keymask level e : Nat) : Bool :=
  let addr := bitsOf e 51 8 * 256
  let kind := bitsOf e 57 56
  if bitsOf e 55 52 != 0 || bitsOf e 7 5 != 0 then false
  else if !bitOf e 1 then
    level != 0 && bitsOf e 63 58 == 0 && kind == 0 && addr % tableSize (level - 1) == 0
      && inCistern m addr (tableSize (level - 1))
  else
    level != 3 && bitOf e 2 && addr % leafSize level == 0 && inRegion m kind addr (leafSize level)
      && (kind != 2 || level == 0) && !(kind != 1 && bitOf e 4 && !bitOf keymask (bitsOf e 63 58))

/-- A leaf as the walk finds it; WRITE is the leaf's W. -/
def leafPage (level va e : Nat) : PageT where
  va := va / leafSize level * leafSize level
  size := leafSize level
  phys := bitsOf e 51 8 * 256
  kind := bitsOf e 57 56
  write := bitOf e 3
  near := false
  anchor := 0
  enc := bitOf e 4
  key := bitsOf e 63 58

/-- A field of a context's descriptor (R72). -/
def ctxField (cp : CmdProc) (ctx off n : Nat) : Nat := fieldLE (tget {} cp.ctxs ctx).desc off n

/-- The key value of a context's primary key. -/
def primaryKey (cp : CmdProc) (ctx : Nat) : Nat := keyValue cp (ctxField cp ctx 0x48 1)

/-- The walk from a table of a level: fuel is the level plus one. -/
def walkFrom (s : State) (ctx va : Nat) : Nat → Nat → Option PageT
  | 0, _ => none
  | level + 1, table =>
    let e := leNat (physRead s.mem (primaryKey s.cp ctx) (table + 8 * tableIndex level va) 8)
    if !bitOf e 0 || !entryWell s.mgmt (ctxField s.cp ctx 0x10 8) level e then none
    else if bitOf e 1 then some (leafPage level va e)
    else walkFrom s ctx va level (bitsOf e 51 8 * 256)

/-- The page of a VA in the page tables of a context. -/
def walk (s : State) (ctx va : Nat) : Option PageT :=
  let root := ctxField s.cp ctx 0x08 8
  if va ≥ 2 ^ 48 || !inCistern s.mgmt root 4096 then none else walkFrom s ctx va 4 root

/-- A range of VAs as pieces of pages that a test allows: physical address, key value, length. None when
a byte fails. -/
def rangeIn (s : State) (find_ : Nat → Option PageT) (ok : PageT → Bool) :
    Nat → Nat → Nat → Option (List (Nat × Nat × Nat))
  | 0, _, len => if len = 0 then some [] else none
  | n + 1, va, len =>
    if len = 0 then some []
    else
      match find_ va with
      | none => none
      | some p =>
        if !ok p then none
        else
          let step := min len (p.va + p.size - va)
          match rangeIn s find_ ok n (va + step) (len - step) with
          | none => none
          | some rest => some ((p.phys + (va - p.va), pageKey s.cp p, step) :: rest)

/-- A range in the snapshot of a kernel. -/
def snapshotRange (s : State) (k : Kernel) (ok : PageT → Bool) (va len : Nat) : Option (List (Nat × Nat × Nat)) :=
  if va + len > 2 ^ 48 then none else rangeIn s (findPage k.pages) ok (len / 0x10000 + 2) va len

/-- A range in the page tables of a context. -/
def tableRange (s : State) (ctx : Nat) (ok : PageT → Bool) (va len : Nat) : Option (List (Nat × Nat × Nat)) :=
  if va + len > 2 ^ 48 then none else rangeIn s (walk s ctx) ok (len / 0x10000 + 2) va len

/-- The bytes of a list of pieces; Well sectors as reads see them (R192). -/
def readPieces (s : State) (ps : List (Nat × Nat × Nat)) : List Byte :=
  ps.flatMap (fun (a, key, n) =>
    if physLevel a = 7 && a ≥ 0x20000000000 then
      ((List.range ((a + n - 1) / 64 - a / 64 + 1)).flatMap (fun i => wellRead s.mem key (a / 64 + i))
        |>.drop (a % 64)).take n
    else physRead s.mem key a n)

end Sys2Proof.Machine
end

