-- ==== Sys2Proof/Machine/Message.lean ====
section
/-!
DEFINITION. Messages between chips: paths (R255), sequence numbers (R251), flits (R245, R246), sending and
sending again (R194, R196), acknowledgements (R252), and what a receiver does with data and flags (R195,
R253, R254).
-/
namespace Sys2Proof.Machine

/-! ## Order of lists (R150, R258) -/

/-- Ascending lexicographic order of lists of numbers. -/
def lexLess : List Nat → List Nat → Bool
  | [], _ => false
  | _ :: _, [] => false
  | a :: xs, b :: ys => decide (a < b) || (a == b && lexLess xs ys)

/-- The lowest of a list. -/
def lexLeast : List (List Nat) → Option (List Nat)
  | [] => none
  | x :: xs => match lexLeast xs with | none => some x | some y => some (if lexLess y x then y else x)

/-! ## Ports, nodes and paths -/

def nodeOf (l : Link) (n : Nat) : NodeStatus := tget {} l.status n

def updNode (s : State) (n : Nat) (f : NodeStatus → NodeStatus) : State :=
  { s with link := { s.link with status := tset s.link.status n (f (nodeOf s.link n)) } }

def portOf (l : Link) (p : Nat) : Port := tget {} l.ports p

def updPort (s : State) (p : Nat) (f : Port → Port) : State :=
  { s with link := { s.link with ports := tset s.link.ports p (f (portOf s.link p)) } }

/-- The egress port of a valid path of a node (R248). -/
def pathPort (l : Link) (node i : Nat) : Option Nat :=
  let b := fieldLE l.table (32 * node + 4 + i) 1
  if bitOf b 7 then some (b % 32) else none

/-- A port that carries messages. -/
def Port.carries (p : Port) : Bool := p.st == .up || p.st == .degraded

/-- The lowest usable path to a node, and its port (R255). -/
def usablePath (l : Link) (node : Nat) : Option (Nat × Nat) :=
  (List.range 4).findSome? (fun i =>
    match pathPort l node i with
    | none => none
    | some p => if (portOf l p).carries && !(nodeOf l node).badPaths.contains i then some (i, p) else none)

/-- Time of a package cycle in 1/192 ns: 64 + k, twice that in CALIB (R43, R179). -/
def cycleLen (m : Mgmt) : Nat := (64 + m.stretch) * (if m.service = .calib then 2 else 1)

/-- The window of the cycle before. -/
def windowBefore (s : State) : Nat := windowAt s.link (s.link.clock - cycleLen s.mgmt)

/-! ## Sequence numbers (R251) -/

def seqNext (n : Nat) : Nat := if n = 0xFFFFFFFF then 1 else n + 1

/-- Whether a number is after another. -/
def seqAfter (a b : Nat) : Bool :=
  let d := (a + 0xFFFFFFFF - b) % 0xFFFFFFFF
  1 ≤ d && d < 0x80000000

/-- A message already applied. -/
def NodeStatus.isDup (n : NodeStatus) (seq : Nat) : Bool := !seqAfter seq n.applied || n.marks.contains seq

/-- Moves APPLIED over the marks that follow it. -/
def settleMarks : Nat → NodeStatus → NodeStatus
  | 0, n => n
  | k + 1, n =>
    if n.marks.contains (seqNext n.applied) then
      settleMarks k { n with applied := seqNext n.applied, marks := n.marks.erase (seqNext n.applied) }
    else n

/-- Marks a message as applied. -/
def markApplied (n : NodeStatus) (seq : Nat) : NodeStatus :=
  let m := { n with marks := n.marks ++ [seq] }
  settleMarks m.marks.length m

def sat32 (n : Nat) : Nat := min n 0xFFFFFFFF

def countDup (n : NodeStatus) : NodeStatus := { n with dup := sat32 (n.dup + 1) }
def countLate (n : NodeStatus) : NodeStatus := { n with late := sat32 (n.late + 1) }
def countOutset (n : NodeStatus) : NodeStatus := { n with outset := sat32 (n.outset + 1) }
def countStray (n : NodeStatus) : NodeStatus := { n with stray := sat32 (n.stray + 1) }

/-! ## Flits (R245, R246) -/

def typeData : Nat := 1
def typeArrive : Nat := 2
def typeStore : Nat := 3
def typeMbox : Nat := 4
def typeAck : Nat := 5
def typeAbort : Nat := 6
def typeNotice : Nat := 7

def isFlag (type : Nat) : Bool := type == typeArrive || type == typeStore || type == typeMbox

/-- A flit of a message to a node, its link fields still to be filled. -/
def newFlit (l : Link) (type node ctx : Nat) : Flit where
  type := type
  nsect := 0
  fidx := 0
  mlen := 0
  epoch := l.epoch % 256
  hops := 0
  resent := false
  abortLate := false
  csram := false
  value := 0
  dstep := BitVec.ofNat 16 (256 * node + ctx)
  srcep := BitVec.ofNat 16 (256 * l.self + ctx)
  seq := 0
  stamp := 0
  addr := 0
  payload := []
  fseq := 0
  lack := 0
  handle := 0
  request := none
  crcOk := true

/-- CRC-32 with the IEEE 802.3 polynomial, low bit first, complemented at both ends (log entry 114): one bit. -/
def crcStep (c : Word32) : Word32 := if c.getLsbD 0 then (c >>> 1) ^^^ 0xEDB88320 else c >>> 1

def crcByte (c : Word32) (b : Byte) : Word32 :=
  (List.range 8).foldl (fun c _ => crcStep c) (c ^^^ b.setWidth 32)

def crc32 (bs : List Byte) : Word32 := ~~~(bs.foldl crcByte 0xFFFFFFFF)

/-- A list cut or filled with zeros to a length. -/
def fitTo (n : Nat) (bs : List Byte) : List Byte := (bs ++ List.replicate (n - bs.length) 0).take n

/-- Bytes 251:0 of a flit (R245). -/
def flitBody (f : Flit) : List Byte :=
  natLE 1 f.type ++ List.replicate 9 0
    ++ natLE 1 ((if f.resent then 1 else 0) + (if f.abortLate then 2 else 0) + (if f.csram then 4 else 0))
    ++ natLE 1 f.hops ++ natLE 1 f.nsect ++ natLE 1 f.fidx ++ natLE 1 f.mlen ++ natLE 1 f.epoch
    ++ natLE 8 f.value.toNat ++ natLE 4 0 ++ natLE 2 f.dstep.toNat ++ natLE 2 f.srcep.toNat ++ natLE 4 f.seq
    ++ natLE 6 f.stamp ++ natLE 6 f.addr.toNat ++ fitTo 192 f.payload ++ List.replicate 8 0
    ++ natLE 2 f.fseq.toNat ++ natLE 2 f.lack.toNat

/-- The 256 bytes of a flit. -/
def flitBytes (f : Flit) : List Byte := flitBody f ++ natLE 4 (crc32 (flitBody f)).toNat

/-- What travels beside a flit's 256 bytes, for want of a field of R245: the receiver's handle, whether its data are a
collective's, a replay request (log entries 44, 93, 113). -/
def flitBeside (f : Flit) : List Byte :=
  natLE 6 f.handle.toNat ++ natLE 1 ((if f.request.isSome then 1 else 0) + (if f.coll then 2 else 0))
    ++ natLE 2 (f.request.getD 0).toNat

/-- A flit as a port sends it. -/
def flitWire (f : Flit) : List Byte := flitBytes f ++ flitBeside f

/-- A flit from its 256 bytes and what comes beside them. -/
def flitOf (bs : List Byte) : Flit :=
  let n (off len : Nat) : Nat := fieldLE bs off len
  { type := n 0 1, nsect := n 12 1, fidx := n 13 1, mlen := n 14 1, epoch := n 15 1, hops := n 11 1
    resent := bitOf (n 10 1) 0, abortLate := bitOf (n 10 1) 1, csram := bitOf (n 10 1) 2
    value := BitVec.ofNat 64 (n 16 8), dstep := BitVec.ofNat 16 (n 28 2), srcep := BitVec.ofNat 16 (n 30 2)
    seq := n 32 4, stamp := n 36 6, addr := BitVec.ofNat 48 (n 42 6), payload := (bs.drop 48).take 192
    fseq := BitVec.ofNat 16 (n 248 2), lack := BitVec.ofNat 16 (n 250 2), handle := BitVec.ofNat 48 (n 256 6)
    request := if bitOf (n 262 1) 0 then some (BitVec.ofNat 16 (n 263 2)) else none, coll := bitOf (n 262 1) 1
    crcOk := n 252 4 == (crc32 (bs.take 252)).toNat }

/-- The address of sector i of a message: behind the first, unless the message names a place of its own for it. -/
def Message.place (m : Message) (i : Nat) : Nat := m.places.getD i (m.addr + 64 * i)

/-- Sectors packed into flits: up to three that adjoin (R245, log entry 46). -/
def packSectors (ss : List (Nat × List Byte)) : List (Nat × List Byte) :=
  ss.foldl (fun acc x => match acc.getLast? with
    | none => [x]
    | some g => if x.1 = g.1 + g.2.length ∧ g.2.length < 192 then acc.dropLast ++ [(g.1, g.2 ++ x.2)] else acc ++ [x]) []

/-- The sectors of a message with their addresses. -/
def Message.sectors (m : Message) : List (Nat × List Byte) :=
  (List.range (m.data.length / 64)).map (fun i => (m.place i, (m.data.drop (64 * i)).take 64))

/-- The flits of a message: data and notices in flits of up to three sectors. A data flit names the address of its own
first sector, every flit of a NOTICE the offset of the message's. -/
def messageFlits (l : Link) (m : Message) : List Flit :=
  let f := { newFlit l m.type m.node m.ctx with
    resent := m.resent, csram := m.csram, value := if m.type = typeStore ∨ m.type = typeMbox then m.value else 0
    seq := m.seq, stamp := m.stamp % 2 ^ 48, addr := BitVec.ofNat 48 m.addr
    handle := if m.type = typeData then BitVec.ofNat 48 m.handle else 0, coll := m.coll }
  if m.data.isEmpty then [f]
  else
    (packSectors m.sectors).zipIdx.map (fun (g, i) =>
      { f with fidx := i, mlen := m.data.length / 64, nsect := g.2.length / 64, payload := g.2,
               addr := BitVec.ofNat 48 (if m.type = typeData then g.1 else m.addr) })

/-- Flits of a port that its peer has not acknowledged (R246). -/
def Port.outstanding (p : Port) : Nat := (p.fseq - 1 - p.peerLack).toNat

/-- A port sends a flit: it takes the next FSEQ and joins the last 512 sent. -/
def portSend (p : Port) (f : Flit) : Port :=
  let sent := p.sent ++ [flitWire { f with fseq := p.fseq, lack := p.lack }]
  { p with fseq := p.fseq + 1, sent := sent.drop (sent.length - 512) }

def sendFlits (s : State) (port : Nat) (fs : List Flit) : State :=
  updPort s port (fun p => fs.foldl portSend p)

/-! ## Acknowledgements (R252) -/

/-- An acknowledgement arrives: the message leaves, and its sender's barrier counts its sectors, one update for each
(R204, R207). -/
def takeAck (s : State) (node seq : Nat) : State :=
  let isIt (m : Message) : Bool := m.node == node && m.seq == seq && seq != 0
  let hit := (s.link.unacked ++ s.link.queueOut).find? isIt
  let s := { s with link := { s.link with
    unacked := s.link.unacked.filter (fun m => !isIt m)
    queueOut := s.link.queueOut.filter (fun m => !isIt m) } }
  match hit with
  | none => s
  | some m =>
    match m.ref with
    | none => s
    | some (kid, role, addr) =>
      if m.type = typeData then
        barAll s (List.replicate (m.data.length / 64) (kid, role, addr)) (.add (-1) 0)
      else s

/-- Acknowledges a message of a node. -/
def sendAck (s : State) (node seq : Nat) : State :=
  if node = s.link.self then takeAck s node seq
  else
    match usablePath s.link node with
    | none => s
    | some (_, p) =>
      sendFlits s p [{ newFlit s.link typeAck node 0 with payload := natLE 4 seq ++ natLE 4 0 }]

/-! ## Sending (R194 to R196, R255) -/

/-- The barriers that count messages not yet acknowledged to a node. -/
def countedBars (l : Link) (node : Nat) : List (Nat × Nat × Nat) :=
  ((l.unacked ++ l.queueOut).filter (fun m => m.node == node)).filterMap (·.ref)

/-- With no usable path left, the barriers that count messages to a node abort with cause PATH (R255). -/
def abortPath (s : State) (node : Nat) : State :=
  if node = s.link.self || (usablePath s.link node).isSome then s
  else barAll s (countedBars s.link node) (.abort 3)

/-- The same for every node that messages wait for. -/
def abortPaths (s : State) : State :=
  (((s.link.unacked ++ s.link.queueOut).map (·.node)).eraseDups).foldl abortPath s

/-- Hands a message over for sending, behind those already there. -/
def queueMessage (s : State) (m : Message) : State :=
  abortPath { s with link := { s.link with queueOut := s.link.queueOut ++ [m] } } m.node

/-- The numbers of a sender's data messages that have been received and wait to be applied (R195). -/
def waitingData (l : Link) (node : Nat) : List Nat := (l.inbound.filter (fun m => m.node == node)).map (·.seq)

/-- Queues a message on its own chip for its receiving side. -/
def toInbound (l : Link) (m : Message) (port : Nat) : Inbound :=
  { behind := waitingData l m.node, node := m.node, type := m.type, seq := m.seq, stamp := m.stamp, addr := m.addr, csram := m.csram,
    value := m.value, ctx := m.ctx, data := m.data, total := m.data.length / 64, handle := m.handle, port := port
    places := m.places, coll := m.coll }

/-- Port number of messages that a chip sends to itself. -/
def selfPort : Nat := 99

/-- Whether a message may leave on a port now: at most 1,024 unacknowledged (R251), a flag behind messages
of the same path only (R194), and room among the last 512 flits (R246). -/
def mayLeave (s : State) (m : Message) (port : Nat) : Bool :=
  let un := s.link.unacked.filter (fun x => x.node == m.node)
  decide (un.length < 1024)
    && (!isFlag m.type || un.all (fun x => x.port == some port))
    && (port == selfPort ||
        decide ((portOf s.link port).outstanding + (messageFlits s.link m).length ≤ 512))

/-- The port a message would take. -/
def routeOf (s : State) (m : Message) : Option Nat :=
  if m.node = s.link.self then some selfPort else (usablePath s.link m.node).map (·.2)

/-- The window by whose start a flag is applied holds up a later fence of its stream (R188). -/
def noteFlag (s : State) (m : Message) : State :=
  match m.owner with
  | none => s
  | some (kid, role, _) =>
    if isFlag m.type then
      { s with streams := s.streams.map (fun t =>
          if t.kid = kid ∧ t.role = role then { t with flagUntil := max t.flagUntil (m.stamp + 2) } else t) }
    else s

/-- A message leaves: number, stamp, flits. -/
def departs (s : State) (m : Message) (port : Nat) : State :=
  let n := nodeOf s.link m.node
  let seq := if m.seq = 0 then seqNext n.txSeq else m.seq
  let m := { m with seq := seq, stamp := windowNow s, port := some port }
  let s := updNode s m.node (fun x => if n.txSeq = 0 ∨ seqAfter seq n.txSeq then { x with txSeq := seq } else x)
  let s := noteFlag { s with link := { s.link with unacked := s.link.unacked ++ [m] } } m
  if port = selfPort then
    if isFlag m.type then
      sendAck { s with link := { s.link with flags := s.link.flags ++ [toInbound s.link m port] } } m.node seq
    else { s with link := { s.link with inbound := s.link.inbound ++ [toInbound s.link m port] } }
  else sendFlits s port (messageFlits s.link m)

/-- Sends what may leave, in order; a message that waits holds up the later ones to its node. In UNSYNC data and flags
wait, and the control messages of a notice go on (R259). -/
def flushFrom (s : State) (blocked : List Nat) : List Message → State
  | [] => s
  | m :: ms =>
    if s.link.time = .unsync ∧ m.type ≠ typeNotice then flushFrom s blocked ms
    else
      match (if blocked.contains m.node then none else routeOf s m) with
      | none => flushFrom s (m.node :: blocked) ms
      | some p =>
        if mayLeave s m p then
          flushFrom (departs { s with link := { s.link with queueOut := s.link.queueOut.erase m } } m p) blocked ms
        else flushFrom s (m.node :: blocked) ms

/-- The messages that wait, sent as far as they may leave in this cycle. -/
def flushMessages (s : State) : State := flushFrom s [] s.link.queueOut

/-- Re-sends go data before flags, in the original order (R196). -/
def resendOrder (ms : List Message) : List Message :=
  ms.filter (fun m => !isFlag m.type) ++ ms.filter (fun m => isFlag m.type)

/-- Whether no acknowledgement for some message to a node has come by window stamp + 2 (R196). -/
def ackOverdue (s : State) (node : Nat) : Bool :=
  node != s.link.self && s.link.unacked.any (fun m => m.node == node && decide (m.stamp + 2 ≤ windowNow s))

/-- The paths of a node whose port is one of a list. -/
def pathsOver (l : Link) (node : Nat) (ports : List Nat) : List Nat :=
  (List.range 4).filter (fun i => match pathPort l node i with | none => false | some p => ports.contains p)

/-- ACK_TIMEOUT (R196, R255). -/
def execAckTimeout (node : Nat) (s : State) : Out :=
  if !ackOverdue s node then .next s
  else
    let l := s.link
    let mine := l.unacked.filter (fun m => m.node == node)
    let late := mine.filter (fun m => decide (m.stamp + 2 ≤ windowNow s))
    let bad := pathsOver l node (late.filterMap (·.port))
    let again := (resendOrder mine).map (fun m => { m with resent := true, port := none })
    let s := { s with link := { l with
      unacked := l.unacked.filter (fun m => m.node != node)
      queueOut := again ++ l.queueOut } }
    .next (abortPath (updNode s node (fun n => { n with badPaths := (n.badPaths ++ bad).eraseDups })) node)

/-! ## Collective data and flags (R421, R422) -/

/-- The number of a collective's round for its range: reduce-scatter rounds first. -/
def Coll.op (c : Coll) : Nat := fieldLE c.desc 0x0B 1
def Coll.type (c : Coll) : Nat := fieldLE c.desc 0x0C 1
def Coll.ring (c : Coll) : Nat := fieldLE c.desc 0x0D 1
def Coll.buf (c : Coll) : Nat := fieldLE c.desc 0x30 8
def Coll.acc (c : Coll) : Nat := fieldLE c.desc 0x38 8
def Coll.recv (c : Coll) : Nat := fieldLE c.desc 0x40 8
def Coll.elems (c : Coll) : Nat := fieldLE c.desc 0x28 8
def Coll.id16 (c : Coll) : Nat := fieldLE c.desc 0x20 2
def Coll.tmow (c : Coll) : Nat := if fieldLE c.desc 0x0E 1 = 0 then 8 else fieldLE c.desc 0x0E 1

/-- Bytes of an element of TYPE. -/
def Coll.width (c : Coll) : Nat := if c.type = 1 then 2 else 4

/-- Elements of a chunk. -/
def Coll.chunk (c : Coll) : Nat := c.elems / c.ring

/-- Position of this chip in the ring. -/
def Coll.place (c : Coll) (self : Nat) : Nat :=
  ((List.range c.ring).find? (fun j => fieldLE c.desc (0x50 + j) 1 == self)).getD 0

/-- Rounds of reduce-scatter. -/
def Coll.scatterRounds (c : Coll) : Nat := if c.op = 2 then 0 else c.ring - 1

/-- Rounds in all. -/
def Coll.allRounds (c : Coll) : Nat := c.scatterRounds + (if c.op = 1 then 0 else c.ring - 1)

/-- Sectors that a round receives. -/
def Coll.sectors (c : Coll) (r : Nat) : Nat :=
  if r < c.scatterRounds then c.chunk * 4 / 64 else c.chunk * c.width / 64

/-- The VA at which a round's incoming data begin. -/
def Coll.dest (c : Coll) (self r : Nat) : Nat :=
  if r < c.scatterRounds then c.recv + r * c.chunk * 4
  else
    let k := r - c.scatterRounds
    c.buf + (c.place self + 2 * c.ring - k) % c.ring * c.chunk * c.width

/-- The round whose range holds a sector's VA. -/
def Coll.roundOf (c : Coll) (self va : Nat) : Option Nat :=
  (List.range c.allRounds).find? (fun r =>
    decide (c.dest self r ≤ va) && decide (va < c.dest self r + 64 * c.sectors r))

/-- An open collective. -/
def Coll.running (c : Coll) : Bool := c.st == .running

/-- The barriers of a collective's BAR. -/
def collBars (s : State) (c : Coll) : List (Nat × Nat × Nat) :=
  (List.range (min 8 (fieldLE c.desc 0x0F 1))).filterMap (fun j => handleBar s (fieldLE c.desc (0x90 + 6 * j) 6))

/-- Changes the open collectives of an endpoint that a test selects. -/
def updColl (s : State) (pick : Coll → Bool) (f : Coll → Coll) : State :=
  { s with link := { s.link with colls := s.link.colls.map (fun c => if c.running && pick c then f c else c) } }

/-- One count of a round of a collective: to every barrier of BAR and the engine's own. A count for a later
round waits for its start. -/
def collCount (s : State) (c : Coll) (round : Nat) (sect arrv : Int) : State :=
  if round = c.round then
    let s := barAll s (collBars s c) (.add sect arrv)
    updColl s (fun x => x.ctx == c.ctx && x.id16 == c.id16)
      (fun x => { x with barUps := x.barUps ++ [.add sect arrv] })
  else if c.round < round then
    updColl s (fun x => x.ctx == c.ctx && x.id16 == c.id16)
      (fun x => { x with early := x.early ++ [(round, if sect = 0 then 1 else 0)] })
  else s

/-- A cause that aborts every barrier of a collective, the engine's own among them; the engine then stops
the round at the end of the cycle (R209). -/
def abortColl (s : State) (c : Coll) (cause : Nat) : State :=
  let s := barAll s (collBars s c) (.abort cause)
  updColl s (fun x => x.ctx == c.ctx && x.id16 == c.id16)
    (fun x => { x with barUps := x.barUps ++ [.abort cause] })

/-- Whether a message or flag of stamp N is applied after the start of window N + 2, or in UNSYNC (R254,
R259). -/
def isLate (s : State) (stamp : Nat) : Bool :=
  s.link.time == .unsync || decide (stamp + 2 ≤ windowBefore s)

/-! ## Data (R195, R253, R454) -/

/-- Where the sectors of a data message go: physical or cluster SRAM pieces. -/
inductive DataTarget where
  | csram (addr : Nat)
  | phys (pieces : List (Nat × Nat × Nat))
  | coll (c : Coll) (pieces : List (Nat × Nat × Nat))

/-- The pieces of a range of a collective's owner: its kernel's page set or the context's page tables. -/
def collRange (s : State) (c : Coll) (va len : Nat) : Option (List (Nat × Nat × Nat)) :=
  let ok (p : PageT) : Bool := p.kind == 0 && p.write
  match c.kid with
  | none => tableRange s c.ctx ok va len
  | some kid =>
    match s.kernel? kid with
    | none => none
    | some k => snapshotRange s k ok va len

/-- The target of `len` bytes of a data message at the VA or cluster SRAM form of an address, in the
endpoint of a context; none when the check of R454 fails, or when a collective's data lie outside the ranges of every
open one (R422). -/
def dataTarget (s : State) (ctx : Nat) (csram coll : Bool) (addr len : Nat) : Option DataTarget :=
  if csram then
    match endpointKernel s ctx with
    | none => none
    | some (_, k) =>
      let role := bitsOf addr 40 32
      let off := bitsOf addr 22 0
      if bitsOf addr 47 41 != 0 || bitsOf addr 31 23 != 0 || k.bind.length ≤ role || off + len > 0x700000
          || !k.bound then none
      else some (.csram (csramAddr (clusterOf (k.bind.getD role 0)) off))
  else
    match s.link.colls.find? (fun c => c.running && c.ctx == ctx && (c.roundOf s.link.self addr).isSome) with
    | some c => (collRange s c addr len).map (.coll c)
    | none =>
      if coll then none
      else
        match endpointKernel s ctx with
        | none => none
        | some (_, k) => (snapshotRange s k (fun p => p.kind == 0 && p.write) addr len).map .phys

/-- The instance on which the next sector of a message lands. -/
def DataTarget.inst (t : DataTarget) : Nat × Nat :=
  match t with
  | .csram a => destInstance true a
  | .phys ps => destInstance false ((ps.headD (0, 0, 0)).1)
  | .coll _ ps => destInstance false ((ps.headD (0, 0, 0)).1)

/-- Whether a handle names the endpoint of a context on this chip (R249, R454). -/
def ownHandle (s : State) (ctx handle : Nat) : Bool := bitsOf handle 47 32 == 256 * s.link.self + ctx

/-- A handle that names no armed barrier of the endpoint: the whole message is stray (R204, R454). -/
def strayHandle (s : State) (m : Inbound) : Bool :=
  m.handle != 0 && (!ownHandle s m.ctx m.handle || (handleBar s m.handle).isNone)

/-- The address of sector i of a message that has come. -/
def Inbound.place (m : Inbound) (i : Nat) : Nat := m.places.getD i (m.addr + 64 * i)

/-- What a message's next sector does: dropped as duplicate, as stray, or outside the set; or a target. -/
inductive DataFate where
  | dup
  | stray
  | outset
  | lands (t : DataTarget)

/-- Sectors of a message already applied. -/
def Inbound.done (m : Inbound) : Nat := m.total - m.data.length / 64

def dataFate (s : State) (m : Inbound) : DataFate :=
  if (nodeOf s.link m.node).isDup m.seq then .dup
  else if m.done = 0 && (List.range m.total).any (fun i => (dataTarget s m.ctx m.csram m.coll (m.place i) 64).isNone) then .outset
  else if m.done = 0 && strayHandle s m then .stray
  else
    match dataTarget s m.ctx m.csram m.coll (m.place m.done) 64 with
    | none => .outset
    | some t => .lands t

/-- Whether part of another copy of a message has been applied: this one waits, and is then a duplicate (R195). -/
def copyBegun (s : State) (m : Inbound) : Bool :=
  m.done = 0 && s.link.inbound.any (fun x => x.node == m.node && x.seq == m.seq && decide (0 < x.done))

/-- Whether a sector has had the network slot that it needs: one of class 2 for a collective's data (R423). -/
def DataTarget.moved (t : DataTarget) (m : Inbound) : Bool :=
  match t with
  | .csram _ | .phys _ => true
  | .coll _ _ => decide (m.done < m.moved)

/-- Whether a message's next step can be taken in this cycle. -/
def dataReady (s : State) (m : Inbound) : Bool :=
  !copyBegun s m &&
  match dataFate s m with
  | .dup | .stray | .outset => true
  | .lands t => t.moved m && mayLand s t.inst

/-- The order of R253: ascending sender, then ascending sequence number. -/
def inboundBefore (a b : Inbound) : Bool :=
  decide (a.node < b.node) || (a.node == b.node && seqAfter b.seq a.seq)

/-- The first of a list of messages in the order of R253. -/
def firstInbound (ms : List Inbound) : Option Inbound :=
  ms.foldl (fun b m => match b with
    | none => some m
    | some x => if inboundBefore m x then some m else some x) none

/-- Takes a data message away: accepted, and acknowledged (R252). -/
def finishData (s : State) (m : Inbound) (f : NodeStatus → NodeStatus) : State :=
  let s := { s with link := { s.link with inbound := s.link.inbound.erase m } }
  sendAck (updNode s m.node f) m.node m.seq

/-- One sector lands: bytes, and the count of the barrier that its handle or its round names. -/
def landSector (s : State) (m : Inbound) (t : DataTarget) : State :=
  let bs := m.data.take 64
  let s := takeInstance s t.inst
  let late := isLate s m.stamp
  match t with
  | .csram a => { s with mem := queueWrites s.mem false (bs.zipIdx.map (fun (b, i) => (0, a + i, b))) }
  | .phys ps =>
    let key := (ps.headD (0, 0, 0)).2.1
    let a := (ps.headD (0, 0, 0)).1
    { s with mem := queueWrites s.mem false (bs.zipIdx.map (fun (b, i) => (1 + key, a + i, b))) }
  | .coll c ps =>
    let key := (ps.headD (0, 0, 0)).2.1
    let a := (ps.headD (0, 0, 0)).1
    let s := { s with mem := queueWrites s.mem false (bs.zipIdx.map (fun (b, i) => (1 + key, a + i, b))) }
    let s := match c.roundOf s.link.self (m.place m.done) with
      | none => s
      | some r => collCount s c r (-1) 0
    if late then abortColl s c 2 else s

/-- The receiver's barrier counts a sector (R204, R254). -/
def countHandle (s : State) (handle : Nat) (sect arrv : Int) (late : Bool) : State :=
  match handleBar s handle with
  | none => s
  | some (kid, role, addr) =>
    let s := barUpdate s kid role addr (.add sect arrv)
    if late then barUpdate s kid role addr (.abort 2) else s

/-- DATA_APPLY: one sector of the first message that can go on, in the order of R253. -/
def execDataApply (s : State) : Out :=
  match firstInbound (s.link.inbound.filter (dataReady s)) with
  | none => .next s
  | some m =>
    match dataFate s m with
    | .dup => .next (finishData s m countDup)
    | .stray => .next (finishData s m (fun n => countStray (markApplied n m.seq)))
    | .outset => .next (finishData s m (fun n => countOutset (markApplied n m.seq)))
    | .lands t =>
      let late := isLate s m.stamp
      let s := countHandle (landSector s m t) m.handle (-1) 0 late
      let rest := m.data.drop 64
      if rest.isEmpty then
        .next (finishData s m (fun n =>
          let n := markApplied n m.seq
          if late then countLate n else n))
      else
        .next { s with link := { s.link with
          inbound := s.link.inbound.map (fun x => if x = m then { m with data := rest } else x) } }

/-! ## Flags (R195, R253) -/

/-- Whether a flag is due: the start of window stamp + 2, or at once in UNSYNC; and no data of its sender that was
received before it waits. -/
def flagDue (s : State) (f : Inbound) : Bool :=
  (s.link.time == .unsync || decide (f.stamp + 2 ≤ windowNow s))
    && !s.link.inbound.any (fun m => m.node == f.node && f.behind.contains m.seq)

/-- A flag that is applied counts in LATE where it is late (R254). -/
def noteLate (s : State) (f : Inbound) (late : Bool) : State := if late then updNode s f.node countLate else s

/-- An arrival at a handle, or a collective flag (R204, R422); one that names another endpoint reaches nothing (R454). -/
def applyArrive (s : State) (f : Inbound) (late : Bool) : State :=
  if !ownHandle s f.ctx f.addr then updNode s f.node countStray
  else if bitsOf f.addr 31 25 = 0x7F then
    match s.link.colls.find? (fun c => c.running && c.ctx == bitsOf f.addr 37 32
        && c.id16 == bitsOf f.addr 15 0) with
    | none => updNode s f.node countStray
    | some c =>
      let s := collCount (noteLate s f late) c (bitsOf f.addr 24 16) 0 (-1)
      if late then abortColl s c 2 else s
  else
    match handleBar s f.addr with
    | none => updNode s f.node countStray
    | some _ => countHandle (noteLate s f late) f.addr 0 (-1) late

/-- A flag-word store through the home Keystone (R245, R220). -/
def applyStore (s : State) (f : Inbound) (late : Bool) : State :=
  match endpointKernel s f.ctx with
  | none => updNode s f.node countOutset
  | some (_, k) =>
    match findPage k.pages f.addr with
    | none => updNode s f.node countOutset
    | some p =>
      if p.kind = 2 ∧ p.write ∧ f.addr % 8 = 0 ∧ !isPool k.pools p then
        kWrite (noteLate s f late) (p.phys + (f.addr - p.va)) 8 f.value.toNat
      else updNode s f.node countOutset

/-- A mailbox write becomes the step of that name (R126). -/
def applyMbox (s : State) (f : Inbound) (late : Bool) : State :=
  match endpointKernel s f.ctx with
  | none => updNode s f.node countOutset
  | some (kid, k) =>
    if bitsOf f.addr 8 0 < k.bind.length then
      let s := noteLate s f late
      { s with agenda := .row (.mailboxWrite kid (bitsOf f.addr 8 0) (bitsOf f.addr 11 9) f.value) :: s.agenda }
    else updNode s f.node countOutset

/-- FLAG_APPLY: the first flag due, in the order of R253. -/
def execFlagApply (s : State) : Out :=
  match firstInbound (s.link.flags.filter (flagDue s)) with
  | none => .next s
  | some f =>
    let s1 := { s with link := { s.link with flags := s.link.flags.erase f } }
    if (nodeOf s.link f.node).isDup f.seq then .next (updNode s1 f.node countDup)
    else
      let late := isLate s f.stamp
      let s2 := updNode s1 f.node (fun n => markApplied n f.seq)
      .next (if f.type = typeArrive then applyArrive s2 f late
             else if f.type = typeStore then applyStore s2 f late
             else applyMbox s2 f late)

/-! ## Flits that arrive -/

/-- Node of a sending endpoint. -/
def flitNode (f : Flit) : Nat := bitsOf f.srcep.toNat 13 8

/-- A flag is queued and acknowledged (R252). -/
def receiveFlag (f : Flit) (s : State) : Out :=
  let node := (flitNode f)
  if (nodeOf s.link node).isDup f.seq then .next (sendAck (updNode s node countDup) node f.seq)
  else
    .next (sendAck { s with link := { s.link with flags := s.link.flags ++
      [{ node := node, type := f.type, seq := f.seq, stamp := f.stamp, addr := f.addr.toNat, csram := f.csram,
         value := f.value, ctx := f.dstep.toNat % 64, data := [], total := 0, handle := 0, port := 0,
         behind := waitingData s.link node }] } }
      node f.seq)

/-- ARRIVE: a barrier arrival or a collective flag. -/
def execArrive (f : Flit) (s : State) : Out := receiveFlag f s

/-- STORE: a flag-word store. -/
def execStore (f : Flit) (s : State) : Out := receiveFlag f s

/-- MBOX: a mailbox write. -/
def execMbox (f : Flit) (s : State) : Out := receiveFlag f s

/-- Whether a flit continues a message of which part has arrived. -/
def sameMessage (f : Flit) (m : Inbound) : Bool :=
  m.node == (flitNode f) && m.seq == f.seq && m.stamp == f.stamp && m.type == f.type

/-- Joins a flit to its message; the whole message, if this was its last flit. -/
def joinFlit (s : State) (port : Nat) (f : Flit) : State × Option Inbound :=
  let l := s.link
  let old := l.partial_.find? (sameMessage f)
  let rest := l.partial_.filter (fun m => !sameMessage f m)
  let here := (List.range f.nsect).map (fun j => f.addr.toNat + 64 * j)
  let m : Inbound := match old with
    | some m => { m with data := m.data ++ f.payload.take (64 * f.nsect), places := m.places ++ here }
    | none =>
      { node := (flitNode f), type := f.type, seq := f.seq, stamp := f.stamp, addr := f.addr.toNat,
        csram := f.csram, value := f.value, ctx := f.dstep.toNat % 64, data := f.payload.take (64 * f.nsect),
        total := f.mlen, handle := f.handle.toNat, port := port, places := here, coll := f.coll }
  if m.data.length ≥ 64 * f.mlen then ({ s with link := { l with partial_ := rest } }, some m)
  else ({ s with link := { l with partial_ := rest ++ [m] } }, none)

/-- A flit of a message already applied: its message counts once in DUP and is acknowledged again, at its first flit or at
the first after a part of it has come, which goes (R251). -/
def takeDup (s : State) (f : Flit) : State :=
  let begun := s.link.partial_.any (sameMessage f)
  let s := { s with link := { s.link with partial_ := s.link.partial_.filter (fun m => !sameMessage f m) } }
  if f.fidx = 0 || begun then sendAck (updNode s (flitNode f) countDup) (flitNode f) f.seq else s

/-- DATA: a flit of a data message; a whole message waits to be applied (R195). -/
def execData (port : Nat) (f : Flit) (s : State) : Out :=
  if (nodeOf s.link (flitNode f)).isDup f.seq then .next (takeDup s f)
  else
    match joinFlit s port f with
    | (s, none) => .next s
    | (s, some m) => .next { s with link := { s.link with inbound := s.link.inbound ++ [m] } }

/-- ACK: up to sixteen sequence numbers, a zero entry ending the list (R252). -/
def execAck (f : Flit) (s : State) : Out :=
  let seqs := (List.range 16).map (fun i => fieldLE f.payload (4 * i) 4)
  .next ((seqs.takeWhile (· != 0)).foldl (fun s q => takeAck s (flitNode f) q) s)

/-- ABORT: the named collective's round aborts here with cause PEER (R209, R256). -/
def execAbort (f : Flit) (s : State) : Out :=
  let id := fieldLE f.payload 0 8
  match s.link.colls.find? (fun c => c.running && c.ctx == f.dstep.toNat % 64
      && fieldLE c.desc 0x20 8 == id) with
  | none => .next s
  | some c => .next (abortColl s c 6)

/-- NOTICE: a message of a suspect-notice part; a whole part goes to the fault-log area (R256). -/
def execNotice (f : Flit) (s : State) : Out :=
  let node := (flitNode f)
  if (nodeOf s.link node).isDup f.seq then
    .next (takeDup s f)
  else
    match joinFlit s 0 f with
    | (s, none) => .next s
    | (s, some m) =>
      let len := m.addr / 0x1000000
      let off := m.addr % 0x1000000
      let s := sendAck (updNode s node (fun n => markApplied n m.seq)) node m.seq
      let isIt (x : Inbound) : Bool := x.type == 255 && x.node == node && x.total == len
      let (old, count) := match s.link.partial_.find? isIt with | none => ([], 0) | some x => (x.data, x.addr)
      let got := patch (old ++ List.replicate (off - old.length) 0) off m.data
      let count := count + m.data.length
      let rest := s.link.partial_.filter (fun x => !isIt x)
      if count ≥ len then
        .next { logToArea s (got.take len) with
          link := { s.link with partial_ := rest }
          mgmt := { s.mgmt with noticeFlag := true, notices := s.mgmt.notices ++ [got.take len] } }
      else
        .next { s with link := { s.link with
          partial_ := rest ++ [{ m with type := 255, total := len, data := got, addr := count, stamp := 0, seq := 0 }] } }

end Sys2Proof.Machine
end

