-- ==== Sys2Proof/Machine/Boundary.lean ====
section
/-!
DEFINITION. The variable boundary: outbound streams and fences (R187, R188), the Well's ordered write path,
durability and persist epochs (R192, R199, R200), recovery records (R224, R225), returning sectors (R403),
service-core writes (R21, R453), and barrier time-outs (R206).
-/
namespace Sys2Proof.Machine

/-! ## Streams -/

/-- Added to a role's number in the streams of an attempt that is over (R141). -/
def oldAttempt : Nat := 4096

/-- The streams of the roles bound, or last bound, to a core. -/
def streamsOn (s : State) (core : Nat) : List Stream :=
  s.streams.filter (fun t => match s.kernel? t.kid with
    | none => false
    | some k => k.bind.getD (t.role % oldAttempt) Config.numPhys == core)

def updStream (s : State) (kid role : Nat) (f : Stream → Stream) : State :=
  { s with streams := s.streams.map (fun t => if t.kid = kid ∧ t.role = role then f t else t) }

/-- Replaces a command of a stream; none removes it. -/
def setCmd (s : State) (t : Stream) (o : OutCmd) (o2 : Option OutCmd) : State :=
  updStream s t.kid t.role (fun t => { t with cmds := t.cmds.flatMap (fun x =>
    if x = o then o2.toList else [x]) })

/-- A count update of the barrier that a command names. -/
def cmdBar (s : State) (t : Stream) (o : OutCmd) (u : BarUpdate) : State :=
  match o.barrier with
  | none => s
  | some a => barUpdate s t.kid t.role a u

/-- Context of a kernel. -/
def ctxOf (s : State) (kid : Nat) : Nat := match s.kernel? kid with | none => 0 | some k => k.slot

/-! ## The Well's write path (R192, R199) -/

/-- The Well write whose next sector enters the write path: the first of the stream, with all its bytes
sampled and no FENCE.dur before it. -/
def nextWell : List OutCmd → Option OutCmd
  | [] => none
  | o :: os =>
    match o.kind with
    | .wellWrite _ bs => if 64 * (o.sent + 1) ≤ bs.length then some o else none
    | .fence true => none
    | .fence false | .remoteWrite .. | .remoteRead .. | .arrive _ | .coll _ => nextWell os

/-- One sector of a command is accepted; one whose source could not be read is passed over (R269, log entry 133). -/
def acceptSector (s : State) (t : Stream) (o : OutCmd) : State :=
  match o.kind with
  | .wellWrite ss bs =>
    let rest : Option OutCmd := if o.sent + 1 < ss.length then some { o with sent := o.sent + 1 } else none
    if o.lost.contains o.sent then setCmd s t o rest
    else
    let (a, key) := ss.getD o.sent (0, 0)
    let w : WellSector := { addr := a, data := (bs.drop (64 * o.sent)).take 64, key := key,
                            src := some (t.kid, t.role, o.epoch) }
    let s := { s with mem := setLossy { s.mem with pend := s.mem.pend ++ [w] } 0 [a / 64] o.lossy }
    setCmd (cmdBar s t o (.add (-1) 0)) t o rest
  | .remoteWrite .. | .remoteRead .. | .arrive _ | .coll _ | .fence _ => s

/-- The Well refuses the next sector of a core's stream: it is not written, and the barrier of its command is aborted
with cause WELL_ERR (R207, log entry 105). -/
def refuseSector (s : State) (core : Nat) : State :=
  match (streamsOn s core).findSome? (fun t => (nextWell t.cmds).map (fun o => (t, o))) with
  | none => s
  | some (t, o) =>
    match o.kind with
    | .wellWrite ss _ =>
      setCmd (cmdBar s t o (.abort 4)) t o (if o.sent + 1 < ss.length then some { o with sent := o.sent + 1 } else none)
    | .remoteWrite .. | .remoteRead .. | .arrive _ | .coll _ | .fence _ => s

/-- WELL_SECTOR_ACCEPT: the next sector of a core's stream (R192). -/
def execWellSectorAccept (core : Nat) (s : State) : Out :=
  match (streamsOn s core).findSome? (fun t => (nextWell t.cmds).map (fun o => (t, o))) with
  | none => .next s
  | some (t, o) => .next (acceptSector s t o)

/-- Whether a Well write of an epoch or an earlier one still stands in a stream. -/
def wellBefore (t : Stream) (epoch : Nat) : Bool :=
  t.cmds.any (fun o => match o.kind with
    | .wellWrite .. => decide (o.epoch ≤ epoch)
    | .remoteWrite .. | .remoteRead .. | .arrive _ | .coll _ | .fence _ => false)

/-- Whether a role has an accepted sector of an epoch or an earlier one that is not yet durable. -/
def pendBefore (s : State) (kid role epoch : Nat) : Bool :=
  s.mem.pend.any (fun w => match w.src with
    | none => false
    | some (k, r, e) => k == kid && r == role && decide (e ≤ epoch))

/-- Whether a sector may enter the persistence buffer: no sector of an earlier epoch of its core is left,
and no earlier version of the sector. -/
def mayPersist (s : State) (i : Nat) (w : WellSector) : Bool :=
  !(s.mem.pend.take i).any (fun x => x.addr == w.addr) &&
  (match w.src with
   | none => true
   | some (kid, role, e) =>
     e == 0 || !(pendBefore s kid role (e - 1) ||
       s.streams.any (fun t => t.kid == kid && t.role == role && wellBefore t (e - 1))))

/-- A sector becomes durable: its medium holds it, and an error there is gone (R269). -/
def persist (m : Mem) (i : Nat) (w : WellSector) : Mem :=
  let m := physWrite m w.key w.addr w.data
  { m with pend := m.pend.eraseIdx i, ue := m.ue.filter (· ≠ (7, w.addr / 64)) }

/-! ## Recovery records (R224, R225) -/

/-- Address of a recovery record slot. -/
def recordAt (ctx slot : Nat) : Nat := 0x20002000000 + 0x10000 * ctx + 0x1000 * slot

/-- Writes bytes of a kernel's recovery record through the persistence buffer. -/
def writeRecovery (s : State) (kid off : Nat) (bs : List Byte) : State :=
  match s.kernel? kid with
  | none => s
  | some k =>
    match k.recSlot with
    | none => s
    | some n => { s with mem := { s.mem with phys := writeBytes s.mem.phys (recordAt k.slot n + off) bs } }

/-- The record as acceptance or a relaunch writes it. -/
def freshRecord (k : Kernel) : List Byte :=
  natLE 4 0x56394A48 ++ natLE 4 0 ++ natLE 4 1 ++ natLE 1 1 ++ natLE 1 k.ctx ++ natLE 2 k.gen ++ natLE 8 k.kseq
    ++ natLE 4 k.relaunches ++ natLE 4 k.bind.length ++ List.replicate (0x1000 - 0x20) 0

/-- Whether a stream is of the latest attempt of its kernel: the record shows that attempt alone (R225). -/
def Stream.latest (s : State) (t : Stream) : Bool := s.streams.all (fun u => u.kid != t.kid || decide (t.role < u.role + oldAttempt))

/-- Whether a kernel has ended, or has faulted with no relaunch to come. -/
def kernelOver (s : State) (kid : Nat) : Bool :=
  match s.kernel? kid with
  | none => true
  | some k => k.st == .ended || k.st == .faulted

/-- Once every epoch of every role of an ended kernel is durable, the record takes its last STATE and its
slot is free; streams with nothing left go (R225). -/
def settleFinal (s : State) (kid : Nat) : State :=
  let mine := s.streams.filter (fun t => t.kid == kid)
  let ended (t : Stream) : Bool := t.cmds.isEmpty && decide (t.epoch ≤ t.depoch) && t.final.isSome
  let left := s.mem.pend.any (fun w => match w.src with | none => false | some (k, _, _) => k == kid)
  if kernelOver s kid && !mine.isEmpty && mine.all ended && !left then
    let st := ((mine.find? (Stream.latest s)).bind (·.final)).getD 2
    let s := writeRecovery s kid 0x0C (natLE 1 st)
    let s := s.updKernel kid (fun k => { k with recSlot := none })
    { s with streams := s.streams.filter (fun t => t.kid != kid) }
  else s

/-- The Well port reports a service core's write complete once none of its sectors is left (R453). -/
def reportWritten (s : State) (w : WellSector) : State :=
  match w.svc with
  | none => s
  | some (_, addr, len) =>
    if s.mem.pend.any (fun x => x.svc == w.svc) then s
    else { s with replies := s.replies ++ [(s.cyc, .wellWritten addr len)] }

/-- WELL_SECTOR_DURABLE: the accepted sector at a place enters the persistence buffer (R199). -/
def execWellSectorDurable (i : Nat) (s : State) : Out :=
  match s.mem.pend[i]? with
  | none => .next s
  | some w =>
    if mayPersist s i w then
      let s := reportWritten { s with mem := persist s.mem i w } w
      .next (match w.src with | none => s | some (kid, _, _) => settleFinal s kid)
    else .next s

/-- Whether a stream's oldest open epoch is ended and wholly durable. -/
def epochReady (s : State) (t : Stream) : Bool :=
  decide (t.depoch < t.epoch) && !wellBefore t t.depoch && !pendBefore s t.kid t.role t.depoch

/-- One epoch of a stream is durable: the record, the arrivals of the PBARs that wait for it (R200). -/
def epochDone (s : State) (t : Stream) : State :=
  let n := t.depoch + 1
  let s := updStream s t.kid t.role (fun t =>
    { t with depoch := n, pbars := t.pbars.filter (fun p => decide (n ≤ p.1)) })
  let s := if t.latest s then writeRecovery s t.kid (0x40 + 4 * (t.role % oldAttempt)) (natLE 4 n) else s
  let s := (t.pbars.filter (fun p => decide (p.1 < n))).foldl
    (fun s p => barUpdate s t.kid t.role p.2 (.add 0 (-1))) s
  settleFinal s t.kid

/-- EPOCH_DURABLE: the next epoch of a core's stream (R200, R225). -/
def execEpochDurable (core : Nat) (s : State) : Out :=
  match (streamsOn s core).find? (epochReady s) with
  | none => .next s
  | some t => .next (epochDone s t)

/-! ## Leaving the boundary (R188, R403) -/

/-- Whether a collective that a role has handed over has rounds left. -/
def collOpen (t : Stream) (c : Coll) : Bool :=
  (c.st == .waiting || c.st == .running)
    && (match c.owner with | none => false | some (k, r, _) => k == t.kid && r == t.role)

/-- Whether a remote read of a stream whose request has left is not yet served. -/
def readOpen (s : State) (t : Stream) : Bool :=
  s.mem.reads.any (fun r => r.kid == t.kid && r.role == t.role % oldAttempt && r.node.isSome && r.data.isNone
    && !t.cmds.any (fun o => o.kind.isRead && o.order == r.order))

/-- Whether the messages and flags of a stream sent so far, those of its collectives and its reads' requests among them,
are applied at their receivers. -/
def sentApplied (s : State) (t : Stream) : Bool :=
  !s.link.colls.any (collOpen t) && !readOpen s t &&
  !(s.link.unacked ++ s.link.queueOut).any (fun m => match m.owner with
      | none => false
      | some (k, r, _) => k == t.kid && r == t.role)
    && decide (t.flagUntil ≤ windowNow s)

/-- Whether a command starts before the issue cycle of a FENCE (R188): by timetable cycles, or by package cycles where
a handler or a stub, in which sr.ttc stands still, has issued one of the two. -/
def startsBefore (o f : OutCmd) : Bool :=
  if o.sys || f.sys then decide (o.at_ < f.at_) else decide (o.start < f.start)

/-- Whether an open region holds a command of a stream that is earlier than a FENCE (R188, R271). -/
def heldEarlier (s : State) (t : Stream) (f : OutCmd) : Bool :=
  match roleCore s t.kid t.role with
  | none => false
  | some c => c.regions.any (fun r => r.hold.any (fun o => startsBefore o f))

/-- Whether a FENCE at the head of a stream has met its condition. -/
def fenceMet (s : State) (t : Stream) (f : OutCmd) (dur : Bool) : Bool :=
  sentApplied s t && !heldEarlier s t f && !(dur && s.mem.pend.any (fun w => match w.src with
    | none => false
    | some (k, r, _) => k == t.kid && r == t.role))

/-- Sectors of the next message of a transfer of `n` sectors of which `sent` are away: 64, fewer only in the last
(R245). -/
def messageSectors (sent n : Nat) : Nat := min 64 (n - sent)

/-- The numbers of a transfer's sectors that its next message carries: those whose source could be read (R269). -/
def carriedSectors (o : OutCmd) (n : Nat) : List Nat :=
  ((List.range (messageSectors o.sent n)).map (o.sent + ·)).filter (fun i => !o.lost.contains i)

/-- A message of a stream. -/
def streamMessage (s : State) (t : Stream) (o : OutCmd) (node type addr : Nat) (value : Word64)
    (data : List Byte) : Message where
  node := node
  type := type
  seq := 0
  stamp := 0
  addr := addr % 2 ^ 48
  csram := bitOf addr 62 && type == typeData
  handle := value.toNat
  value := value
  ctx := ctxOf s t.kid
  data := data
  resent := false
  port := none
  ref := o.barrier.map (fun a => (t.kid, t.role, a))
  owner := some (t.kid, t.role, o.order)

/-- What a remote read of this chip's own endpoint returns for a sector (R454); none when its check fails. -/
def servedSector (s : State) (ctx addr : Nat) : Option (List Byte) :=
  match endpointKernel s ctx with
  | none => none
  | some (_, k) =>
    if bitOf addr 62 then
      let role := bitsOf addr 40 32
      let off := bitsOf addr 22 0
      if role < k.bind.length && off + 64 ≤ 0x800000 && k.bound then
        some (readBytes s.mem.csram (csramAddr (clusterOf (k.bind.getD role 0)) off) 64)
      else none
    else
      (snapshotRange s k (fun p => p.kind == 0) (addr % 2 ^ 48) 64).map (readPieces s)

/-- Another chip's remote read message to an endpoint of this chip, by the addresses of its sectors: served, or discarded
whole and counted (R454). The spec gives neither message a flit, so both are the model's input and answer (log entry
45). -/
def serveRemote (s : State) (node ctx : Nat) (addrs : List Nat) : State :=
  if addrs.any (fun a => (servedSector s ctx a).isNone) then updNode s node countOutset
  else { s with replies := s.replies ++ addrs.map (fun a => (s.cyc, .remoteData node a ((servedSector s ctx a).getD []))) }

/-- Whether a sector waits for the request of a remote read of this chip's own endpoint. -/
def readAsked (s : State) (t : Stream) (o : OutCmd) (as : List Nat) (r : PendingRead) : Bool :=
  r.kid == t.kid && r.role == t.role % oldAttempt && r.node == some s.link.self && r.order == o.order
    && as.contains r.src && r.data.isNone

/-- One request message of a remote read that reaches this chip's own endpoint: served, or discarded whole and counted
(R454). -/
def answerReads (s : State) (t : Stream) (o : OutCmd) (as : List Nat) : State :=
  if as.any (fun a => (servedSector s (ctxOf s t.kid) a).isNone) then
    updNode { s with mem := { s.mem with reads := s.mem.reads.filter (fun r => !readAsked s t o as r) } } s.link.self countOutset
  else
    { s with mem := { s.mem with reads := s.mem.reads.map (fun r =>
        if readAsked s t o as r then { r with data := servedSector s (ctxOf s t.kid) r.src } else r) } }

/-- A collective as COLL.START or a COLL command hands it to the engine. -/
def newColl (va ctx : Nat) (kid queue : Option Nat) (owner : Option (Nat × Nat × Nat)) : Coll where
  va := va
  desc := []
  ctx := ctx
  kid := kid
  queue := queue
  st := .waiting
  round := 0
  rounds := 0
  cause := 0
  bar := List.replicate 16 0
  barUps := []
  local_ := false
  early := []
  sentRound := 0
  slots := 0
  since := 0
  owner := owner

/-- The first command of a stream that is no Well write, and whether Well writes stand before it. -/
def nextSend : List OutCmd → Bool → Option (OutCmd × Bool)
  | [], _ => none
  | o :: os, behind =>
    match o.kind with
    | .wellWrite .. => nextSend os true
    | .fence _ | .remoteWrite .. | .remoteRead .. | .arrive _ | .coll _ => some (o, behind)

/-- Whether that command may leave. -/
def sendReady (s : State) (t : Stream) : Bool :=
  match nextSend t.cmds false with
  | none => false
  | some (o, behind) =>
    match o.kind with
    | .fence dur => !behind && fenceMet s t o dur
    | .remoteWrite _ ss _ bs => decide (64 * (o.sent + messageSectors o.sent ss.length) ≤ bs.length)
    | .remoteRead .. | .arrive _ | .coll _ => true
    | .wellWrite .. => false

/-- The command, or its next message, leaves. -/
def sendFirst (s : State) (t : Stream) : State :=
  match nextSend t.cmds false with
  | none => s
  | some (o, _) =>
    match o.kind with
    | .fence _ | .wellWrite .. => setCmd s t o none
    | .remoteWrite node ss handle bs =>
      let n := messageSectors o.sent ss.length
      let carried := carriedSectors o ss.length
      let places := carried.map (fun i => ss.getD i 0 % 2 ^ 48)
      let m := { streamMessage s t o node typeData (ss.getD (carried.headD 0) 0) (BitVec.ofNat 64 handle)
          (carried.flatMap (fun i => (bs.drop (64 * i)).take 64)) with places := places }
      let s := setCmd s t o (if o.sent + n < ss.length then some { o with sent := o.sent + n } else none)
      if carried.isEmpty then s else queueMessage s m
    | .remoteRead node ss =>
      let s := setCmd s t o none
      if node = s.link.self then
        (List.range (ceilDiv ss.length 64)).foldl (fun s j => answerReads s t o ((ss.drop (64 * j)).take 64)) s
      else s
    | .arrive handle =>
      queueMessage (setCmd s t o none) (streamMessage s t o (bitsOf handle 45 40) typeArrive handle 0 [])
    | .coll va =>
      let s := setCmd s t o none
      { s with link := { s.link with colls := s.link.colls ++ [newColl va (ctxOf s t.kid) (some t.kid) none (some (t.kid, t.role, o.order))] } }

/-- OUTBOUND_SEND: the next command or message of a core's stream (R187, R188). -/
def execOutboundSend (core : Nat) (s : State) : Out :=
  match (streamsOn s core).find? (sendReady s) with
  | none => .next s
  | some t => .next (sendFirst s t)

/-! ## Returning sectors (R195, R403) -/

/-- The instance on which a returned sector lands. -/
def PendingRead.inst (r : PendingRead) : Nat × Nat := destInstance (r.dstKind == 0) r.dst

/-- The barrier of a read, if its attempt still runs. -/
def readBar (s : State) (r : PendingRead) (u : BarUpdate) : State :=
  match r.barrier, roleCore s r.kid r.role with
  | some a, some c => if c.attempt = r.attempt then barUpdate s r.kid r.role a u else s
  | some _, none | none, _ => s

/-- Where byte j of a returned sector lands. -/
def PendingRead.cell (r : PendingRead) (j : Nat) (b : Byte) : Nat × Nat × Byte :=
  match r.cut with
  | none => (r.dstKind, r.dst + j, b)
  | some (n, a, kind) => if j < n then (r.dstKind, r.dst + j, b) else (kind, a + (j - n), b)

/-- Whether a read's sector may land now. -/
def readReady (s : State) (r : PendingRead) : Bool := r.data.isSome && mayLand s r.inst

/-- WELL_READ_SECTOR_LAND: a returned sector lands, and its barrier counts it; an error in the Well aborts
the barrier with cause WELL_ERR (R207). -/
def execWellReadSectorLand (i : Nat) (s : State) : Out :=
  match s.mem.reads[i]? with
  | none => .next s
  | some r =>
    match r.data with
    | none => .next s
    | some d =>
      if !mayLand s r.inst then .next s
      else
        let s := takeInstance { s with mem := { s.mem with reads := s.mem.reads.eraseIdx i } } r.inst
        if r.node.isNone && s.mem.ue.contains (7, r.src / 64)
            && !s.mem.pend.any (fun w => w.addr == r.src) then .next (readBar s r (.abort 4))
        else
          let bs := if r.node.isNone then wellRead s.mem (leNat d) (r.src / 64) else d
          let cells := bs.zipIdx.map (fun (b, j) => r.cell j b)
          let lossy := r.node.isNone && lossyIn s.mem 0 r.src 64
          .next (readBar { s with mem := queueWrites s.mem lossy cells } r (.add (-1) 0))

/-! ## Service cores (R21, R453) -/

/-- The key value of the latest version of a Well sector. -/
def sectorKey (m : Mem) (sector : Nat) : Nat :=
  match m.pend.reverse.find? (fun w => w.addr / 64 == sector) with
  | none => tget 0 m.key sector
  | some w => w.key

/-- A service core's access that the device refuses. -/
def refuseAccess (s : State) (addr : Nat) : State := { s with replies := s.replies ++ [(s.cyc, .accessFault addr)] }

/-- SERVICE_WELL_WRITE: accepted sector by sector into the write path, and reported when all of it is durable (R453).
No page maps the fault-log area. -/
def execServiceWellWrite (addr : Nat) (data : List Byte) (s : State) : Out :=
  if !hasStorage addr then .fault (.noStorage addr)
  else if data.isEmpty then .next s
  else if addr < 0x20004000000 || addr + data.length > 0x40000000000 then .next (refuseAccess s addr)
  else
    let us := sectorsOf addr data.length
    let (n, s) := s.takeFree
    let s := us.foldl (fun s u =>
      let key := sectorKey s.mem u
      let w : WellSector := { addr := 64 * u, data := mergeSector (wellRead s.mem key u) u addr data,
                              key := key, src := none, svc := some (n, addr, data.length) }
      { s with mem := { s.mem with pend := s.mem.pend ++ [w] } }) s
    .next { s with mem := setLossy s.mem 0 us false }

/-- Whether a kernel holds a sync or pool page of a Cistern range (R221). -/
def pagesHeld (s : State) (a n : Nat) : Bool :=
  s.ks.pages.any (fun p => p.2.resident && decide (0x10000 * p.1 < a + n) && decide (a < 0x10000 * p.1 + 0x10000))

/-- SERVICE_CISTERN_WRITE: it lands at the end of the cycle, each sector under the key value it has; while a kernel
holds a page of it the home Keystone refuses it, and the service core takes an access fault (R21). -/
def execServiceCisternWrite (addr : Nat) (data : List Byte) (s : State) : Out :=
  if !hasStorage addr then .fault (.noStorage addr)
  else if addr ≥ 0x4000000000 || pagesHeld s addr data.length then .next (refuseAccess s addr)
  else
    let cells := data.zipIdx.map (fun (b, i) => (1 + tget 0 s.mem.key ((addr + i) / 64), addr + i, b))
    .next { s with mem := queueWrites s.mem false cells }

/-- A byte as a service core reads it: the home's while a kernel holds the page, the latest version of a Well sector,
else what memory holds, each under its own key (R21, R192, R221). -/
def serviceByte (s : State) (a : Nat) : Byte :=
  if (tget {} s.ks.pages (a / 0x10000)).resident then memRead s.mem.kmem a
  else if a ≥ 0x20000000000 then (wellRead s.mem (sectorKey s.mem (a / 64)) (a / 64)).getD (a % 64) 0
  else memRead s.mem.phys a

/-- A service core's read of Cistern or Well (R21). -/
def serviceRead (s : State) (addr len : Nat) : State :=
  let mapped (a : Nat) : Bool := hasStorage a && (a < 0x4000000000 || 0x20004000000 ≤ a)
  if len = 0 then s
  else if !mapped addr || !mapped (addr + len - 1) then refuseAccess s addr
  else { s with replies := s.replies ++ [(s.cyc, .readData addr ((List.range len).map (fun i => serviceByte s (addr + i))))] }

/-! ## Time-outs (R206) -/

/-- BARRIER_TIMEOUT: the deadline of an armed barrier of a core is reached; it yields to a flip of the same
cycle. -/
def execBarrierTimeout (core addr : Nat) (s : State) : Out :=
  let c := s.core core
  if c.dir.contains addr && barExpired (windowNow s) (coreBar c addr) then
    .next (s.setCore core (c.bar addr (.abort 1)))
  else .next s

end Sys2Proof.Machine
end

