-- ==== Sys2Proof/Machine/Coll.lean ====
section
/-!
DEFINITION. The collective engine (R209, R418 to R423): validation of a descriptor, its rounds, and their
end or abort at the end of a package cycle.
-/
namespace Sys2Proof.Machine

/-! ## Validation (R419, R420) -/

/-- A field of R419. -/
def Coll.field (c : Coll) (off n : Nat) : Nat := fieldLE c.desc off n

/-- The node indices of RING. -/
def Coll.ringNodes (c : Coll) : List Nat := (List.range c.ring).map (fun j => c.field (0x50 + j) 1)

/-- Whether the fields keep R419. -/
def collWell (c : Coll) : Bool :=
  let d := c.desc
  c.field 0 4 == 0x4F394A48 && c.field 4 2 == 1 && zeroBytes d 0x06 5 && zeroBytes d 0x10 16
    && zeroBytes d 0x48 8 && decide (c.op ≤ 2) && decide (c.type ≤ 2)
    && decide (2 ≤ c.ring) && decide (c.ring ≤ 64)
    && decide (c.field 0x0F 1 ≤ 8) && (c.field 0x0F 1 != 0 || c.queue.isSome)
    && zeroBytes d (0x90 + 6 * c.field 0x0F 1) (48 - 6 * c.field 0x0F 1)
    && zeroBytes d (0x50 + c.ring) (64 - c.ring)
    && (c.op != 2 || (c.acc == 0 && c.recv == 0))
    && decide (0 < c.elems) && c.elems % (32 * c.ring) == 0 && decide (c.elems ≤ 2 ^ 32)

/-- BUF, ACC and RECV as ranges of VAs. -/
def collAreas (c : Coll) : List (Nat × Nat) :=
  (c.buf, c.elems * c.width) ::
    (if c.op = 2 then [] else [(c.acc, c.elems * 4), (c.recv, (c.ring - 1) * c.chunk * 4)])

/-- Whether every handle of BAR names an armed barrier of the collective's endpoint. -/
def collHandles (s : State) (c : Coll) : Bool :=
  (List.range (c.field 0x0F 1)).all (fun j =>
    let h := c.field (0x90 + 6 * j) 6
    ownHandle s c.ctx h && (handleBar s h).isSome)

/-- Whether the engine refuses a collective (R420). -/
def collRefused (s : State) (c : Coll) : Bool :=
  !collWell c
    || (collAreas c).any (fun a => (collRange s c a.1 a.2).isNone)
    || (c.ringNodes.filter (· == s.link.self)).length != 1
    || decide (c.ringNodes.eraseDups.length ≠ c.ring)
    || c.ringNodes.any (fun n => !nodeValid s.link n)
    || !collHandles s c
    || decide ((s.link.colls.filter Coll.running).length ≥ 16)
    || s.link.colls.any (fun x => x.running && x.ctx == c.ctx && x.id16 == c.id16)

/-! ## Memory of a collective -/

/-- Bytes of a range of the collective's memory. -/
def collRead (s : State) (c : Coll) (va len : Nat) : List Byte :=
  match collRange s c va len with
  | none => []
  | some ps => readPieces s ps

/-- Writes a range of the collective's memory; the bytes land at the end of the cycle. -/
def collWrite (s : State) (c : Coll) (va : Nat) (bs : List Byte) : State :=
  match collRange s c va bs.length with
  | none => s
  | some ps => { s with mem := putPieces s.mem false false ps bs }

/-- The 4-byte words of a list of bytes. -/
def wordsOfBytes (bs : List Byte) : List Word32 :=
  (List.range (bs.length / 4)).map (fun i => BitVec.ofNat 32 (fieldLE bs (4 * i) 4))

def bytesOfWords (ws : List Word32) : List Byte := ws.flatMap (fun w => natLE 4 w.toNat)

/-- Elements of TYPE as words: BF16 widened exactly. -/
def widenElems (c : Coll) (bs : List Byte) : List Word32 :=
  if c.type = 1 then
    (List.range (bs.length / 2)).map (fun i => BitVec.ofNat 32 (fieldLE bs (2 * i) 2 * 0x10000))
  else wordsOfBytes bs

/-- Words as elements of TYPE: BF16 rounded with RNE. -/
def narrowWords (c : Coll) (ws : List Word32) : List Byte :=
  if c.type = 1 then ws.flatMap (fun w => natLE 2 (encodeElem 1 0 w .zero).1) else bytesOfWords ws

/-- ACC + RECV, element-wise (R421). -/
def addWords (c : Coll) (xs ys : List Word32) : List Word32 :=
  List.zipWith (fun x y => if c.type = 2 then x + y else f32Add 0 x y) xs ys

/-! ## Rounds (R421, R422) -/

/-- The VA of the data a round sends, and their length. -/
def sendRange (c : Coll) (self r : Nat) : Nat × Nat :=
  let i := c.place self
  if r < c.scatterRounds then (c.acc + (i + c.ring - r) % c.ring * c.chunk * 4, c.chunk * 4)
  else
    let k := r - c.scatterRounds
    (c.buf + (i + 1 + c.ring - k) % c.ring * c.chunk * c.width, c.chunk * c.width)

/-- The VA at the successor to which they go. -/
def sendDest (c : Coll) (self r : Nat) : Nat :=
  if r < c.scatterRounds then c.recv + r * c.chunk * 4 else (sendRange c self r).1

/-- The node of the successor. -/
def successor (c : Coll) (self : Nat) : Nat := c.field (0x50 + (c.place self + 1) % c.ring) 1

/-- A message of a collective. -/
def collMessage (c : Coll) (node type addr : Nat) (data : List Byte) : Message where
  node := node
  type := type
  seq := 0
  stamp := 0
  addr := addr
  csram := false
  handle := 0
  value := 0
  ctx := c.ctx
  data := data
  resent := false
  port := none
  ref := none
  owner := c.owner
  coll := true

/-- Hands a round's data to the messages, 64 sectors each, then its flag. -/
def sendRound (s : State) (c : Coll) (r : Nat) : State :=
  let self := s.link.self
  let node := successor c self
  let (va, len) := sendRange c self r
  let dest := sendDest c self r
  let data := collRead s c va len
  let s := (List.range (ceilDiv len 4096)).foldl (fun s j =>
    queueMessage s (collMessage c node typeData (dest + 4096 * j) ((data.drop (4096 * j)).take 4096))) s
  queueMessage s (collMessage c node typeArrive
    ((256 * node + c.ctx) * 2 ^ 32 + 0x7F * 2 ^ 25 + r * 2 ^ 16 + c.id16) [])

/-- The counts of a round that came before it. -/
def earlyCounts (c : Coll) (r : Nat) : List BarUpdate :=
  (c.early.filter (fun e => e.1 == r)).map (fun e => if e.2 = 0 then .add (-1) 0 else .add 0 (-1))

/-- Sectors that the local work of a round writes: the chunk of ACC that it adds into, and in the last scatter round the
own chunk of BUF (R422). -/
def workSectors (c : Coll) (r : Nat) : Nat :=
  if r < c.scatterRounds then
    ceilDiv (c.chunk * 4) 64 + (if r + 1 = c.scatterRounds then ceilDiv (c.chunk * c.width) 64 else 0)
  else 0

/-- Starts a round: the expectation, the counts that are already there, and the network slots that its data and its local
work need (R113, R423). -/
def beginRound (s : State) (c : Coll) (r : Nat) : State :=
  let expect : BarUpdate :=
    if r = 0 then .collExpect (c.sectors r) 2 c.tmow else .add (c.sectors r) 2
  let ups := expect :: earlyCounts c r
  let s := ups.foldl (fun s u => barAll s (collBars s c) u) s
  let s := updColl s (fun x => x.ctx == c.ctx && x.id16 == c.id16) (fun x =>
    { x with round := r, local_ := false, barUps := x.barUps ++ ups, sentRound := r + 1,
             early := x.early.filter (fun e => e.1 != r),
             slots := ceilDiv (sendRange c s.link.self r).2 64, work := workSectors c r })
  s

/-- Replaces the first collective that waits for the engine. -/
def setWaiting (l : Link) (c : Coll) : Link :=
  let rec go : List Coll → List Coll
    | [] => []
    | x :: xs => if x.st = .waiting then c :: xs else x :: go xs
  { l with colls := go l.colls }

/-- The descriptor as the engine reads it. -/
def readDesc (s : State) (c : Coll) : List Byte :=
  let ok (p : PageT) : Bool := p.kind == 0
  let pieces := match c.kid with
    | none => tableRange s c.ctx ok c.va 192
    | some kid => match s.kernel? kid with | none => none | some k => snapshotRange s k ok c.va 192
  match pieces with
  | none => []
  | some ps => readPieces s ps

/-- The abort cause of a barrier of BAR that is aborted. -/
def barCause (s : State) (b : Nat × Nat × Nat) : Option Nat :=
  match roleCore s b.1 b.2.1 with
  | none => none
  | some c => if (coreBar c b.2.2).abort then some (coreBar c b.2.2).acause else none

/-- COLL_ENGINE_START: the first collective handed over is refused, or starts its round 0 (R420, R422). -/
def execCollEngineStart (s : State) : Out :=
  match s.link.colls.find? (fun c => c.st == .waiting) with
  | none => .next s
  | some c =>
    let c := { c with desc := readDesc s c }
    if collRefused s c then
      let s := barAll s (collBars s c) (.abort 5)
      let cause := if (collBars s c).isEmpty then 0 else ((collBars s c).findSome? (barCause s)).getD 5
      .next { s with link := setWaiting s.link { c with st := .refused, cause := cause } }
    else
      let own : Bar := { sect := 0, arrv := 0, tmow := 0, dline := 0, acause := 0, stray := 0,
                         armed := true, abort := false, phase := 0 }
      let c := { c with
        st := .running, rounds := c.allRounds, bar := barBytes own, since := s.link.elapsed
        prep := if c.op = 2 then 0 else ceilDiv (c.elems * 4) 64 }
      .next (beginRound { s with link := setWaiting s.link c } c 0)

/-- ACC := BUF, before the first round's data leave (R421). -/
def fillAcc (s : State) (c : Coll) : State :=
  collWrite s c c.acc (bytesOfWords (widenElems c (collRead s c c.buf (c.elems * c.width))))

/-- Whether a round's data and flag have come, its own data have left, and its local work is open (R421, R422). -/
def Coll.localOpen (c : Coll) : Bool :=
  let b := barOf c.bar
  c.running && !c.local_ && c.barUps.isEmpty && !b.abort && b.sect == 0 && b.arrv == 1 && c.prep == 0 && c.slots == 0

/-- Whether that work has had its network slots. -/
def Coll.localReady (c : Coll) : Bool := c.localOpen && c.work == 0

/-- The local work of a round: the addition into ACC, and in the last scatter round, whose chunk is the own one, its
narrowing into BUF. -/
def localWork (s : State) (c : Coll) : State :=
  let r := c.round
  if r < c.scatterRounds then
    let i := c.place s.link.self
    let j := (i + 2 * c.ring - r - 1) % c.ring
    let at_ := c.acc + j * c.chunk * 4
    let sum := addWords c (wordsOfBytes (collRead s c at_ (c.chunk * 4)))
      (wordsOfBytes (collRead s c (c.recv + r * c.chunk * 4) (c.chunk * 4)))
    let s := collWrite s c at_ (bytesOfWords sum)
    if r + 1 = c.scatterRounds then collWrite s c (c.buf + j * c.chunk * c.width) (narrowWords c sum) else s
  else s

/-- COLL_ROUND_LOCAL_DONE: the first such round's local work, and its second arrival (R422). -/
def execCollRoundLocalDone (s : State) : Out :=
  match s.link.colls.find? Coll.localReady with
  | none => .next s
  | some c =>
    let s := localWork s c
    let s := barAll s (collBars s c) (.add 0 (-1))
    .next (updColl s (fun x => x.ctx == c.ctx && x.id16 == c.id16)
      (fun x => { x with local_ := true, barUps := x.barUps ++ [.add 0 (-1)] }))

/-! ## The end of a package cycle (R205, R209) -/

/-- The ABORT messages of a stopped collective, to every other node of the domain. -/
def sendAborts (s : State) (c : Coll) (cause : Nat) : State :=
  (List.range s.link.nodes).foldl (fun s n =>
    if n = s.link.self || !nodeValid s.link n then s
    else
      match usablePath s.link n with
      | none => s
      | some (_, p) =>
        sendFlits s p [{ newFlit s.link typeAbort n c.ctx with
          payload := natLE 8 (c.field 0x20 8), abortLate := cause == 2 }]) s

/-- One collective at the end of a cycle, after the barriers of the cores: it goes on, ends, or stops. -/
def landColl (s : State) (c : Coll) : State :=
  let window := windowNow s
  let old := barOf c.bar
  let ups := c.barUps ++ (if barExpired window old then [.abort 1] else [])
  let new := if ups.isEmpty then old else barApply window old ups
  let isIt (x : Coll) : Bool := x.ctx == c.ctx && x.id16 == c.id16
  let s := updColl s isIt (fun x => { x with bar := barBytes new, barUps := [] })
  let cause := match (collBars s c).findSome? (barCause s) with
    | some k => some k
    | none => if new.abort then some new.acause else none
  match cause with
  | some k =>
    let s := barAll s (collBars s c) (.abort 6)
    let s := sendAborts s c k
    updColl s isIt (fun x => { x with st := .aborted, cause := k })
  | none =>
    if new.phase ≠ old.phase then
      if c.round + 1 = c.rounds then updColl s isIt (fun x => { x with st := .done, round := c.rounds })
      else beginRound s c (c.round + 1)
    else s

/-- Every open collective at the end of a cycle. -/
def landColls (s : State) : State := (s.link.colls.filter Coll.running).foldl landColl s

end Sys2Proof.Machine
end

