-- ==== Sys2Proof/Machine/Crypto.lean ====
section
/-!
DEFINITION. SHAKE256 and KMAC256 (R86, R88): Keccak-f[1600] of FIPS 202 and the functions of NIST SP 800-185.
-/
namespace Sys2Proof.Machine

/-! ## Keccak-f[1600]

The sponge's 25 lanes stand as five planes of five lanes. What FIPS 202 tabulates is computed here as it defines it. -/

/-- A plane turned: lane x + n comes to place x. -/
def turn (n : Nat) (plane : List Word64) : List Word64 := plane.drop n ++ plane.take n

def xorPlanes (p q : List Word64) : List Word64 := List.zipWith (fun u v => u ^^^ v) p q

/-- The register whose low bit gives the bits of the round constants: x^8 + x^6 + x^5 + x^4 + 1. -/
def rcRegister : Nat → Nat
  | 0 => 1
  | n + 1 =>
    let r := 2 * rcRegister n
    if r < 256 then r else Nat.xor (r - 256) 0x71

/-- The constant of round n: bit 2^j - 1 is bit j + 7n of the register's sequence. -/
def roundConstant (n : Nat) : Word64 :=
  BitVec.ofNat 64 (((List.range 7).map (fun j => rcRegister (j + 7 * n) % 2 * 2 ^ (2 ^ j - 1))).sum)

/-- How far each lane is rotated, by place x + 5y: the walk from (1, 0) along (y, 2x + 3y), with triangular numbers. -/
def rhoWalk : Nat → Nat → Nat → Nat → Table Nat
  | 0, _, _, _ => []
  | left + 1, t, x, y => (x + 5 * y, t * (t + 1) / 2 % 64) :: rhoWalk left (t + 1) y ((2 * x + 3 * y) % 5)

/-- The 24 distances; lane (0, 0) has none. -/
def rhoTable : Table Nat := rhoWalk 24 1 1 0

/-- The distance of a place of that walk, whose places are in no order. -/
def rhoAt (place : Nat) : Nat := ((rhoTable.find? (fun e => e.1 == place)).map (·.2)).getD 0

/-- Theta: each lane takes the parity of the column before and of the column after, that turned by a bit. -/
def theta (a : List (List Word64)) : List (List Word64) :=
  let parity := a.foldl xorPlanes (List.replicate 5 0)
  a.map (xorPlanes (xorPlanes (turn 4 parity) ((turn 1 parity).map (·.rotateLeft 1))))

/-- Rho and pi: lane (x, y), rotated, goes to (y, 2x + 3y). -/
def rhoPi (a : List (List Word64)) : List (List Word64) :=
  (List.range 5).map (fun row => (List.range 5).map (fun y =>
    let x := (y + 3 * row) % 5
    (((a.getD y []).getD x 0).rotateLeft (rhoAt (x + 5 * y)))))

/-- Chi, a plane at a time. -/
def chi (plane : List Word64) : List Word64 :=
  xorPlanes plane (List.zipWith (fun u v => ~~~u &&& v) (turn 1 plane) (turn 2 plane))

/-- Round n. -/
def keccakRound (a : List (List Word64)) (n : Nat) : List (List Word64) :=
  let b := (rhoPi (theta a)).map chi
  let iota : List (List Word64) := [[roundConstant n, 0, 0, 0, 0]]
  List.zipWith xorPlanes b (iota ++ List.replicate 4 (List.replicate 5 0))

def keccakF (a : List (List Word64)) : List (List Word64) := (List.range 24).foldl keccakRound a

/-! ## The sponge with a rate of 136 bytes -/

/-- A block of 136 bytes, its lanes in the order of the planes. -/
def blockPlanes (bs : List Byte) : List (List Word64) :=
  (List.range 5).map (fun y => (List.range 5).map (fun x => BitVec.ofNat 64 (fieldLE bs (8 * (x + 5 * y)) 8)))

/-- Absorbs one block. -/
def absorb (a : List (List Word64)) (bs : List Byte) : List (List Word64) :=
  keccakF (List.zipWith xorPlanes a (blockPlanes bs))

/-- Absorbs whole blocks. -/
def absorbAll : Nat → List (List Word64) → List Byte → List (List Word64)
  | 0, a, _ => a
  | n + 1, a, bs => absorbAll n (absorb a (bs.take 136)) (bs.drop 136)

/-- Message, domain bits and pad10*1. -/
def spongePad (suffix : Nat) (bs : List Byte) : List Byte :=
  let n := 136 - bs.length % 136
  if n = 1 then bs ++ [BitVec.ofNat 8 (suffix + 0x80)]
  else bs ++ [BitVec.ofNat 8 suffix] ++ List.replicate (n - 2) 0 ++ [0x80]

/-- The first 64 bytes that the sponge gives, fewer than its rate. -/
def sponge64 (suffix : Nat) (bs : List Byte) : List Byte :=
  let p := spongePad suffix bs
  let a := absorbAll (p.length / 136) (List.replicate 5 (List.replicate 5 0)) p
  (a.flatten.take 8).flatMap (fun w => natLE 8 w.toNat)

/-- D(x): SHAKE256 with 64 bytes of output (R88). -/
def digest (bs : List Byte) : List Byte := sponge64 0x1F bs

/-! ## KMAC256 (NIST SP 800-185) -/

/-- Big-endian bytes of a number, at least one. -/
def beBytes (n : Nat) : List Byte :=
  if n < 0x100 then [BitVec.ofNat 8 n]
  else if n < 0x10000 then [BitVec.ofNat 8 (n / 0x100), BitVec.ofNat 8 n]
  else [BitVec.ofNat 8 (n / 0x10000), BitVec.ofNat 8 (n / 0x100), BitVec.ofNat 8 n]

def leftEncode (n : Nat) : List Byte := BitVec.ofNat 8 (beBytes n).length :: beBytes n
def rightEncode (n : Nat) : List Byte := beBytes n ++ [BitVec.ofNat 8 (beBytes n).length]
def encodeString (bs : List Byte) : List Byte := leftEncode (8 * bs.length) ++ bs

/-- bytepad with w = 136. -/
def bytePad (bs : List Byte) : List Byte :=
  let x := leftEncode 136 ++ bs
  x ++ List.replicate ((136 - x.length % 136) % 136) 0

/-- Characters of an ASCII string. -/
def ascii (cs : List Char) : List Byte := cs.map (fun c => BitVec.ofNat 8 c.toNat)

/-- KMAC256 with 64 bytes of output. -/
def kmac256 (key data custom : List Byte) : List Byte :=
  sponge64 0x04
    (bytePad (encodeString (ascii ['K', 'M', 'A', 'C']) ++ encodeString custom)
      ++ bytePad (encodeString key) ++ data ++ rightEncode 512)

/-- The tag of a sealed image (R86); the key is taken as 32 bytes. -/
def sealTag (bs : List Byte) : List Byte :=
  kmac256 ((List.range 32).map Config.sealKey) bs (ascii ['H', 'J', '9', '-', 'S', 'E', 'A', 'L'])

end Sys2Proof.Machine
end

