-- ==== Sys2Proof/Machine/Port.lean ====
section
/-!
DEFINITION. Wibin ports and the collective domain: port states (R244), flits that arrive and replay
(R246, R250), IDENT, the domain header and its APPLY (R247, R257), and the chip's clock (R258, R259).
-/
namespace Sys2Proof.Machine

/-! ## Port states (R243, R244) -/

/-- Whether a group of four lanes is whole. -/
def laneGroup (lanes : BitVec 8) : Bool := lanes.toNat % 16 == 15 || lanes.toNat / 16 == 15

/-- The state in which a port with these lanes carries messages. -/
def upState (lanes : BitVec 8) : PortState :=
  if lanes = 0xFF then .up else if laneGroup lanes then .degraded else .failed

/-- 1/192 ns in a second. -/
def second : Nat := 192000000000

/-- A port begins training. -/
def startTraining (s : State) (p : Nat) : State :=
  updPort s p (fun q => { q with st := .training, since := s.link.elapsed, retryAt := none })

/-- Whether a port that is DOWN may start training: its PORTEN bit is set, it has signal, and no retry is to be waited
for (R244). -/
def mayTrain (s : State) (p : Nat) : Bool :=
  let q := portOf s.link p
  q.st == .down && bitOf s.link.porten p && q.signal && q.retryAt.isNone

/-- A port fails; messages without another path abort their barriers (R255). -/
def failPort (s : State) (p : Nat) : State := abortPaths (updPort s p (fun q => { q with st := .failed }))

/-- A port enters UP: its flit numbers start again, and paths over it may be used again (R244, R255). -/
def enterUp (s : State) (p : Nat) : State :=
  let s := updPort s p (fun q =>
    { q with st := upState q.lanes, fseq := 0, lack := 0xFFFF, peerLack := 0xFFFF, waitFseq := none,
             replays := 0, lastReplay := none, sent := [] })
  { s with link := { s.link with status := s.link.status.map (fun (n, x) =>
      (n, { x with badPaths := x.badPaths.filter (fun i => !(pathsOver s.link n [p]).contains i) })) } }

/-- Whether PORTEN enables a port, in the domain as applied. -/
def portEnabled (s : State) (p : Nat) : Bool := bitOf s.link.porten p

/-- PORT_SIGNAL_DETECT. -/
def execPortSignalDetect (port : Nat) (s : State) : Out :=
  let s := updPort s port (fun q => { q with signal := true })
  if mayTrain s port then .next (startTraining s port) else .next s

/-- The IDENT that a port sends (R244). -/
def identFlit (l : Link) (port : Nat) : Flit :=
  { newFlit l 9 0 0 with
    dstep := 0
    payload := (List.range 16).map Config.serial ++ natLE 1 l.self ++ natLE 1 port ++ natLE 1 (l.epoch % 256)
      ++ natLE 1 l.wcode ++ List.replicate 172 0 }

/-- TRAINING_COMPLETE: within 500 ms, with the lanes found good. -/
def execTrainingComplete (port : Nat) (lanes : BitVec 8) (s : State) : Out :=
  let q := portOf s.link port
  if q.st = .training ∧ s.link.elapsed ≤ q.since + second / 2 then
    let s := updPort s port (fun q => { q with st := .sync, lanes := lanes, trainFail := 0, ident := none })
    .next (sendFlits s port [identFlit s.link port])
  else .next s

/-- TRAINING_FAIL: it is tried again after 1 s; the eighth in a row ends in FAILED. -/
def execTrainingFail (port : Nat) (s : State) : Out :=
  if (portOf s.link port).st = .training then
    .next (updPort s port (fun q =>
      { q with trainFail := sat32 (q.trainFail + 1), since := s.link.elapsed,
               st := if q.trainFail + 1 ≥ 8 then .failed else .down
               retryAt := if q.trainFail + 1 ≥ 8 then none else some (s.link.elapsed + second) }))
  else .next s

/-- Whether training has not completed within 500 ms: it has failed. -/
def trainingLate (s : State) (q : Port) : Bool := q.st == .training && decide (q.since + second / 2 < s.link.elapsed)

/-- Whether a retry is due. -/
def retryDue (s : State) (q : Port) : Bool :=
  q.st == .down && (match q.retryAt with | none => false | some t => decide (t ≤ s.link.elapsed))

/-- TRAINING_RETRY: a second after a failure. -/
def execTrainingRetry (port : Nat) (s : State) : Out :=
  if retryDue s (portOf s.link port) && portEnabled s port then .next (startTraining s port) else .next s

/-- Flits of the replay buffer are sent once more (R246). -/
def replayFlits (s : State) (port n : Nat) : State := updPort s port (fun q => { q with replay := q.replay + n })

/-- LANE_FAIL (R243, R244): from UP to DEGRADED, with the flits in flight replayed; a port that is DEGRADED stays so while
a lane group is whole. -/
def execLaneFail (port lane : Nat) (s : State) : Out :=
  let s := updPort s port (fun q => { q with lanes := q.lanes &&& ~~~(1#8 <<< lane) })
  let q := portOf s.link port
  if q.carries && !laneGroup q.lanes then .next (failPort s port)
  else if q.st = .up then
    .next (replayFlits (updPort s port (fun q => { q with st := .degraded })) port q.outstanding)
  else .next s

/-- ALIGNMENT_LOSS_TIMEOUT: alignment lost for 1 ms. -/
def execAlignmentLossTimeout (port : Nat) (s : State) : Out :=
  if (portOf s.link port).carries then .next (failPort s port) else .next s

/-- PORT_RETRAIN: a RETRAIN bit takes a FAILED port back to TRAINING. -/
def execPortRetrain (port : Nat) (s : State) : Out :=
  if (portOf s.link port).st = .failed then
    .next (startTraining (updPort s port (fun q => { q with trainFail := 0 })) port)
  else .next s

/-! ## Flits that arrive (R245, R246, R250) -/

/-- The step of a flit that is for this chip. -/
def flitRow (port : Nat) (f : Flit) : Option Instr :=
  match f.type with
  | 1 => some (.data port f)
  | 2 => some (.arrive f)
  | 3 => some (.store f)
  | 4 => some (.mbox f)
  | 9 => some (.ident port f)
  | _ => none

/-- The step of a control message, taken after the data and the flags of its cycle (R253). -/
def controlRowOf (f : Flit) : Option Instr :=
  match f.type with
  | 5 => some (.ack f)
  | 6 => some (.abort f)
  | 7 => some (.notice f)
  | _ => none

/-- A flit of the link itself, never forwarded: IDLE, TIME, IDENT. -/
def isLinkFlit (type : Nat) : Bool := type == 0 || type == 8 || type == 9

/-- Forwards a flit for another node (R250). -/
def forwardFlit (s : State) (f : Flit) : State :=
  match usablePath s.link (bitsOf f.dstep.toNat 13 8) with
  | none => s
  | some (_, p) => sendFlits s p [{ f with hops := f.hops + 1 }]

/-- A flit received without error: discarded as stray, forwarded, or this chip's. -/
def takeFlit (s : State) (port : Nat) (f : Flit) : State :=
  if f.type ≥ 10 || f.hops = 7 || f.epoch != s.link.epoch % 256 then updNode s (flitNode f) countStray
  else if !isLinkFlit f.type && bitsOf f.dstep.toNat 13 8 != s.link.self then forwardFlit s f
  else
    match flitRow port f with
    | some i => { s with agenda := .row i :: s.agenda }
    | none =>
      if (controlRowOf f).isSome then { s with link := { s.link with controls := s.link.controls ++ [f] } } else s

/-- The replay that a flit requests (R246). -/
def takeRequest (s : State) (port : Nat) (f : Flit) : State :=
  match f.request with
  | none => s
  | some w => { s with agenda := .row (.flitReplay port w) :: s.agenda }

/-- The flit that carries a replay request: an IDLE one, sent at once (R246, log entry 113). -/
def requestFlit (l : Link) (w : BitVec 16) : Flit := { newFlit l 0 0 0 with dstep := 0, request := some w }

/-- Sectors in the inbound buffer of a port (R195). -/
def inboundSectors (l : Link) (port : Nat) : Nat :=
  (((l.inbound ++ l.partial_).filter (fun m => m.port == port && m.type == typeData)).map (fun m => m.data.length / 64)).sum

/-- Whether a flit's sectors find no room in the inbound buffer. -/
def inboundFull (s : State) (port : Nat) (f : Flit) : Bool :=
  f.type == typeData && bitsOf f.dstep.toNat 13 8 == s.link.self
    && decide (inboundSectors s.link port + f.nsect > 4096)

/-- Whether a port takes a flit in its turn: the number it waits for, or the next one. -/
def inTurn (q : Port) (f : Flit) : Bool :=
  match q.waitFseq with
  | some w => f.fseq == w
  | none => f.fseq == q.lack + 1

/-- FLIT_RECEIVE (R246): a flit whose CRC fails is discarded, a replay is requested, and all later ones are discarded
until its FSEQ comes again; a full inbound buffer takes none (R195). -/
def execFlitReceive (port : Nat) (bytes : List Byte) (s : State) : Out :=
  let f := flitOf bytes
  let q := portOf s.link port
  if bytes.length ≠ 256 ∧ bytes.length ≠ 265 then .next s
  else if q.carries then
    if !f.crcOk then
      let w := q.waitFseq.getD (q.lack + 1)
      .next (sendFlits (updPort s port (fun q => { q with waitFseq := some w })) port [requestFlit s.link w])
    else if !inTurn q f || inboundFull s port f then .next s
    else
      let s := updPort s port (fun q => { q with waitFseq := none, lack := f.fseq, peerLack := f.lack })
      .next (takeRequest (takeFlit s port f) port f)
  else if q.st = .sync ∧ f.crcOk ∧ f.type = 9 then .next (takeFlit s port f)
  else .next s

/-- FLIT_REPLAY (R246): from the requested FSEQ in order; sixteen in a row of one flit fail the port. -/
def execFlitReplay (port : Nat) (fseq : BitVec 16) (s : State) : Out :=
  let q := portOf s.link port
  let again := q.sent.dropWhile (fun f => fieldLE f 248 2 != fseq.toNat)
  if !q.carries || again.isEmpty then .next s
  else
    let n := if q.lastReplay = some fseq then q.replays + 1 else 1
    let s := replayFlits s port again.length
    let s := updPort s port (fun q => { q with replays := n, lastReplay := some fseq })
    .next (if n ≥ 16 then failPort s port else s)

/-- Whether an IDENT matches its node entry and shows the EPOCH and the WCODE of the domain. -/
def identMatches (l : Link) (b : List Byte) : Bool :=
  let node := fieldLE b 16 1
  nodeValid l node && (l.table.drop (32 * node + 8)).take 16 == b.take 16
    && fieldLE b 18 1 == l.epoch % 256 && fieldLE b 19 1 == l.wcode

/-- A port in SYNC goes UP once its peer's IDENT matches and the chip is LOCKED (R244, R259); the match is answered before
the flit numbers restart (log entry 50). -/
def promote (s : State) (port : Nat) : State :=
  let q := portOf s.link port
  match q.ident with
  | none => s
  | some b =>
    if q.st = .sync ∧ identMatches s.link b ∧ s.link.time = .locked then
      enterUp (sendFlits s port [identFlit s.link port]) port
    else s

def promoteAll (s : State) : State := (List.range Config.numPorts).foldl promote s

/-- IDENT (R244): the peer's node and port, and what a port in SYNC compares from now on. -/
def execIdent (port : Nat) (f : Flit) (s : State) : Out :=
  .next (promote (updPort s port (fun q =>
    { q with peerNode := fieldLE f.payload 16 1, peerPort := fieldLE f.payload 17 1
             ident := some (f.payload.take 20) })) port)

/-! ## Time (R258, R259) -/

/-- The number of the management port among the ports of the clock. -/
def mgmtPort : Nat := 18

/-- The best data set announced at a port, and the port: ties go to the lowest port. -/
def bestMaster (l : Link) : Option (Nat × List Nat) :=
  l.masters.foldl (fun b x => match b with
    | none => some x
    | some y => if lexLess x.2 y.2 then some x else b) none

/-- The port in the slave role: that of the grandmaster which the best master clock algorithm selects, unless the chip's
own clock is better (R258, log entry 115). -/
def slavePort (l : Link) : Option Nat :=
  match bestMaster l with
  | none => none
  | some (p, d) => if lexLess Config.clockSet d then none else some p

/-- Whether a port is in the master role: no data set as good as the grandmaster's is announced at it. -/
def masterRole (l : Link) (p : Nat) : Bool :=
  slavePort l != some p && (match tfind l.masters p, bestMaster l with
    | some d, some (_, best) => (slavePort l).isNone || d != best
    | none, _ | some _, none => true)

/-- A PTP message that this chip sends at a port: a TIME flit on Wibin, at the management port an answer (R258, log entry
51). -/
def sendPtp (s : State) (port kind : Nat) : State :=
  let body := Config.ptpBody kind s.link.clock (((bestMaster s.link).map (·.2)).getD Config.clockSet)
  if port = mgmtPort then { s with replies := s.replies ++ [(s.cyc, .ptp kind ((List.range 44).map body))] }
  else sendFlits s port [{ newFlit s.link 8 0 0 with dstep := 0, payload := (List.range 192).map body }]

/-- A sync at a port: its master's data set; at the slave port the clock is set right, and an offset of at most 100 ns
locks it. The grandmaster has no offset from itself. Ports in SYNC with a matching IDENT may then go UP. A peer's delay
request is answered; at the management port the slave asks for one with each sync (R258). -/
def takeSync (s : State) (port : Nat) (p : PtpSync) : State :=
  if p.request then sendPtp s port 3
  else
    let l := { s.link with masters := tset s.link.masters port p.dataSet, lastSync := s.link.elapsed }
    let l :=
      if slavePort l = some port then
        { l with clock := ((l.clock : Int) - p.offset).toNat, time := if p.offset.natAbs ≤ 19200 then .locked else l.time }
      else if (slavePort l).isNone then { l with time := .locked }
      else l
    let s := promoteAll { s with link := l }
    if port = mgmtPort && slavePort l == some mgmtPort then sendPtp s mgmtPort 2 else s

/-- TIME: a sync, or a delay request, over a port. -/
def execTime (port : Nat) (p : PtpSync) (s : State) : Out :=
  let q := portOf s.link port
  if q.carries || q.st = .sync then .next (takeSync s port p) else .next s

/-- PTP_MANAGEMENT_MESSAGE: a sync over the management port. -/
def execPtpManagementMessage (p : PtpSync) (s : State) : Out :=
  if s.mgmt.service = .off then .next s else .next (takeSync s mgmtPort p)

/-- The sync interval of Wibin, 2^-7 s, in 1/192 ns. -/
def syncTime : Nat := 1500000000

/-- Four sync intervals: of 2^-7 s on Wibin, of 2^-3 s on the management port. -/
def holdoverAfter (l : Link) : Nat := 4 * (if slavePort l = some mgmtPort then 16 * syncTime else syncTime)

/-- Whether no valid sync has come for four intervals. -/
def holdoverDue (l : Link) : Bool := l.time == .locked && decide (l.lastSync + holdoverAfter l ≤ l.elapsed)

/-- HOLDOVER: no valid sync for four intervals; the masters announced are gone. -/
def execHoldover (s : State) : Out :=
  if holdoverDue s.link then .next { s with link := { s.link with time := .holdover, masters := [] } } else .next s

/-- Every sync interval of Wibin, one-step syncs leave by every working port in the master role, and every working port
measures the delay to its peer (R258). -/
def sendTimeFlits (s : State) : State :=
  let l := s.link
  if l.elapsed < l.sentSync + syncTime then s
  else
    let ports := (List.range Config.numPorts).filter (fun p => (portOf l p).carries || (portOf l p).st == .sync)
    ports.foldl (fun s p => sendPtp (if masterRole l p then sendPtp s p 0 else s) p 2)
      { s with link := { l with sentSync := l.elapsed } }

/-- Every sync interval of the management port, 2^-3 s, it sends a two-step sync where it is in the master role (R258). -/
def sendMgmtSync (s : State) : State :=
  let l := s.link
  if l.elapsed < l.sentMgmt + 16 * syncTime || s.mgmt.service == .off then s
  else
    let s := { s with link := { l with sentMgmt := l.elapsed } }
    if masterRole l mgmtPort then sendPtp (sendPtp s mgmtPort 0) mgmtPort 1 else s

/-- The chip's own PTP messages of a cycle. -/
def sendTimes (s : State) : State := sendMgmtSync (sendTimeFlits s)

/-- UNSYNC: in HOLDOVER the estimated error reaches W/4. -/
def execUnsync (s : State) : Out :=
  if s.link.time = .holdover then .next { s with link := { s.link with time := .unsync } } else .next s

/-! ## The domain (R247, R248, R257) -/

/-- The domain header and the node table as software has written them. -/
def domainHeader (s : State) : List Byte := readBytes s.mem.qmem 0x1400 64
def domainTable (s : State) : List Byte := readBytes s.mem.qmem 0x1800 2048

/-- Whether an entry keeps its reserved bits 0 and its paths on enabled ports. -/
def entryFits (t : List Byte) (porten n : Nat) : Bool :=
  let e := (t.drop (32 * n)).take 32
  zeroBytes e 0x18 8 && zeroBytes e 1 3 && decide (fieldLE e 0 1 < 2)
    && (List.range 4).all (fun i =>
      let b := fieldLE e (4 + i) 1
      bitsOf b 6 5 == 0 && (!bitOf b 7 || bitOf porten (b % 32)))

/-- Whether an APPLY is accepted. -/
def domainFits (h t : List Byte) : Bool :=
  let porten := fieldLE h 0x0C 4
  zeroBytes h 0x18 40 && zeroBytes h 1 4 && decide (porten < 2 ^ 18) && decide (fieldLE h 0x09 1 ≤ 5)
    && decide (fieldLE h 0x08 1 ≤ 64) && decide (fieldLE h 0x07 1 < fieldLE h 0x08 1)
    && bitOf (fieldLE t (32 * fieldLE h 0x07 1) 1) 0
    && (List.range 64).all (entryFits t porten)

/-- A new EPOCH: collectives and what stands of the old epoch go, and every barrier that counts any of it
aborts with cause PATH; ports that carried messages go back to SYNC (R257). -/
def reformDomain (s : State) : State :=
  let s := (s.link.colls.filter Coll.running).foldl (fun s c => abortColl s c 3) s
  let s := barAll s ((s.link.unacked ++ s.link.queueOut).filterMap (·.ref)) (.abort 3)
  let s := barAll s ((s.link.inbound ++ s.link.partial_).filterMap (fun m => handleBar s m.handle)) (.abort 3)
  let s := barAll s ((s.link.flags.filter (fun f => f.type == typeArrive)).filterMap
    (fun f => handleBar s f.addr)) (.abort 3)
  { s with link := { s.link with
    unacked := [], queueOut := [], inbound := [], flags := [], partial_ := [], controls := [], status := []
    ports := s.link.ports.map (fun (p, q) => (p, if q.carries then { q with st := .sync, ident := none } else q)) } }

/-- A port after its PORTEN bit is applied. -/
def portAfter (s : State) (p : Nat) : State :=
  let q := portOf s.link p
  if !portEnabled s p then
    if q.st = .down ∧ q.retryAt = none then s else updPort s p (fun q => { q with st := .down, retryAt := none })
  else if mayTrain s p then startTraining s p
  else s

/-- Every port in SYNC announces itself. -/
def announce (s : State) : State :=
  (List.range Config.numPorts).foldl (fun s p =>
    if (portOf s.link p).st = .sync then sendFlits s p [identFlit s.link p] else s) s

/-- DOMAIN_APPLY: CTL = 1 of the domain header. -/
def execDomainApply (s : State) : Out :=
  let h := domainHeader s
  let t := domainTable s
  if !domainFits h t then .next { s with link := { s.link with lastSt := 3 } }
  else
    let changed := s.link.epoch != fieldLE h 0x10 8
    let s := if changed then reformDomain s else s
    let s := { s with link := { s.link with
      epoch := fieldLE h 0x10 8, porten := fieldLE h 0x0C 4, wcode := fieldLE h 0x09 1,
      nodes := fieldLE h 0x08 1, self := fieldLE h 0x07 1, lastSt := 0, table := t } }
    let s := (List.range Config.numPorts).foldl portAfter s
    .next (promoteAll (abortPaths (if changed then announce s else s)))

end Sys2Proof.Machine
end

