-- ==== Sys2Proof/Machine/Record.lean ====
section
/-!
DEFINITION. The context table as the command processor shows it (R70, R82, R87), the measurement chain and
the record log (R88 to R91), event rings (R117), and the leaves of the signing keys (R94, R95).
-/
namespace Sys2Proof.Machine

/-! ## Contexts -/

def ctxAt (s : State) (n : Nat) : Context := tget {} s.cp.ctxs n

def updCtx (s : State) (n : Nat) (f : Context → Context) : State :=
  { s with cp := { s.cp with ctxs := tset s.cp.ctxs n (f (ctxAt s n)) } }

/-- Bit of a context's configuration word (R73). -/
def config (s : State) (ctx k : Nat) : Bool := bitOf (ctxField s.cp ctx 0 8) k

/-- CONFIG.EFOK, MEAS, RCPT, DBGPEND. -/
def efok (s : State) (ctx : Nat) : Bool := config s ctx 0
def measured (s : State) (ctx : Nat) : Bool := config s ctx 2
def rcptOk (s : State) (ctx : Nat) : Bool := config s ctx 3
def dbgOk (s : State) (ctx : Nat) : Bool := config s ctx 5

/-- CLUMASK as a number, bit 32·pier + cluster. -/
def cluMask (s : State) (ctx : Nat) : Nat := ctxField s.cp ctx 0x18 16

/-- The clusters of a mask. -/
def maskClusters (m : Nat) : List Nat := (List.range Config.numClusters).filter (bitOf m)

/-- A context that fills its slot. -/
def resident (s : State) (ctx : Nat) : Bool := (ctxAt s ctx).st != .free

def ctxStateCode (c : CtxState) : Nat :=
  match c with
  | .free => 0
  | .ready => 1
  | .running => 2
  | .yielding => 3
  | .switched => 4
  | .faulted => 5

/-- HEAD: 64 zeros before a chain starts. -/
def chainHead (c : Context) : List Byte := if c.chain.isEmpty then List.replicate 64 0 else c.chain

/-- The status block of a slot (R82). -/
def statusBlock (c : Context) (ctx : Nat) : List Byte :=
  natLE 4 (ctxStateCode c.st) ++ natLE 4 (c.gen + 0x10000 * ctx)
    ++ natLE 8 ((c.images.map (fun p => 2 ^ p.1)).sum) ++ natLE 8 c.fault ++ natLE 8 c.seq
    ++ chainHead c ++ natLE 8 c.logHead ++ List.replicate 24 0

/-- The GEN counter of a slot, in the fault-log area (R87). -/
def genAt (ctx : Nat) : Nat := 0x20001800000 + 2 * ctx

def nextGen (s : State) (ctx : Nat) : Nat := (readLE s.mem.phys (genAt ctx) 2 + 1) % 0x10000

def storeGen (s : State) (ctx gen : Nat) : State :=
  { s with mem := { s.mem with phys := writeBytes s.mem.phys (genAt ctx) (natLE 2 gen) } }

/-! ## Time -/

/-- IEEE 1588 time in ns. -/
def timeNs (s : State) : Nat := s.link.clock / 192

/-! ## The chain and the record log (R89 to R91) -/

/-- Writes bytes into the record log of a context, wrapping at its end. A log outside the Cistern takes
none. -/
def logWrite (s : State) (ctx : Nat) (bs : List Byte) : State :=
  let base := ctxField s.cp ctx 0x38 8
  let size := ctxField s.cp ctx 0x40 8
  let key := primaryKey s.cp ctx
  let head := (ctxAt s ctx).logHead
  let mem := if inCistern s.mgmt base size then
      bs.zipIdx.foldl (fun m (b, i) => physWriteByte m key (base + (head + i) % size) b) s.mem
    else s.mem
  updCtx { s with mem := mem } ctx (fun c => { c with logHead := (head + bs.length) % size })

/-- The header of a chain record (R89). -/
def recordHeader (type flags len seq kseq : Nat) : List Byte :=
  natLE 2 type ++ natLE 2 flags ++ natLE 4 len ++ natLE 8 seq ++ natLE 8 kseq ++ natLE 8 0

/-- A record enters a context's chain and log. A context remembers that one of its records has FLAGS bit 0 set (R94). -/
def chainRecord (s : State) (ctx type flags kseq : Nat) (body : List Byte) : State :=
  let c := ctxAt s ctx
  let rec_ := recordHeader type flags body.length (c.seq + 1) kseq ++ body
  logWrite (updCtx s ctx (fun c =>
    { c with seq := c.seq + 1, chain := digest (chainHead c ++ rec_), lossy := c.lossy || flags % 2 == 1 })) ctx rec_

/-- Appends a record to a context's chain and log; with MEAS = 0 none is formed. It enters behind the records of earlier
events, of which an ARGS record may wait for its digest (R92). -/
def appendRecord (s : State) (ctx type flags kseq : Nat) (body : List Byte) : State :=
  if !measured s ctx then s
  else if (ctxAt s ctx).due.isEmpty then chainRecord s ctx type flags kseq body
  else updCtx s ctx (fun c => { c with due := c.due ++ [⟨type, flags, kseq, some body, none⟩] })

/-- A waiting record enters the chain; after an ARGS record the head is MHEAD of its attempt (R92). -/
def chainDue (s : State) (ctx : Nat) (d : DueRecord) : State :=
  let s := chainRecord s ctx d.type d.flags d.kseq (d.body.getD [])
  match d.args with
  | none => s
  | some (kid, attempt) => s.updKernel kid (fun k =>
      if k.relaunches = attempt then { k with mhead := chainHead (ctxAt s ctx) } else k)

/-- The waiting records of a context enter its chain, up to the first whose digest is not complete. -/
def settleDue (s : State) (ctx : Nat) : State :=
  let ds := (ctxAt s ctx).due
  (ds.takeWhile (·.body.isSome)).foldl (fun s d => chainDue s ctx d)
    (updCtx s ctx (fun c => { c with due := ds.dropWhile (·.body.isSome) }))

/-- Device serial. -/
def serialBytes : List Byte := (List.range 16).map Config.serial

/-- C0 (R91). -/
def chainStart (ctx gen : Nat) (nonce : List Byte) : List Byte :=
  digest (ascii ['H', 'J', '9', '-', 'M', 'C'] ++ serialBytes ++ natLE 1 ctx ++ natLE 2 gen ++ nonce)

/-- CLUMASK of the clusters a kernel is bound to. -/
def boundMask (k : Kernel) : Nat := (((k.bind.map clusterOf).eraseDups).map (2 ^ ·)).sum

/-! ## What the command processor reads -/

/-- A byte as the command processor reads it: the home's while a sync page is resident (R221). -/
def cpByte (s : State) (key a : Nat) : Byte :=
  if (tget {} s.ks.pages (a / 0x10000)).resident then memRead s.mem.kmem a else seenByte s.mem key a

/-- Bytes of pieces as the command processor reads them. -/
def cpBytes (s : State) (ps : List (Nat × Nat × Nat)) : List Byte :=
  ps.flatMap (fun (a, key, n) =>
    if a ≥ 0x20000000000 then readPieces s [(a, key, n)] else (List.range n).map (fun i => cpByte s key (a + i)))

/-- The first bytes of a list of pieces, and what is left of it. -/
def takePieces : Nat → List (Nat × Nat × Nat) → List (Nat × Nat × Nat) × List (Nat × Nat × Nat)
  | _, [] => ([], [])
  | n, (a, key, m) :: ps =>
    if n = 0 then ([], (a, key, m) :: ps)
    else if m ≤ n then
      let r := takePieces (n - m) ps
      ((a, key, m) :: r.1, r.2)
    else ([(a, key, n)], (a + n, key, m - n) :: ps)

/-- The pier whose memory holds a physical address; the Well is taken to hang on P0 (log entry 103). -/
def pierOfAddr (a : Nat) : Nat :=
  if a < 0x4000000000 then a / 0x1000000000 else if a < 0x4200000000 then (a - 0x4000000000) / 0x80000000 else 0

/-! ## Digests (R88) -/

/-- A digest joins the work of its pier's hash unit. -/
def startHash (s : State) (ctx : Nat) (use : HashFor) (ps : List (Nat × Nat × Nat)) : State :=
  let h : Hashing := { pier := pierOfAddr (ps.headD (0, 0, 0)).1, ctx := ctx, use := use, left := ps }
  { s with cp := { s.cp with hashing := s.cp.hashing ++ [h] } }

/-- One cycle of a digest: in every second one a permutation, for which the lines of the next 136 bytes are read,
each once and with the contents of that cycle. -/
def hashCycle (s : State) (h : Hashing) : Hashing :=
  if h.cycles % 2 = 1 then { h with cycles := h.cycles + 1 }
  else
    let need := 136 * (h.cycles / 2 + 1) - h.got.length
    let r := takePieces need h.left
    let line := match r.2 with | [] => 0 | (a, _, _) :: _ => (64 - a % 64) % 64
    let q := takePieces (need + line) h.left
    { h with
      left := q.2, got := h.got ++ cpBytes s q.1, cycles := h.cycles + 1
      lossy := h.lossy || q.1.any (fun p => lossyIn s.mem 0 p.1 p.2.2) }

/-- The package cycle by which a digest has to be complete: that of an ARGS record by the start of its kernel (R92). -/
def hashLimit (s : State) (h : Hashing) : Option Nat :=
  match h.use with
  | .args kid _ => (s.kernel? kid).map (·.lastT0)
  | .image .. | .result .. => none

/-- Whether a digest goes before one that has joined its hash unit earlier: the ARGS record of the kernel with the
earliest limit goes first, then the digest that has waited longest (log entry 134). -/
def hashFirst (s : State) (h before : Hashing) : Bool :=
  match hashLimit s h, hashLimit s before with
  | some m, some n => decide (m < n)
  | some _, none => true
  | none, _ => false

/-- The digest that the hash unit of a pier works on, by its place among those in progress. -/
def nextHash (s : State) (pier : Nat) : Option Nat :=
  ((s.cp.hashing.zipIdx.filter (fun x => x.1.pier == pier && !x.1.left.isEmpty)).foldl (fun b x => match b with
    | none => some x
    | some y => if hashFirst s x.1 y.1 then some x else some y) none).map (·.2)

/-- The hash units of the piers in one cycle: each works on one digest. -/
def moveHashes (s : State) : State :=
  let now := (List.range 4).filterMap (nextHash s)
  { s with cp := { s.cp with
      hashing := s.cp.hashing.zipIdx.map (fun (h, i) => if now.contains i then hashCycle s h else h) } }

/-- The place of an attempt's ARGS record among the records of its context: that of the launch, or of the relaunch
(R92). -/
def openArgs (s : State) (kid : Nat) (k : Kernel) : State :=
  updCtx s k.ctx (fun c => { c with due := c.due ++ [⟨3, 0, k.kseq, none, some (kid, k.relaunches)⟩] })

/-- The ARGS record of an attempt, once its argument block is hashed (R90). -/
def fillArgs (s : State) (kid attempt : Nat) (arg : List Byte) (lossy : Bool) : State :=
  match s.kernel? kid with
  | none => s
  | some k =>
    let body := digest k.record ++ digest arg ++ natLE 8 k.argVa ++ natLE 8 k.argLen ++ natLE 1 k.image ++ natLE 7 0
    let fill (d : DueRecord) : DueRecord :=
      if d.args = some (kid, attempt) then { d with flags := if lossy || k.lossy then 1 else 0, body := some body } else d
    settleDue (updCtx s k.ctx (fun c => { c with due := c.due.map fill })) k.ctx

/-- Whether the ARGS record of a kernel's attempt is not yet in the chain. -/
def argsDue (s : State) (kid : Nat) (k : Kernel) : Bool :=
  (ctxAt s k.ctx).due.any (fun d => d.args == some (kid, k.relaunches))

/-- Ends the digests of a context's ARGS records at once, as its seal needs the chain whole. -/
def flushDue (s : State) (ctx : Nat) : State :=
  s.cp.hashing.foldl (fun s h => match h.use with
    | .args kid attempt =>
      if h.ctx = ctx then
        fillArgs { s with cp := { s.cp with hashing := s.cp.hashing.erase h } } kid attempt (h.got ++ cpBytes s h.left)
          (h.lossy || h.left.any (fun p => lossyIn s.mem 0 p.1 p.2.2))
      else s
    | .image .. | .result .. => s) s

/-- The DONE record of a kernel (R90). -/
def appendDone (s : State) (k : Kernel) (status fault cycles : Nat) : State :=
  let s := appendRecord s k.ctx 4 0 k.kseq
    (natLE 4 status ++ natLE 4 fault ++ natLE 8 cycles ++ natLE 16 (boundMask k) ++ natLE 4 k.relaunches
      ++ natLE 4 0)
  updCtx s k.ctx (fun c => { c with cluUnion := Nat.lor c.cluUnion (boundMask k) })

/-! ## Queues of a context -/

def queueAt (s : State) (q : Nat) : Queue := tget {} s.cp.queues q

def updQueue (s : State) (q : Nat) (f : Queue → Queue) : State :=
  { s with cp := { s.cp with queues := tset s.cp.queues q (f (queueAt s q)) } }

/-- The enabled queues of a context. -/
def ctxQueues (s : State) (ctx : Nat) : List Nat :=
  (s.cp.queues.filter (fun p => decide (p.1 < Config.numQueues) && p.2.st != .disabled && p.2.ctx == ctx
    && p.2.gen == (ctxAt s ctx).gen)).map (·.1)

/-- The commands in progress of a context's disabled queues. -/
def movedCommands (s : State) (ctx : Nat) : List Nat :=
  (s.cp.queues.filter (fun p => decide (Config.numQueues ≤ p.1) && p.2.ctx == ctx
    && p.2.gen == (ctxAt s ctx).gen)).map (·.1)

/-- An answer to the outside. -/
def reply (s : State) (r : Reply) : State := { s with replies := s.replies ++ [(s.cyc, r)] }

/-- Posts a 16-byte entry to a queue's event ring, and raises the queue-event interrupt (R117). -/
def postEvent (s : State) (q : Nat) (entry : List Byte) : State :=
  let x := queueAt s q
  if x.evBase = 0 then s
  else
    reply (updQueue { s with mem := { s.mem with qmem := writeBytes s.mem.qmem (x.evBase + 16 * x.evHead) entry } } q
      (fun x => { x with evHead := (x.evHead + 1) % 64 })) (.queueEvent q)

/-- A kernel-end entry, to the compute queues of a context (R116, R117). -/
def postKernelEnd (s : State) (ctx kseq fault status : Nat) : State :=
  (ctxQueues s ctx).foldl (fun s q =>
    if (queueAt s q).kind = 0 then
      postEvent s q (natLE 2 2 ++ natLE 2 status ++ natLE 4 fault ++ natLE 8 kseq)
    else s) s

/-! ## Leaves (R95) -/

/-- Leaves used so far, over all trees. -/
def leavesUsed (cp : CmdProc) : Nat := cp.tree * 2 ^ 20 + cp.leaf

/-- Leaves in all. -/
def leavesAll : Nat := 8 * 2 ^ 20

/-- Uses one leaf; the key-state record is kept beside the Well's bytes (log entry 140). -/
def useLeaf (s : State) : State :=
  { s with cp := { s.cp with
      tree := (leavesUsed s.cp + 1) / 2 ^ 20, leaf := (leavesUsed s.cp + 1) % 2 ^ 20 } }

/-- The signature of a message under a tree and a leaf. -/
def signatureBytes (tree leaf : Nat) (msg : List Byte) : List Byte :=
  (List.range 2820).map (Config.signature tree leaf msg)

end Sys2Proof.Machine
end

