-- ==== Sys2Proof/Machine/Bind.lean ====
section
/-!
DEFINITION. Group declarations (R145 to R148, R152), roles, and the binder (R150, R151).
-/
namespace Sys2Proof.Machine

/-! ## Declarations -/

/-- A level: kind, scope, extent (R148). -/
structure Level where
  kind   : Nat
  scope  : Nat
  extent : Nat
  deriving DecidableEq, Repr

/-- The declared levels, outermost first. -/
def levelsOf (decl : List Byte) : List Level :=
  (List.range (min 8 (fieldLE decl 6 1))).map (fun i =>
    ⟨fieldLE decl (0x10 + 4 * i) 1, fieldLE decl (0x11 + 4 * i) 1, fieldLE decl (0x12 + 4 * i) 2⟩)

/-- Units of a kind in a package, a pier, a cluster quad, a cluster (R146). -/
def unitsIn (kind above : Nat) : Nat :=
  let perPkg := match kind with | 2 => 4 | 3 => 32 | 4 => 128 | 5 => 512 | _ => 1
  match above with
  | 2 => perPkg / 4
  | 3 => perPkg / 32
  | 4 => perPkg / 128
  | _ => perPkg

/-- Natural scope codes of the kinds (R145). -/
def naturalScope (kind : Nat) : Nat := ([5, 4, 3, 3, 2, 1, 1, 0] : List Nat).getD kind 0

/-- Whether the extent of a level is within its bound. -/
def extentFits (above : Nat) (l : Level) (lgrp : Bool) : Bool :=
  1 ≤ l.extent &&
  (match l.kind with
   | 0 => l.extent ≤ 64
   | 1 => l.extent == 1
   | 6 => l.extent ≤ 4
   | 7 => if lgrp then l.extent == 16 else l.extent ≤ 64
   | k => decide (l.extent ≤ unitsIn k above))

/-- Levels from one on: kinds rise, extents and scopes fit, LGRP is followed by LANE. -/
def levelsFit (above : Nat) (lgrp : Bool) : List Level → Bool
  | [] => !lgrp
  | l :: ls =>
    (l.kind ≤ 7) && (!lgrp || l.kind == 7) && extentFits above l lgrp
      && decide (naturalScope l.kind ≤ l.scope) && decide (l.scope ≤ 5)
      && ls.all (fun m => decide (l.kind < m.kind)) && levelsFit l.kind (l.kind == 6) ls

/-- The levels that make roles: from the first below SYS down to CORE (R147). -/
def roleLevels (ls : List Level) : List Level := ls.filter (fun l => 1 ≤ l.kind && l.kind ≤ 5)

/-- Whether a declaration is valid (R146, R148, R152). -/
def declFits (d : List Byte) : Bool :=
  let ls := levelsOf d
  let n := fieldLE d 6 1
  fieldLE d 0 4 == 0x47394A48 && fieldLE d 4 2 == 1 && 1 ≤ n && n ≤ 8 && zeroBytes d 7 9
    && zeroBytes d (0x10 + 4 * n) (32 - 4 * n) && zeroBytes d 0x30 16 && zeroBytes d 0xC0 64
    && (List.range 8).all (fun a => zeroBytes d (0x4C + 16 * a) 4 && decide (budgetOf d a ≤ 65535))
    && zeroBytes d 0x90 48
    && !claimsBay d 1 2 && !claimsBay d 2 0 && !claimsBay d 2 1 && !claimsBay d 3 2
    && levelsFit 1 false ls && (ls.filter (fun l => l.kind == 5)).length == 1 && decide (declRoles d ≤ 512)

/-! ## Units -/

/-- The good cores of a cluster, by physical number (R151). -/
def goodCores (s : State) (cluster : Nat) : List Nat :=
  ((List.range 5).map (5 * cluster + ·)).filter (fun p => !s.mgmt.failed.contains (.core p))

/-- A cluster that serves: not retired, not mapped out, four good cores. -/
def clusterServes (s : State) (cluster : Nat) : Bool :=
  !s.mgmt.clustersOut.contains cluster && decide ((goodCores s cluster).length ≥ 4)

/-- A kernel that holds its clusters: from its acceptance to its end, suspension excepted (R150, R159). -/
def Kernel.holds (k : Kernel) : Bool :=
  k.bound || k.st == .preparing || k.st == .resuming

/-- Whether two declarations claim a common bay for an activity. -/
def commonBays (d e : List Byte) (a : Nat) : Bool :=
  Nat.land (fieldLE d (0x40 + 16 * a) 8) (fieldLE e (0x40 + 16 * a) 8) != 0

/-- What a binding must keep clear of: the other kernels, none for check 8 of R121. -/
def rivals (s : State) (me : Option Nat) : List Kernel :=
  (s.kernels.filter (fun p => p.2.holds && me != some p.1)).map (·.2)

/-- Whether a cluster may be used beside the other kernels. -/
def clusterFree (s : State) (decl : List Byte) (mask : Nat) (others : List Kernel) (testing : Bool)
    (c : Nat) : Bool :=
  bitOf mask c && clusterServes s c && !(testing && (tget {} s.mgmt.clusters c).slice.isSome)
    && others.all (fun k =>
      !k.bind.any (fun p => clusterOf p == c)
        && !(commonBays decl k.decl 1 && k.piers.contains (c / 32))
        && !(commonBays decl k.decl 3 && k.bind.any (fun p => clusterOf p / 4 == c / 4))
        && !(commonBays decl k.decl 4 && k.piers.contains (c / 32)))

/-! ## Filling clusters (R150) -/

/-- Cores in one unit of a kind from PIER (2) to CORE (5). -/
def unitCores (kind : Nat) : Nat :=
  match kind with | 2 => 128 | 3 => 16 | 4 => 4 | _ => 1

/-- What each unit of a kind must hold, as the levels below it: a declared kind as its extent says; units of
a kind that is not declared are filled completely, the last with what is left (R150). -/
def unitNeeds (kind : Nat) : List Level → List (List Level)
  | [] => []
  | l :: rest =>
    if l.kind = kind then List.replicate l.extent rest
    else
      let cap := unitCores kind / unitCores l.kind
      List.replicate (l.extent / cap) ({ l with extent := cap } :: rest)
        ++ (if l.extent % cap = 0 then [] else [{ l with extent := l.extent % cap } :: rest])

/-- The first unit that meets a need, and the units that remain. -/
def firstFit (f : Nat → Option (List Nat)) : List Nat → Option (List Nat × List Nat)
  | [] => none
  | u :: us =>
    match f u with
    | some y => some (y, us)
    | none => (firstFit f us).map (fun p => (p.1, u :: p.2))

/-- Distinct units for a list of needs, the lowest first. -/
def takeUnits (f : List Level → Nat → Option (List Nat)) : List (List Level) → List Nat → Option (List Nat)
  | [], _ => some []
  | need :: needs, us =>
    match firstFit (f need) us with
    | none => none
    | some (y, rest) => (takeUnits f needs rest).map (y ++ ·)

/-- The cluster of each role of a cluster quad, from candidates in order. -/
def fillQuad (ls : List Level) (clusters : List Nat) : Option (List Nat) :=
  takeUnits (fun need c => some (List.replicate ((need.head?.map (·.extent)).getD 1) c)) (unitNeeds 4 ls) clusters

/-- The cluster of each role of a pier, from candidates in order. -/
def fillPier (ls : List Level) (clusters : List Nat) : Option (List Nat) :=
  takeUnits (fun need q => fillQuad need (clusters.filter (fun c => c / 4 == q))) (unitNeeds 3 ls)
    ((clusters.map (· / 4)).eraseDups)

/-- The orders of up to four piers. -/
def pierOrders : List (List Nat) :=
  (List.range 4).flatMap (fun a => ((List.range 4).filter (· ≠ a)).flatMap (fun b =>
    ((List.range 4).filter (fun c => c ≠ a && c ≠ b)).flatMap (fun c =>
      ((List.range 4).filter (fun d => d ≠ a && d ≠ b && d ≠ c)).map (fun d => [a, b, c, d]))))

/-- The cluster of each role when piers are taken in an order. Which roles share a pier follows from the
declaration alone. -/
def fillPiers (ls : List Level) (clusters : List Nat) (order : List Nat) : Option (List Nat) :=
  let needs := unitNeeds 2 ls
  let parts_ := (needs.zip order).map (fun (need, p) => fillPier need (clusters.filter (fun c => c / 32 == p)))
  if needs.length ≤ order.length && parts_.all (·.isSome) then some (parts_.flatMap (·.getD [])) else none

/-- What a binding must meet beside free clusters: each anchor role's pier, given, or any in service; and
inter-pier segments that a rival's bays leave free. -/
structure BindRules where
  anchors : List (Nat × Option Nat)
  onePier : Bool

/-- Whether a Keystone is in service (R39). -/
def keystoneServes (s : State) (pier : Nat) : Bool := !s.ks.lost.contains pier

def rulesMet (s : State) (r : BindRules) (clusters : List Nat) : Bool :=
  r.anchors.all (fun (role, home) =>
    let p := clusters.getD role 0 / 32
    match home with
    | some h => p == h
    | none => keystoneServes s p)
  && (!r.onePier || ((clusters.map (· / 32)).eraseDups).length ≤ 1)

/-- The physical core of each role from its cluster: position j takes the j-th good core. -/
def rolesPhys (s : State) (clusters : List Nat) : List Nat :=
  clusters.zipIdx.map (fun (c, r) =>
    (goodCores s c).getD ((clusters.take r).filter (· == c)).length 0)

/-- The admissible lists of clusters, the lowest for each order of piers. -/
def clusterLists (s : State) (decl : List Byte) (mask : Nat) (others : List Kernel) (testing : Bool)
    (r : BindRules) : List (List Nat) :=
  let ls := (roleLevels (levelsOf decl)).filter (fun l => l.kind != 1)
  let clusters := (List.range Config.numClusters).filter (clusterFree s decl mask others testing)
  (pierOrders.filterMap (fillPiers ls clusters)).filter (rulesMet s r)

/-- The admissible binding with the lowest list of clusters, as the physical core of each role. -/
def findBinding (s : State) (decl : List Byte) (mask : Nat) (others : List Kernel) (testing : Bool)
    (r : BindRules) : Option (List Nat) :=
  (lexLeast (clusterLists s decl mask others testing r)).map (rolesPhys s)

/-- Whether a rival claims common bays on a shaft of the page set (R150). -/
def shaftClash (decl : List Byte) (pages : List PageT) (others : List Kernel) : Bool :=
  others.any (fun k => commonBays decl k.decl 2
    && (pages.flatMap pageShafts).any (fun i => inFootprint k 2 i))

/-- Whether a rival with common NOC bays uses the inter-pier segments. -/
def interPierTaken (decl : List Byte) (others : List Kernel) : Bool :=
  others.any (fun k => commonBays decl k.decl 1 && inFootprint k 1 4)

/-! ## Anchors (R150, R221) -/

/-- The home that a NEAR page has, if it is resident. -/
def nearHome (s : State) (p : PageT) : Option Nat :=
  let x := tget {} s.ks.pages (p.phys / 0x10000)
  if x.resident then some x.home else none

/-- The anchors of a page set with the piers they must lie on. At a launch a page that other kernels hold
NEAR fixes its pier; at a resume or a relaunch every page does. -/
def anchorsOf (s : State) (pages : List PageT) (fixed : Bool) : List (Nat × Option Nat) :=
  (pages.filter (·.near)).map (fun p =>
    (p.anchor, if fixed then some (tget {} s.ks.pages (p.phys / 0x10000)).home else nearHome s p))

/-- Whether some shaft of the pages shows class B (R143). -/
def anyClassB (s : State) (ps : List PageT) : Bool :=
  (ps.flatMap pageShafts).any (fun i => (shaftOf s.mgmt i).half != 0)

/-- Whether the shafts of a kernel's pages offer the class that its image declares (R143, R150). -/
def classFits (s : State) (k : Kernel) : Bool := classB (imageOf s k) || !anyClassB s k.pages

/-- The state as though every test slice had ended. -/
def noSlices (s : State) : State :=
  { s with mgmt := { s.mgmt with clusters := s.mgmt.clusters.map (fun (c, x) => (c, { x with slice := none })) } }

/-- The binding of a kernel at a resume or a relaunch (R151). -/
def rebind (s : State) (kid : Nat) (k : Kernel) : Option (List Nat) :=
  let others := rivals s (some kid)
  if !classFits s k || shaftClash k.decl k.pages others then none
  else
    findBinding s k.decl (cluMask s k.ctx) others true
      { anchors := anchorsOf s k.pages true, onePier := interPierTaken k.decl others }

end Sys2Proof.Machine
end

