-- ==== Sys2Proof/Machine/Launch.lean ====
section
/-!
DEFINITION. Launching a kernel: the checks of R121, the page set and its pools (R216, R217, R227), sync
pages and their homes (R221, R222), and acceptance (R122).
-/
namespace Sys2Proof.Machine

/-! ## A launch as its command names it (R104) -/

/-- A launch: context, image index, record, argument block, its declaration, and its page-set list. -/
structure LaunchReq where
  ctx    : Nat
  index  : Nat
  recVa  : Nat
  argVa  : Nat
  argLen : Nat
  record : List Byte
  decl   : List Byte
  list   : List Byte
  lossy  : Bool
  deriving DecidableEq, Repr

/-- Pages of which the command processor reads bytes: Cistern and Well. -/
def cpReadable (p : PageT) : Bool := p.kind == 0 || p.kind == 3

/-- Bytes of the address space of a context, through its page tables. -/
def ctxBytes (s : State) (ctx va len : Nat) : Option (List Byte) :=
  (tableRange s ctx cpReadable va len).map (readPieces s)

/-- The launch of a LAUNCH command; none when an address of the command is bad (R104). -/
def launchOf (s : State) (ctx : Nat) (cmd : List Byte) : Option LaunchReq :=
  let recVa := fieldLE cmd 16 8
  let argVa := fieldLE cmd 24 8
  let argLen := fieldLE cmd 32 4
  match ctxBytes s ctx recVa 1280 with
  | none => none
  | some rec_ =>
    if argLen ≤ 0x100000 && argLen != 0 && (tableRange s ctx cpReadable argVa argLen).isNone then none
    else
      some { ctx := ctx, index := fieldLE cmd 8 1, recVa := recVa, argVa := argVa, argLen := argLen,
             record := rec_,
             lossy := ((tableRange s ctx cpReadable recVa 1280).getD []).any (fun p => lossyIn s.mem 0 p.1 p.2.2),
             decl := (ctxBytes s ctx (fieldLE rec_ 0x28 8) 256).getD [],
             list := (ctxBytes s ctx (fieldLE rec_ 0x20 8) (16 * min 65536 (fieldLE rec_ 0x0C 4))).getD [] }

/-! ## Check 1: the record (R118) -/

def recordFits (s : State) (r : LaunchReq) : Bool :=
  let x := r.record
  r.recVa % 256 == 0 && fieldLE x 0 4 == 0x4C394A48 && fieldLE x 4 2 == 1 && decide (fieldLE x 6 1 < 4)
    && decide (fieldLE x 7 1 ≤ 15) && decide (fieldLE x 8 1 ≤ 4) && decide (fieldLE x 9 1 ≤ 6)
    && zeroBytes x 0x0A 2 && 1 ≤ fieldLE x 0x0C 4 && fieldLE x 0x0C 4 ≤ 65536
    && (List.range 16).all (fun i => decide (fieldLE x 0x10 8 / 16 ^ i % 16 ≤ 12)) && zeroBytes x 0x70 144
    && (!bitOf (fieldLE x 6 1) 1 || dbgOk s r.ctx)

/-! ## Checks 3 and 4: the image and the declaration (R120, R300) -/

/-- The image of a launch. -/
def launchImage (s : State) (r : LaunchReq) : Option Image := tfind (ctxAt s r.ctx).images r.index

def imgField (im : Image) (off n : Nat) : Nat := fieldLE im.bytes off n

/-- Role section j: LO, HI, ENTRY, TRAP, and its reserved field. -/
def roleSection (im : Image) (j : Nat) : List Nat :=
  let o := imgField im 0x1C 4 + 16 * j
  [imgField im o 2, imgField im (o + 2) 2, imgField im (o + 8) 4, imgField im (o + 12) 4, imgField im (o + 4) 4]

def numSections (im : Image) : Nat := imgField im 0x10 2
def numPoints (im : Image) : Nat := imgField im 0x12 2
def numDrains (im : Image) : Nat := imgField im 0x14 2

/-- The role section of a role; the sections of a well-formed table share no role. -/
def sectionOf (im : Image) (role : Nat) : Option Nat :=
  (List.range (numSections im)).find? (fun j =>
    let x := roleSection im j
    x.getD 0 0 ≤ role && role ≤ x.getD 1 0)

/-- The points of an image, in order (R300). -/
def pointsOf (im : Image) : List Nat :=
  (List.range (numPoints im)).map (fun i => imgField im (imgField im 0x20 4 + 8 * i) 8)

/-- A drain entry: LO, HI, FIRST, END, STUB. -/
def drainEntry (im : Image) (j : Nat) : List Nat :=
  let o := imgField im 0x24 4 + 16 * j
  [imgField im o 2, imgField im (o + 2) 2, imgField im (o + 4) 4, imgField im (o + 8) 4, imgField im (o + 12) 4]

def drainsOf (im : Image) : List (List Nat) := (List.range (numDrains im)).map (drainEntry im)

/-- Whether two drain entries share a role and a byte. -/
def drainsOverlap (a b : List Nat) : Bool :=
  a.getD 0 0 ≤ b.getD 1 0 && b.getD 0 0 ≤ a.getD 1 0 && a.getD 2 0 < b.getD 3 0 && b.getD 2 0 < a.getD 3 0

/-- Whether two role sections share a role. -/
def rolesOverlap (a b : List Nat) : Bool := a.getD 0 0 ≤ b.getD 1 0 && b.getD 0 0 ≤ a.getD 1 0

def ascending : List Nat → Bool
  | [] => true
  | [_] => true
  | a :: b :: rest => decide (a < b) && ascending (b :: rest)

/-- Whether a list holds two entries that a test finds in conflict. -/
def anyPair {α : Type} (f : α → α → Bool) : List α → Bool
  | [] => false
  | x :: xs => xs.any (f x) || anyPair f xs

/-- Whether the tables of an image are well formed (R120, R300). -/
def tablesFit (im : Image) : Bool :=
  (List.range (numSections im)).all (fun j =>
    let x := roleSection im j
    x.getD 4 0 == 0 && decide (x.getD 0 0 ≤ x.getD 1 0) && decide (x.getD 2 0 < im.codeSize)
      && x.getD 3 0 % 64 == 0 && decide (x.getD 3 0 < im.codeSize))
  && !anyPair rolesOverlap ((List.range (numSections im)).map (roleSection im))
  && ascending (pointsOf im)
  && (List.range (numPoints im * numSections im)).all (fun i =>
      decide (imgField im (imgField im 0x20 4 + 8 * numPoints im + 4 * i) 4 < im.codeSize))
  && (drainsOf im).all (fun d => decide (d.getD 0 0 ≤ d.getD 1 0) && decide (d.getD 2 0 < d.getD 3 0)
      && decide (d.getD 3 0 ≤ im.codeSize) && decide (d.getD 4 0 < im.codeSize))
  && !anyPair drainsOverlap (drainsOf im)

/-- Check 3. -/
def imageFits (r : LaunchReq) (im : Image) : Bool :=
  tablesFit im && fieldLE r.record 0x28 8 % 64 == 0 && declFits r.decl
    && (List.range (declRoles r.decl)).all (fun role => (sectionOf im role).isSome)

/-- Check 4: the spacing of points and of TLIMIT (R120). -/
def pointsSpaced (im : Image) (tlimit : Nat) : Bool :=
  let ps := pointsOf im
  match ps.getLast? with
  | none => true
  | some last =>
    decide (ps.headD 0 ≤ 1000000)
      && (ps.zip (ps.drop 1)).all (fun (a, b) => decide (b ≤ a + 1000000))
      && tlimit != 0 && decide (tlimit ≤ last + 1000000)

/-! ## Checks 9 and 10: the page set (R216) -/

/-- An entry of the page-set list. -/
def listEntry (r : LaunchReq) (i : Nat) : List Byte := (r.list.drop (16 * i)).take 16

def numPages (r : LaunchReq) : Nat := fieldLE r.record 0x0C 4

/-- The page of an entry as the kernel sees it: WRITE and NEAR as listed. -/
def entryPage (s : State) (r : LaunchReq) (e : List Byte) : Option PageT :=
  (walk s r.ctx (fieldLE e 0 8)).map (fun p =>
    { p with write := bitOf (fieldLE e 8 1) 0, near := bitOf (fieldLE e 8 1) 1, anchor := fieldLE e 10 2 })

/-- Whether an entry keeps R216. -/
def entryFitsSet (s : State) (r : LaunchReq) (e : List Byte) : Bool :=
  match walk s r.ctx (fieldLE e 0 8) with
  | none => false
  | some p =>
    let write := bitOf (fieldLE e 8 1) 0
    let near := bitOf (fieldLE e 8 1) 1
    zeroBytes e 12 4 && zeroBytes e 9 1 && decide (fieldLE e 8 1 < 4) && p.va == fieldLE e 0 8
      && (!write || (p.write && p.kind != 1)) && (!near || p.kind == 2)
      && (if near then decide (fieldLE e 10 2 < declRoles r.decl) else fieldLE e 10 2 == 0)

/-- The entries of the list; none where it cannot be read. -/
def entriesOf (r : LaunchReq) : List (List Byte) :=
  if r.list.isEmpty then [] else (List.range (numPages r)).map (listEntry r)

/-- The pages of the set that the walk finds. -/
def setPages (s : State) (r : LaunchReq) : List PageT := (entriesOf r).filterMap (entryPage s r)

/-- The pages of a set by VA, kept in list order for pools. -/
def distinctVas (ps : List PageT) : Bool := decide ((ps.map (·.va)).eraseDups.length = ps.length)

/-! ## Pools (R227) -/

/-- The first bytes of a SYNC page: from its home while it is resident, else from its backing. -/
def syncBytes (s : State) (p : PageT) (n : Nat) : List Byte :=
  if (tget {} s.ks.pages (p.phys / 0x10000)).resident then readBytes s.mem.kmem p.phys n
  else physRead s.mem (pageKey s.cp p) p.phys n

/-- The pool of a page, if it is one. -/
def poolOf (s : State) (p : PageT) : Option Pool :=
  let h := syncBytes s p 0x20
  if p.kind = 2 ∧ fieldLE h 0 4 = 0x42394A48 then
    some { va := p.va, phys := p.phys, nseq := fieldLE h 0x0C 2, nlayer := fieldLE h 0x0E 2,
           nbps := fieldLE h 0x10 2, nblk := fieldLE h 0x12 2, arena := fieldLE h 0x18 8 }
  else none

/-- Whether a pool keeps R227. -/
def poolFits (s : State) (ps : List PageT) (p : PageT) (q : Pool) : Bool :=
  let h := syncBytes s p 0x4000
  fieldLE h 4 2 == 1 && zeroBytes h 6 6 && zeroBytes h 0x20 0x3FE0
    && q.nseq != 0 && q.nlayer != 0 && q.nbps != 0 && decide (q.nseq * q.nlayer * q.nbps ≤ 8192)
    && 1 ≤ q.nblk && q.nblk ≤ 4096 && decide (fieldLE h 0x14 2 ≤ q.nblk)
    && (decide (fieldLE h 0x16 2 < q.nblk) || fieldLE h 0x16 2 == 0xFFFF)
    && q.arena % 0x8000 == 0
    && (rangeIn s (findPage ps) (fun p => p.kind == 0 && p.write) (q.nblk + 2) q.arena (q.nblk * 0x8000)).isSome

/-- Check 10. -/
def pageSetFits (s : State) (r : LaunchReq) : Bool :=
  let ps := setPages s r
  fieldLE r.record 0x20 8 % 16 == 0 && !r.list.isEmpty && (entriesOf r).all (entryFitsSet s r)
    && distinctVas ps
    && ps.all (fun p => match poolOf s p with | none => true | some q => poolFits s ps p q)
    && decide ((ps.filter (fun p => (poolOf s p).isSome)).length ≤ 64)

/-! ## Check 11: reach and places (R217, R221, R416) -/

/-- Resident pages of a Keystone. -/
def residentAt (s : State) (pier : Nat) : Nat :=
  (s.ks.pages.filter (fun p => p.2.resident && p.2.home == pier)).length

/-- The pier that a page of a launch goes to; none without room. -/
def placeOf (s : State) (bind : List Nat) (p : PageT) : Option Nat :=
  let x := tget {} s.ks.pages (p.phys / 0x10000)
  let room (pier : Nat) : Bool := keystoneServes s pier && decide (residentAt s pier < 48)
  if x.resident then some x.home
  else if p.near then
    let pier := pierOf (bind.getD p.anchor 0)
    if room pier then some pier else none
  else if room x.home then some x.home
  else (List.range 4).find? room

/-- A range of a sparse memory. -/
def memSlice (m : Memory) (a n : Nat) : Memory := m.filter (fun c => decide (a ≤ c.1) && decide (c.1 < a + n))

/-- A memory without a range. -/
def memClear (m : Memory) (a n : Nat) : Memory := m.filter (fun c => !(decide (a ≤ c.1) && decide (c.1 < a + n)))

/-- Loads a sync page into Keystone SRAM from its backing (R221). -/
def loadPage (s : State) (p : PageT) : State :=
  let key := pageKey s.cp p
  let plain := key = 0 ∧ (s.mem.key.filter (fun t => decide (p.phys / 64 ≤ t.1) && decide (t.1 < p.phys / 64 + 1024))).isEmpty
  let m := memClear s.mem.kmem p.phys 0x10000
  { s with mem := { s.mem with
    kmem := if plain then writeCells m (memSlice s.mem.phys p.phys 0x10000)
            else writeBytes m p.phys (physRead s.mem key p.phys 0x10000)
    ue := s.mem.ue.filter (fun u => !(u.1 == 8 && decide (p.phys / 64 ≤ u.2) && decide (u.2 < p.phys / 64 + 1024))) } }

/-- Makes a sync page resident at its place; none without room. -/
def placePage (bind : List Nat) (s : State) (p : PageT) : Option State :=
  if p.kind ≠ 2 then some s
  else
    let g := p.phys / 0x10000
    let x := tget {} s.ks.pages g
    match placeOf s bind p with
    | none => none
    | some pier =>
      let s := if x.resident then s else loadPage s p
      let y := { x with home := pier, resident := true, near := p.near }
      some { s with ks := { s.ks with pages := tset s.ks.pages g y } }

/-- Makes every sync page of a set resident. -/
def placeAll (bind : List Nat) : State → List PageT → Option State
  | s, [] => some s
  | s, p :: ps => match placePage bind s p with | none => none | some t => placeAll bind t ps

/-- The piers that home sync pages of a set. -/
def syncHomes (s : State) (ps : List PageT) : List Nat :=
  ((ps.filter (fun p => p.kind == 2)).map (fun p => (tget {} s.ks.pages (p.phys / 0x10000)).home)).eraseDups

/-- Kernels whose sync pages and staging lines are held. -/
def Kernel.alive (k : Kernel) : Bool := k.st != .ended && k.st != .faulted

/-- Whether 64 lines are unreserved in every Keystone that homes pages of a set (R416). -/
def linesFree (s : State) (ps : List PageT) : Bool :=
  (syncHomes s ps).all (fun pier =>
    decide ((s.kernels.filter (fun k => k.2.alive && (syncHomes s k.2.pages).contains pier)).length < 4))

/-- Check 11 under a binding. Before the dispatch it passes if some binding of check 8 passes it, and at the dispatch the
binding that is taken has to (R121, R221). -/
def reachFits (s : State) (bind : List Nat) (ps : List PageT) : Bool :=
  decide (((ps.filter (fun p => p.kind != 3)).map (·.size)).sum ≤ 0x4000000000)
    && (match placeAll bind s ps with | none => false | some t => linesFree t ps)

/-! ## The checks in order (R121) -/

/-- The bindings that check 8 looks for, as though no kernel held anything: every NEAR anchor role that the declaration
has lies on a pier whose Keystone is in service. -/
def openBindings (s : State) (r : LaunchReq) : List (List Nat) :=
  let near := (setPages s r).filter (fun p => p.near && decide (p.anchor < declRoles r.decl))
  (clusterLists s r.decl (cluMask s r.ctx) [] false
    { anchors := near.map (fun p => (p.anchor, none)), onePier := false }).map (rolesPhys s)

/-- The code of the first check that fails. -/
def launchReject (s : State) (r : LaunchReq) : Option Nat :=
  if !recordFits s r then some 0x20
  else
    match launchImage s r with
    | none => some (if measured s r.ctx then 0x18 else 0x21)
    | some im =>
      if !imageFits r im then some 0x21
      else if !pointsSpaced im (fieldLE r.record 0x18 8) then some 0x22
      else if fieldLE r.record 8 1 = 4 ∧ !efok s r.ctx then some 0x16
      else if fieldLE r.record 9 1 > 0 ∧ !s.mgmt.full then some 0x14
      else if r.argLen > 0x100000 then some 0x23
      else
        let binds := openBindings s r
        if binds.isEmpty then some 0x08
        else if !classB im && anyClassB s (setPages s r) then some 0x15
        else if !pageSetFits s r then some 0x24
        else if !binds.any (fun bind => reachFits s bind (setPages s r)) then some 0x25
        else none

/-! ## Bindable (R111, R151, R224) -/

/-- A free recovery slot of a context, when one is needed (R224). -/
def freeSlot (s : State) (ctx : Nat) : Option Nat :=
  (List.range 16).find? (fun n => !s.kernels.any (fun k => k.2.slot == ctx && k.2.recSlot == some n))

def needsSlot (ps : List PageT) : Bool := ps.any (fun p => p.kind == 3 && p.write)

/-- Whether the context already has a kernel with a SYS level (R249). -/
def sysTaken (s : State) (ctx : Nat) : Bool :=
  s.kernels.any (fun k => k.2.ctx == ctx && k.2.alive && hasSys k.2.decl)

/-- The binding a launch would take beside some kernels; none while it is not bindable. -/
def launchBinding (s : State) (r : LaunchReq) (others : List Kernel) : Option (List Nat) :=
  let ps := setPages s r
  if hasSys r.decl && sysTaken s r.ctx then none
  else if needsSlot ps && (freeSlot s r.ctx).isNone then none
  else if shaftClash r.decl ps others then none
  else
    findBinding s r.decl (cluMask s r.ctx) others true
      { anchors := anchorsOf s ps false, onePier := interPierTaken r.decl others }

/-! ## Acceptance (R122) -/

/-- The bank codes and the mailboxes of a record. -/
def recordMbox (rec_ : List Byte) : Table Word64 :=
  (List.range 8).filterMap (fun n =>
    let v := fieldLE rec_ (0x30 + 8 * n) 8
    if v = 0 then none else some (n, BitVec.ofNat 64 v))

/-- The constant bank of a record. -/
def recordConst (rec_ : List Byte) : Table Word32 :=
  (List.range 256).filterMap (fun n =>
    let v := fieldLE rec_ (0x100 + 4 * n) 4
    if v = 0 then none else some (n, BitVec.ofNat 32 v))

/-- A core as a launch leaves it: what is not cleared stays (R122, R349, R356, R362, R373, R400). -/
def launchCore (k : Kernel) (im : Image) (kid role : Nat) (c : Core) : Core :=
  let x := roleSection im ((sectionOf im role).getD 0)
  { kid := some kid
    role := role
    attempt := k.relaunches
    pc := x.getD 2 0
    c := recordConst k.record
    bfmt := BitVec.ofNat 64 (fieldLE k.record 0x10 8)
    rmode := BitVec.ofNat 3 (fieldLE k.record 8 1)
    mbox := recordMbox k.record
    tvb := BitVec.ofNat 64 (x.getD 3 0)
    cbase := 0x700000 + im.offset
    codeSize := im.codeSize
    priv := c.priv
    acts := c.acts.map (fun (n, a) => (n, { a with st := .free, use := 0 }))
    wts := c.wts.map (fun (n, w) => (n, { w with st := .free, use := 0 }))
    calib := c.calib
    colMap := c.colMap
    ue := c.ue.filter (fun u => u.1 != 9)
    glitch := c.glitch
    lossyPriv := c.lossyPriv
    found := c.found }

/-- The logical column that a physical column of a macro serves, if any. -/
def columnServed (c : Core) (mac x : Nat) : Option Nat :=
  if x < 128 && tget x c.colMap (mac * 128 + x) == x then some x
  else (List.range 128).find? (fun col => tget col c.colMap (mac * 128 + col) == x)

/-- A failed column's place is taken by a spare column, newly calibrated (R38, log entry 10), and the count of those in
use goes to the spare map (R268). -/
def replaceColumn (s : State) (p mac x : Nat) : State :=
  let c := s.core p
  match columnServed c mac x with
  | none => s
  | some col =>
    let good (y : Nat) : Bool := !s.mgmt.failed.contains (.column p mac y) && (columnServed c mac y).isNone
    match ([128, 129] : List Nat).find? good with
    | none => s
    | some y =>
      let (n, s) := s.takeFree
      writeFaultLog (s.setCore p { c with
        colMap := tset c.colMap (mac * 128 + col) y
        calib := tset c.calib (mac * 130 + y) (Config.spareOffset n) }) faultAreaSize

/-- Every failed column of a core at a launch. -/
def replaceColumns (s : State) (p : Nat) : State :=
  s.mgmt.failed.foldl (fun s u => match u with
    | .column q mac x => if q = p then replaceColumn s p mac x else s
    | .core _ | .lane .. | .keyRow .. | .csramGranule .. | .weightGranule .. => s) s

/-- sr.ctx at a launch (R71). -/
def launchCtxWord (s : State) (ctx : Nat) : Word32 :=
  BitVec.ofNat 32 ((ctxAt s ctx).gen * 0x10000 + (if dbgOk s ctx then 0x200 else 0)
    + (if efok s ctx then 0x100 else 0) + (if measured s ctx then 0x80 else 0) + ctx)

/-- The longest time from acceptance to T0 (R92, R123). -/
def startBound (pages argLen : Nat) : Nat :=
  3600 + ceilDiv (pages - 4096) 64 * 8 + ceilDiv (argLen - 4096) 136 * 2

/-- The argument block of a kernel as pieces of physical memory, through its kept translation (R119). -/
def argPieces (s : State) (k : Kernel) : List (Nat × Nat × Nat) :=
  if k.argLen = 0 then []
  else (rangeIn s (findPage k.argMap) (fun _ => true) (k.argLen / 0x10000 + 2) k.argVa k.argLen).getD []

/-- Steps 3 to 6 of R122 for an attempt of a kernel that has its binding: the hashing for its ARGS record, cores,
streams, start vector. -/
def prepareAttempt (s : State) (kid : Nat) (k : Kernel) (im : Image) : State :=
  let s := if measured s k.ctx then startHash (openArgs s kid k) k.ctx (.args kid k.relaunches) (argPieces s k) else s
  let k := { k with
    st := .preparing, mhead := chainHead (ctxAt s k.ctx), ttc := 0, ran := 0, t0 := none
    lastT0 := s.cyc + startBound k.pages.length k.argLen, preq := none, pskip := 0, limit := false,
    faultWord := 0, kfault := none }
  let s := k.bind.foldl replaceColumns s
  let s := k.bind.zipIdx.foldl (fun s (p, role) => s.updCore p (launchCore k im kid role)) s
  let s := s.setKernel kid k
  let s := match k.recSlot with
    | none => s
    | some _ => writeRecovery s kid 0 (freshRecord k)
  { s with
    streams := s.streams ++ (List.range k.bind.length).map (fun r =>
      { kid := kid, role := r, cmds := [], pbars := [], depoch := 0, epoch := 0, flagUntil := 0, final := none })
    ks := { s.ks with lines := s.ks.lines.filter (fun l => l.kid != kid) } }

/-- The translation of the argument block's pages, kept with the snapshot (R119). -/
def argPages (s : State) (ctx va len : Nat) : List PageT :=
  if len = 0 then []
  else ((List.range (len / 0x10000 + 2)).filterMap (fun i => walk s ctx (va + 0x10000 * i))).eraseDups

/-- A launch is accepted from a queue with its binding; its sync pages are placed. -/
def acceptLaunch (s : State) (q : Nat) (peff : Nat) (r : LaunchReq) (im : Image) (bind : List Nat) : State :=
  let ps := setPages s r
  let kid := s.nextKid
  let kseq := (ctxAt s r.ctx).nextKseq
  let k : Kernel :=
    { ctx := r.ctx, slot := r.ctx, gen := (ctxAt s r.ctx).gen, sctx := launchCtxWord s r.ctx, kseq := kseq, queue := some q,
      st := .preparing, record := r.record, decl := r.decl, image := r.index, argVa := r.argVa,
      argLen := r.argLen, argMap := argPages s r.ctx r.argVa r.argLen, pages := ps,
      pools := ps.filterMap (poolOf s), peff := peff, bind := bind, relaunches := 0,
      ttc := 0, ran := 0, t0 := none, lastT0 := 0, resumeTtc := 0, preq := none, pskip := 0, limit := false,
      point := 0, drained := 0, lastPoint := -1,
      userHold := false, preemptQ := [], deferred := false, saved := [], savedSram := [],
      mhead := [], recSlot := if needsSlot ps then freeSlot s r.ctx else none, faultWord := 0, kfault := none,
      lossy := r.lossy, closed := (0, []) }
  let s := updCtx { s with nextKid := kid + 1 } r.ctx (fun c =>
    { c with nextKseq := kseq + 1, st := if c.st = .ready then .running else c.st })
  prepareAttempt s kid k im

end Sys2Proof.Machine
end

