-- ==== Sys2Proof/Machine/Deflate.lean ====
section
/-!
DEFINITION. Code tables and compressed blocks (R399 to R402): canonical codes and the symbol tables of
RFC 1951, the compressor's deterministic parse, the decoder and its faults.
-/
namespace Sys2Proof.Machine

/-! ## Code tables (R400) -/

/-- The code length of literal/length symbol k. -/
def litLen (im : List Byte) (k : Nat) : Nat := (im.getD (k / 2) 0).toNat / (if k % 2 = 0 then 1 else 16) % 16

/-- The code length of distance symbol k. -/
def distLen (im : List Byte) (k : Nat) : Nat :=
  (im.getD (0x90 + k / 2) 0).toNat / (if k % 2 = 0 then 1 else 16) % 16

/-- Whether a set of lengths is oversubscribed: the sum of 2^(15 − len) exceeds 2^15. -/
def oversubscribed (lens : List Nat) : Bool :=
  (lens.foldl (fun acc l => if l = 0 then acc else acc + 2 ^ (15 - l)) 0) > 2 ^ 15

/-- Whether an image is refused. -/
def tableRefused (im : List Byte) : Bool :=
  fieldLE im 0xA0 4 != 0x43394A48 || !zeroBytes im 0xA4 0x5C
    || oversubscribed ((List.range 288).map (litLen im))
    || oversubscribed ((List.range 32).map (distLen im))
    || litLen im 286 != 0 || litLen im 287 != 0 || distLen im 30 != 0 || distLen im 31 != 0
    || litLen im 256 == 0

/-- The canonical code of symbol k (RFC 1951 Section 3.2.2): the first code of its length, plus the
symbols of that length before it. -/
def canonicalCode (len : Nat → Nat) (syms k : Nat) : Nat :=
  let l := len k
  let count (n : Nat) : Nat := ((List.range syms).filter (fun i => len i == n)).length
  let first := (List.range l).foldl (fun code i => (code + (if i = 0 then 0 else count i)) * 2) 0
  first + ((List.range k).filter (fun i => len i == l)).length

/-! ## Symbols (RFC 1951 Section 3.2.5) -/

/-- Base length and extra bits of length symbols 257 to 285. -/
def lengthRow (s : Nat) : Nat × Nat :=
  if s < 265 then (s - 254, 0)
  else if s < 285 then
    let e := (s - 261) / 4
    (2 ^ e * (4 + (s - 261) % 4) + 3, e)
  else (258, 0)

/-- Base distance and extra bits of distance symbols 0 to 29. -/
def distRow (s : Nat) : Nat × Nat :=
  if s < 4 then (s + 1, 0)
  else
    let e := s / 2 - 1
    (2 ^ e * (2 + s % 2) + 1, e)

/-- The length symbol of a match length. -/
def lengthSym (len : Nat) : Nat :=
  if len = 258 then 285
  else ((List.range 28).map (257 + ·)).foldl (fun b s => if (lengthRow s).1 ≤ len then s else b) 257

/-- The distance symbol of a distance. -/
def distSym (d : Nat) : Nat := (List.range 30).foldl (fun b s => if (distRow s).1 ≤ d then s else b) 0

/-! ## Bits -/

/-- A code of n bits, most significant bit first (RFC 1951 Section 3.1.1). -/
def codeBits (n code : Nat) : List Bool := (List.range n).map (fun i => bitOf code (n - 1 - i))

/-- A number of n bits, least significant bit first. -/
def numBits (n x : Nat) : List Bool := (List.range n).map (bitOf x)

/-- Bits in bytes, least significant bit first, padded with zeros. -/
def packBits : Nat → List Bool → List Byte
  | 0, _ => []
  | k + 1, bs =>
    if bs.isEmpty then []
    else BitVec.ofNat 8 ((bs.take 8).zipIdx.foldl (fun acc (b, i) => if b then acc + 2 ^ i else acc) 0)
      :: packBits k (bs.drop 8)

/-- The bits of bytes. -/
def unpackBits (bs : List Byte) : List Bool := bs.flatMap (fun b => numBits 8 b.toNat)

/-! ## The compressor (R401) -/

def litCode (im : List Byte) (k : Nat) : List Bool :=
  codeBits (litLen im k) (canonicalCode (litLen im) 288 k)

def distCode (im : List Byte) (k : Nat) : List Bool :=
  codeBits (distLen im k) (canonicalCode (distLen im) 32 k)

/-- Length of the match at pos with distance d, at most `most`. -/
def matchLen (a : Array Byte) (pos d : Nat) : Nat → Nat → Nat
  | 0, n => n
  | most + 1, n =>
    if a.getD (pos + n) 0 == a.getD (pos + n - d) 0 then matchLen a pos d most (n + 1) else n

/-- The longest length up to n whose symbol has a code, 3 at least. -/
def codedLen (im : List Byte) (n : Nat) : Nat :=
  (((List.range (n - 2)).map (3 + ·)).filter (fun l => litLen im (lengthSym l) != 0)).foldl max 0

/-- The longest match, and of equal lengths the smallest distance. -/
def bestMatch (im : List Byte) (a : Array Byte) (size pos : Nat) : Nat × Nat :=
  ((List.range pos).map (· + 1)).foldl (fun b d =>
    if distLen im (distSym d) = 0 then b
    else
      let n := codedLen im (matchLen a pos d (min 258 (size - pos)) 0)
      if n > b.1 then (n, d) else b) (0, 0)

/-- The bits of a match. -/
def matchBits (im : List Byte) (len d : Nat) : List Bool :=
  let s := lengthSym len
  let t := distSym d
  litCode im s ++ numBits (lengthRow s).2 (len - (lengthRow s).1)
    ++ distCode im t ++ numBits (distRow t).2 (d - (distRow t).1)

/-- The parse from pos on; none when a byte has no code. -/
def parseBlock (im : List Byte) (a : Array Byte) (size : Nat) : Nat → Nat → Option (List Bool)
  | 0, _ => none
  | fuel + 1, pos =>
    if pos ≥ size then some (litCode im 256)
    else
      let m := bestMatch im a size pos
      if m.1 ≥ 3 then
        match parseBlock im a size fuel (pos + m.1) with
        | none => none
        | some r => some (matchBits im m.1 m.2 ++ r)
      else
        let b := (a.getD pos 0).toNat
        if litLen im b = 0 then none
        else
          match parseBlock im a size fuel (pos + 1) with
          | none => none
          | some r => some (litCode im b ++ r)

/-- The coded payload of a block; an empty table codes nothing. -/
def codedPayload (im : List Byte) (block : List Byte) : Option (List Byte) :=
  if im.isEmpty then none
  else
    match parseBlock im block.toArray block.length (block.length + 1) 0 with
    | none => none
    | some bits => some (packBits (bits.length / 8 + 1) bits)

/-- A block header (R399). -/
def blockHeader (kind len : Nat) : List Byte := natLE 8 (kind * 0x10000 + len)

/-- The slot of a block, and whether it overflows (R178, R401). -/
def slotOf (im : List Byte) (block : List Byte) (size : Nat) : List Byte × Bool :=
  let pad (bs : List Byte) : List Byte := bs ++ List.replicate (size - bs.length) 0
  let raw := if block.length + 8 ≤ size then (pad (blockHeader 2 block.length ++ block), false)
             else (pad (blockHeader 3 0), true)
  match codedPayload im block with
  | none => raw
  | some p => if 8 + p.length ≤ size then (pad (blockHeader 1 p.length ++ p), false) else raw

/-! ## The decoder (R402) -/

/-- Reads one symbol: the code that matches the next bits, and the bits after it. -/
def readSym (len : Nat → Nat) (syms : Nat) (bits : List Bool) : Option (Nat × List Bool) :=
  ((List.range syms).filter (fun k => len k != 0)).findSome? (fun k =>
    let code := codeBits (len k) (canonicalCode len syms k)
    if bits.take (len k) == code then some (k, bits.drop (len k)) else none)

/-- Reads a number of n bits. -/
def readBits (n : Nat) (bits : List Bool) : Option (Nat × List Bool) :=
  if bits.length < n then none
  else some ((bits.take n).zipIdx.foldl (fun acc (b, i) => if b then acc + 2 ^ i else acc) 0, bits.drop n)

/-- How decoding ends: whole, or a fault: true for a bad reference. -/
inductive DecodeEnd where
  | whole
  | fault (reference : Bool)
  deriving DecidableEq, Repr

/-- Copies n bytes from d back. -/
def copyBack (out : Array Byte) (d : Nat) : Nat → Array Byte
  | 0 => out
  | n + 1 => copyBack (out.push (out.getD (out.size - d) 0)) d n

/-- Decodes symbols; a match that would pass B outputs nothing of itself. -/
def decodeSyms (im : List Byte) (size : Nat) : Nat → List Bool → Array Byte → Array Byte × DecodeEnd
  | 0, _, out => (out, .fault false)
  | fuel + 1, bits, out =>
    match readSym (litLen im) 288 bits with
    | none => (out, .fault false)
    | some (k, bits) =>
      if k < 256 then
        if out.size ≥ size then (out, .fault false)
        else decodeSyms im size fuel bits (out.push (BitVec.ofNat 8 k))
      else if k = 256 then (out, if out.size < size then .fault false else .whole)
      else if k > 285 then (out, .fault false)
      else
        match readBits (lengthRow k).2 bits with
        | none => (out, .fault false)
        | some (x, bits) =>
          match readSym (distLen im) 32 bits with
          | none => (out, .fault false)
          | some (t, bits) =>
            if t > 29 then (out, .fault false)
            else
              match readBits (distRow t).2 bits with
              | none => (out, .fault false)
              | some (y, bits) =>
                let len := (lengthRow k).1 + x
                let d := (distRow t).1 + y
                if d > out.size then (out, .fault true)
                else if out.size + len > size then (out, .fault false)
                else decodeSyms im size fuel bits (copyBack out d len)

/-- The output of a slot for a block of `size` bytes: bytes output, and how it ended. -/
def decodeSlot (im : List Byte) (slot : List Byte) (size : Nat) : List Byte × DecodeEnd :=
  let kind := fieldLE slot 2 1
  let len := fieldLE slot 0 2
  if im.isEmpty then ([], .fault false)
  else if kind = 2 then
    if len = size && slot.length ≥ 8 + size then ((slot.drop 8).take size, .whole) else ([], .fault false)
  else if kind ≠ 1 then ([], .fault false)
  else
    let r := decodeSyms im size (size + 2) (unpackBits ((slot.drop 8).take len)) #[]
    (r.1.toList, r.2)

end Sys2Proof.Machine
end

