-- ==== Sys2Proof/Machine/Pump.lean ====
section
/-!
DEFINITION. Pump commands (R389 to R403): descriptors, sides, the geometry of runs and beats, the operand
checks, and the issue of PMP.* and CTAB.LD into the time-sorted buffer.
-/
namespace Sys2Proof.Machine

/-! ## Descriptors (R391) -/

/-- Where a side lies: private, own cluster SRAM, Cistern, remote, Well, or a page of another KIND. -/
inductive Side where
  | priv | csram | cistern | remote | well | other
  deriving DecidableEq, Repr

/-- A beyond-the-boundary side. -/
def Side.far (x : Side) : Bool := x == .remote || x == .well

def dSrc (d : List Byte) : Nat := fieldLE d 0 8
def dDst (d : List Byte) : Nat := fieldLE d 8 8
/-- Count of level k. -/
def dCount (d : List Byte) (k : Nat) : Nat := fieldLE d (0x10 + 2 * k) 2 % 0x1000 + 1
def dSides (d : List Byte) : Nat := fieldLE d 0x1A 1
def dNode (d : List Byte) : Nat := fieldLE d 0x1B 1
def dCrec (d : List Byte) : Nat := fieldLE d 0x1C 4
/-- Stride of level k, 1 to 4, of the source or destination side. -/
def dStride (d : List Byte) (dst : Bool) (k : Nat) : Int :=
  signedOf 32 (fieldLE d (0x20 + 8 * (k - 1) + (if dst then 4 else 0)) 4)
def dWrec (d : List Byte) : Bool := bitOf (dCrec d) 1
def dFpr (d : List Byte) : Bool := bitOf (dCrec d) 0
def dRecord (d : List Byte) : Nat := bitsOf (dCrec d) 19 4 * 16
/-- XARG of gather and scatter (R396). -/
def dIdx (d : List Byte) : Nat := fieldLE d 0x40 4
def dTlen (d : List Byte) : Nat := fieldLE d 0x44 4
def dFill (d : List Byte) : Nat := fieldLE d 0x48 4
/-- XARG of compressed blocks (R398). -/
def dBlock (d : List Byte) : Nat := fieldLE d 0x40 2
def dSlot (d : List Byte) : Nat := fieldLE d 0x42 2
def dNblk (d : List Byte) : Nat := fieldLE d 0x44 2

/-- The opcodes of the mould (R389). -/
def opCp : Nat := 1
def opGth : Nat := 2
def opSct : Nat := 3
def opDec : Nat := 4
def opCmp : Nat := 5
def opCtab : Nat := 6

/-- The VA that a side's first byte names, a block handle resolved (R234). -/
def resolveVa (pools : List Pool) (x : Nat) : Option Nat :=
  if bitOf x 63 then
    match pools[bitsOf x 32 27]? with
    | none => none
    | some p =>
      if bitsOf x 62 33 ≠ 0 || bitsOf x 26 15 ≥ p.nblk then none
      else some (p.arena + bitsOf x 26 15 * 0x8000 + bitsOf x 14 0)
  else some x

/-- The kind of a side by its code in SIDES (R392). -/
def sideOf (k : Kernel) (code x : Nat) : Side :=
  match code with
  | 0 => .priv
  | 1 => .csram
  | 3 => .remote
  | _ =>
    match resolveVa k.pools x with
    | none => .cistern
    | some va =>
      match findPage k.pages va with
      | none => .cistern
      | some p => if p.kind = 0 then .cistern else if p.kind = 3 then .well else .other

def srcSide (k : Kernel) (d : List Byte) : Side := sideOf k (dSides d % 4) (dSrc d)
def dstSide (k : Kernel) (d : List Byte) : Side := sideOf k (dSides d / 4 % 4) (dDst d)

/-! ## Runs (R393) -/

/-- Runs of a command. -/
def runCount (d : List Byte) : Nat := dCount d 1 * dCount d 2 * dCount d 3 * dCount d 4

/-- Index of run r at level k. -/
def runIndex (d : List Byte) (r k : Nat) : Nat :=
  match k with
  | 1 => r % dCount d 1
  | 2 => r / dCount d 1 % dCount d 2
  | 3 => r / (dCount d 1 * dCount d 2) % dCount d 3
  | _ => r / (dCount d 1 * dCount d 2 * dCount d 3) % dCount d 4

/-- The iteration vector at element e of run r (R263). -/
def iterOf (d : List Byte) (r e : Nat) : Word64 :=
  BitVec.ofNat 64 (e + runIndex d r 1 * 2 ^ 12 + runIndex d r 2 * 2 ^ 24 + runIndex d r 3 * 2 ^ 36
    + runIndex d r 4 * 2 ^ 48)

/-- Distance of run r from the side's first byte; `row` replaces the level-1 index on a table side. -/
def runOffset (d : List Byte) (dst : Bool) (r : Nat) (row : Option Nat) : Int :=
  dStride d dst 1 * (row.getD (runIndex d r 1) : Nat) + dStride d dst 2 * (runIndex d r 2 : Nat)
    + dStride d dst 3 * (runIndex d r 3 : Nat) + dStride d dst 4 * (runIndex d r 4 : Nat)

/-- Base address plus a distance, as an integer. -/
def runAddr (d : List Byte) (dst : Bool) (r : Nat) (row : Option Nat) : Int :=
  ((if dst then dDst d else dSrc d) : Nat) + runOffset d dst r row

/-- The sampled code of a private run's bank (R165). -/
def codeOfRun (codes : Word64) (d : List Byte) (dst : Bool) (r : Nat) : Nat :=
  (codes.extractLsb' (4 * ((runAddr d dst r none / 0x10000 % 16).toNat)) 4).toNat

/-- Whether blocks are moved: bytes, whatever the codes (R398). -/
def isBlockOp (op : Nat) : Bool := op == opDec || op == opCmp

/-- The code of one side in run r: the bank's where it is private, else the command's (R394). -/
def sideCode (op : Nat) (codes : Word64) (d : List Byte) (variant : Nat) (side : Side) (dst : Bool)
    (r : Nat) : Nat :=
  if side = .priv && !isBlockOp op then codeOfRun codes d dst r else variant % 16

/-- Bytes of one run under a code. -/
def runBytes (d : List Byte) (code : Nat) : Nat := bytesFor code (dCount d 0)

/-- Whether beats are counted on the destination side (R180). -/
def beatsOnDst (src dst : Side) : Bool := dst == .priv || src != .priv

/-- The code that counts the beats of run r. -/
def beatCode (op : Nat) (codes : Word64) (d : List Byte) (variant : Nat) (src dst : Side) (r : Nat) : Nat :=
  if beatsOnDst src dst then sideCode op codes d variant dst true r
  else sideCode op codes d variant src false r

/-- Bytes before run r on the side that counts the beats. -/
def bytesBefore (op : Nat) (codes : Word64) (d : List Byte) (variant : Nat) (src dst : Side) (r : Nat) :
    Nat :=
  (List.range r).foldl (fun acc i => acc + runBytes d (beatCode op codes d variant src dst i)) 0

/-- n, the number of beats (R393, R398). -/
def beatTotal (op : Nat) (codes : Word64) (d : List Byte) (variant : Nat) (src dst : Side) : Nat :=
  if isBlockOp op then dNblk d * dBlock d / 64
  else ceilDiv (bytesBefore op codes d variant src dst (runCount d)) 64

/-! ## Operand checks (R405) -/

/-- Subcode 1. -/
def badDescriptor (ga : Nat) (d : List Byte) : Bool :=
  ga % 16 != 0 || ga % 0x10000 + 80 > 0x10000 || dSides d / 16 != 0
    || (List.range 5).any (fun k => fieldLE d (0x10 + 2 * k) 2 / 0x1000 != 0)
    || dCrec d / 0x100000 != 0 || bitsOf (dCrec d) 3 2 != 0

/-- Subcode 2: the combinations of R392. A VA in a page of another KIND stands in the place of a Cistern side and
faults at its first beat (R174, R219). -/
def badSides (op : Nat) (src dst : Side) : Bool :=
  let table (x : Side) : Bool := x == .csram || x == .cistern || x == .other
  if op = opCp then (src == .priv && dst == .priv) || (src.far && !table dst) || (dst.far && !table src)
  else if op = opGth then !(table src && dst == .priv)
  else if op = opSct then !(src == .priv && table dst)
  else if op = opDec then !(src == .csram && dst == .priv)
  else !(src == .priv && dst == .csram)

/-- Lowest and highest byte of a cluster SRAM side over every run, and over the whole table (R405). -/
def csramSpan (op : Nat) (codes : Word64) (d : List Byte) (variant : Nat) (side : Side) (dst : Bool) :
    Int × Int :=
  if isBlockOp op then
    let a : Int := ((if dst then dDst d else dSrc d) : Nat)
    (a, a + (dNblk d * dSlot d : Nat))
  else
    let n : Int := (runBytes d (sideCode op codes d variant side dst 0) : Nat)
    let starts : List Int :=
      if op = opGth || op = opSct then
        [runAddr d dst 0 (some 0), runAddr d dst 0 (some (dTlen d - 1))]
      else (List.range (runCount d)).map (fun r => runAddr d dst r none)
    (starts.foldl min (starts.headD 0), starts.foldl max (starts.headD 0) + n)

/-- Whether a cluster SRAM range leaves the SRAM. -/
def outOfCsram (x : Int × Int) : Bool := decide (x.1 < 0) || decide (x.2 > 0x800000)

/-- Whether private run r leaves its bank or its record grid, or holds part of a group (R393). -/
def badRun (codes : Word64) (d : List Byte) (dst : Bool) (r : Nat) : Bool :=
  let a := runAddr d dst r none
  let code := codeOfRun codes d dst r
  decide (a < 0) || decide (a ≥ 0x100000) || codeReserved code
    || (let off := (a % 0x10000).toNat
        off + runBytes d code > 0x10000
          || (if isQ code then
                dCount d 0 % qGroup code != 0 || off % qRecord code != 0
                  || off + runBytes d code > 0x10000 / qRecord code * qRecord code
              else false))

/-- Whether a remote address has a form of R454. -/
def badRemote (x : Nat) : Bool :=
  match bitsOf x 63 62 with
  | 0 => bitsOf x 61 48 != 0
  | 1 => bitsOf x 61 41 != 0 || bitsOf x 31 23 != 0
  | _ => true

/-- The addresses of the pieces of 64 bytes that the runs of a side divide into, in element order. -/
def sectorAddrs (d : List Byte) (variant : Nat) (dst : Bool) : List Nat :=
  (List.range (runCount d)).flatMap (fun r => (List.range (runBytes d (variant % 16) / 64)).map (fun i =>
    ((runAddr d dst r none).toNat + 64 * i) % 2 ^ 64))

/-- The addresses of the sectors of a far side, in element order; none when a run is not whole aligned sectors
(R403). -/
def farSectors (d : List Byte) (variant : Nat) (dst : Bool) : Option (List Nat) :=
  if runBytes d (variant % 16) % 64 ≠ 0
      || (List.range (runCount d)).any (fun r =>
        decide (runAddr d dst r none < 0) || runAddr d dst r none % 64 != 0) then none
  else some (sectorAddrs d variant dst)

/-- The receiver handle of a remote write (R395). -/
def dHandle (d : List Byte) : Nat := fieldLE d 0x40 6

/-- Subcode 3. -/
def badGeometry (s : State) (k : Kernel) (op : Nat) (codes : Word64) (d : List Byte) (variant : Nat) :
    Bool :=
  let src := srcSide k d
  let dst := dstSide k d
  let range := (src == .csram && outOfCsram (csramSpan op codes d variant src false))
    || (dst == .csram && outOfCsram (csramSpan op codes d variant dst true))
  if isBlockOp op then
    !zeroBytes d 0x10 10 || !zeroBytes d 0x20 32 || !zeroBytes d 0x46 10 || dNode d != 0 || range
      || (let a := if op = opDec then dDst d else dSrc d
          a ≥ 0x100000 || a % 0x10000 + dNblk d * dBlock d > 0x10000)
  else
    let q := variant % 16
    let priv := (src == .priv && (List.range (runCount d)).any (badRun codes d false))
      || (dst == .priv && (List.range (runCount d)).any (badRun codes d true))
    let groups := isQ q && dCount d 0 % qGroup q != 0
    let index := op == opGth || op == opSct
    let levels := index && ((List.range 3).any (fun i =>
      dCount d (i + 2) != 1 || dStride d false (i + 2) != 0 || dStride d true (i + 2) != 0))
    let xarg :=
      if index then !zeroBytes d 0x4C 4
      else if dst = .remote then !zeroBytes d 0x46 10
      else !zeroBytes d 0x40 16
    let node := if src == .remote || dst == .remote then !nodeValid s.link (dNode d) else dNode d != 0
    let far :=
      (src.far && (farSectors d variant false).isNone)
        || (dst.far && (farSectors d variant true).isNone)
        || (src == .remote && ((farSectors d variant false).getD []).any badRemote)
        || (dst == .remote && (((farSectors d variant true).getD []).any badRemote
            || (dHandle d != 0 && (handleBad s.link (dHandle d)
                || bitsOf (dHandle d) 47 40 != dNode d || bitsOf (dHandle d) 39 32 != k.ctx))))
    priv || groups || levels || xarg || node || far || range

/-- The checks of R405 for PMP.* in ascending order: the first subcode that fails. -/
def pumpRefused (s : State) (k : Kernel) (op ga gc : Nat) (codes : Word64) (d : List Byte) (variant : Nat) :
    Option Nat :=
  let src := srcSide k d
  let dst := dstSide k d
  let far := src.far || dst.far
  let bar := bitOf variant 4
  if badDescriptor ga d then some 1
  else if badSides op src dst then some 2
  else if badGeometry s k op codes d variant then some 3
  else if (bar && !far) || (!bar && gc != 0) || (bar && gc % 16 != 0) then some 4
  else if isBlockOp op && ((dBlock d != 1024 && dBlock d != 2048 && dBlock d != 4096)
      || dSlot d % 64 != 0 || dSlot d < 128 || dSlot d > dBlock d + 64 || dNblk d == 0 || dNblk d > 64
      || dNblk d * dBlock d > 0x10000 || variant % 16 != 12) then some 5
  else if (dWrec d && far) || (isBlockOp op && dFpr d) || (!dWrec d && dCrec d != 0) then some 6
  else if (op == opGth || op == opSct)
      && (dIdx d % 4 != 0 || dTlen d == 0 || (op == opSct && dFill d != 0)) then some 9
  else none

/-- The checks of R161 and R279 (step 3 of R389). What R161 bars, R392 has refused in step 2 with subcode 2. -/
def pumpBarred (k : Kernel) (op : Nat) (codes : Word64) (d : List Byte) (variant : Nat) : Option Nat :=
  let src := srcSide k d
  let dst := dstSide k d
  if (src == .priv && dst.far) || (dst == .priv && src.far) then some 0xD0
  else if dst == .csram && decide ((csramSpan op codes d variant dst true).2 > 0x700000) then some 0xC0
  else none

/-! ## Issue (R389) -/

/-- HOLD_ISSUE: 0 in a handler, 1 in a drain stub (R132, R137). -/
def holdIssue (c : Core) (k : Eff) : Eff :=
  match c.mode with
  | .task => k
  | .handler => .trap codeHoldIssue 0
  | .stub => .trap codeHoldIssue 1

/-- Steps 4 and 5 of R389, then the buffer. -/
def enterBuffer (s : State) (c : Core) (op start variant barrier : Nat) (d : List Byte) : Eff :=
  let ttc := s.ttcOf c
  if bitOf variant 4 && !c.dir.contains barrier then .trap codeTxbState (BitVec.ofNat 64 barrier)
  else if c.buf.length ≥ 32 then .trap codeSlip (slipInfo ttc 5)
  else if start ≤ ttc then .trap codeSlip (slipInfo ttc 6)
  else .ok { c with
    buf := c.buf ++ [{ op := op, start := start, issue := ttc, mode := modeOf c, variant := variant,
                       barrier := if bitOf variant 4 then barrier else 0, desc := d, codes := c.bfmt,
                       order := c.orders }]
    orders := c.orders + 1 }

/-- The variant field of a pump syllable (R310). -/
def pumpVariant (o : PumpOps) : Nat := o.elem.toNat + (if o.bar then 16 else 0) + o.ctab.toNat * 32

def pumpEffect (op : Nat) (o : PumpOps) (s : State) (c : Core) : Eff :=
  let ga := gAt c o.a
  let gc := (gAt c o.c).toNat
  let v := pumpVariant o
  holdIssue c
    (checkAccess c ga 80 7 (span ga.toNat 80)
      (readChecked c o.hd (span ga.toNat 80)
        (let d := readBytes c.priv ga.toNat 80
         match s.kernelOf c with
         | none => pumpTrap 2
         | some k =>
           match pumpRefused s k op ga.toNat (if o.bar then gc else if o.c = 0 then 0 else 1) c.bfmt d v with
           | some sub => pumpTrap sub
           | none =>
             match pumpBarred k op c.bfmt d v with
             | some info => operandTrap info
             | none => enterBuffer s c op (gAt c o.b).toNat v gc d)))

/-- The registers of the mould. -/
def pumpReads (a b c : BitVec 6) : List RegName := [.g a.toNat, .g b.toNat, .g c.toNat]

def execPmpCp (o : PumpOps) (s : State) : Out :=
  runSlotReads o.hd (pumpReads o.a o.b o.c) s (pumpEffect opCp o s)

def execPmpGth (o : PumpOps) (s : State) : Out :=
  runSlotReads o.hd (pumpReads o.a o.b o.c) s (pumpEffect opGth o s)

def execPmpSct (o : PumpOps) (s : State) : Out :=
  runSlotReads o.hd (pumpReads o.a o.b o.c) s (pumpEffect opSct o s)

def execPmpDec (o : PumpOps) (s : State) : Out :=
  runSlotReads o.hd (pumpReads o.a o.b o.c) s (pumpEffect opDec o s)

def execPmpCmp (o : PumpOps) (s : State) : Out :=
  runSlotReads o.hd (pumpReads o.a o.b o.c) s (pumpEffect opCmp o s)

/-- CTAB.LD enters the buffer with the address of its image in the place of a descriptor's source. -/
def execCtabLd (o : CtabOps) (s : State) : Out :=
  runSlotReads o.hd (pumpReads o.a o.b o.c) s (fun c =>
    let ga := (gAt c o.a).toNat
    holdIssue c
      (if o.c ≠ 0 then pumpTrap 4
       else if ga % 64 ≠ 0 then pumpTrap 0xA
       else enterBuffer s c opCtab (gAt c o.b).toNat (o.ctab.toNat * 32) 0
        (natLE 8 ga ++ List.replicate 72 0)))

end Sys2Proof.Machine
end

