-- ==== Sys2Proof/Machine/PumpRun.lean ====
section
/-!
DEFINITION. Pump commands and CTAB.LD from their start cycle on (R167, R168, R390, R393 to R403): taking
their tiles, the beats of both sides, completion records, completion and its traps.
-/
namespace Sys2Proof.Machine

/-! ## Sides as kept in the state -/

def Side.num (x : Side) : Nat :=
  match x with
  | .priv => 0
  | .csram => 1
  | .cistern => 2
  | .remote => 3
  | .well => 4
  | .other => 5

def Side.ofNum (n : Nat) : Side :=
  match n with
  | 0 => .priv
  | 1 => .csram
  | 2 => .cistern
  | 3 => .remote
  | 4 => .well
  | _ => .other

/-- L of a command: the class latency when a side is the Cistern, else 20; CTAB.LD completes at start + 24
(R180, R400). -/
def pumpLatency (s : State) (k : Kernel) (op : Nat) (src dst : Side) : Nat :=
  if op = opCtab then 24
  else if src == .cistern || dst == .cistern || src == .other || dst == .other then (if classB (imageOf s k) || padded s k then 112 else 96)
  else 20

/-! ## Private ranges and named tiles (R394) -/

/-- The private bytes a command names as sources and as destinations, as ranges. -/
def privateRanges (cmd : PumpCmd) (src dst : Side) : List (Nat × Nat) × List (Nat × Nat) :=
  let d := cmd.desc
  let runs (isDst : Bool) : List (Nat × Nat) :=
    (List.range (runCount d)).map (fun r =>
      ((runAddr d isDst r none).toNat, runBytes d (codeOfRun cmd.codes d isDst r)))
  let record := if dWrec d then [(dRecord d, 48)] else []
  if cmd.op = opCtab then ([(dSrc d, 256)], [])
  else if cmd.op = opDec then ([], (dDst d, dNblk d * dBlock d) :: record)
  else if cmd.op = opCmp then ([(dSrc d, dNblk d * dBlock d)], record)
  else
    ((if src = .priv then runs false else [])
        ++ (if cmd.op = opGth || cmd.op = opSct then [(dIdx d, 4 * dCount d 1)] else []),
     (if dst = .priv then runs true else []) ++ record)

/-- The tiles that hold a range. -/
def tilesOf (r : Nat × Nat) : List Nat :=
  if r.2 = 0 then [] else (List.range ((r.1 + r.2 - 1) / 0x1000 - r.1 / 0x1000 + 1)).map (r.1 / 0x1000 + ·)

/-- A command takes a tile as it starts (R167). -/
def tileEngage (t : Tile) : Tile :=
  match t.st with
  | .core | .given => { st := .engaged, use := 1, toGiven := false }
  | .engaged => { t with use := t.use + 1 }

/-- A command gives a tile back at its completion cycle (R167). -/
def tileReturn (t : Tile) : Tile :=
  match t.st with
  | .engaged =>
    if t.use ≤ 1 then { st := if t.toGiven then .given else .core, use := 0, toGiven := false }
    else { t with use := t.use - 1 }
  | .core | .given => t

/-- Changes tiles of a core. -/
def updTiles (f : Tile → Tile) (c : Core) (ts : List Nat) : Core :=
  ts.foldl (fun c k => { c with tiles := tset c.tiles k (f (tileOf c k)) }) c

/-! ## Far sides -/

/-- The VA of a Cistern side at a distance from its first byte: none past the block of a handle (R234). -/
def sideVa (pools : List Pool) (base : Nat) (dist : Int) (n : Nat) : Option Nat :=
  if bitOf base 63 then
    match resolveVa pools base with
    | none => none
    | some va =>
      let a : Int := (bitsOf base 14 0 : Nat) + dist
      if a < 0 || a + (n : Int) > 0x8000 then none else some ((va : Int) + dist).toNat
  else some (((base : Int) + dist) % 2 ^ 64).toNat

/-- Of information words of PAGE, that of the lowest VA (R219). -/
def lowestPage : List Word64 → Option Word64
  | [] => none
  | i :: is => match lowestPage is with
    | none => some i
    | some j => some (if j >>> 16 < i >>> 16 then j else i)

/-- The distances of the sectors of a destination side from its first byte, in element order. -/
def sectorDists (d : List Byte) (variant : Nat) : List Int :=
  (List.range (runCount d)).flatMap (fun r =>
    (List.range (runBytes d (variant % 16) / 64)).map (fun i => runOffset d true r none + (64 * i : Nat)))

/-- The page check of one sector that a read of the Well or of a remote chip will land (R219, access 1; R234). -/
def landFault (k : Kernel) (base : Nat) (dist : Int) : Option Word64 :=
  match sideVa k.pools base dist 64 with
  | none => some (pageInfo base 1 1)
  | some va => (checkRange k.pages va 64 true (fun p => p.kind == 0)).map (fun (bad, sub) => pageInfo bad 1 sub)

/-- The fault of the start-cycle page checks of a far command (R219, R403): access 4 on the Well side,
subcode 4 on a VA of a remote side, then access 1 where a read's sectors will land. -/
def farPageFault (k : Kernel) (d : List Byte) (variant : Nat) (src dst : Side) : Option Word64 :=
  let sectors (isDst : Bool) : List Nat := (farSectors d variant isDst).getD []
  let well (isDst : Bool) (a : Nat) : Option Word64 :=
    (pageSub k.pages a isDst (fun p => p.kind == 3)).map (pageInfo a 4)
  let remote (a : Nat) : Option Word64 :=
    if bitsOf a 63 62 = 0 && a ≥ 2 ^ 48 then some (pageInfo a 4 4) else none
  let far : List (Option Word64) :=
    if src = .well then (sectors false).map (well false)
    else if dst = .well then (sectors true).map (well true)
    else if src = .remote then (sectors false).map remote
    else (sectors true).map remote
  match lowestPage (far.filterMap id) with
  | some i => some i
  | none =>
    if src.far && (dst == .cistern || dst == .other) then
      lowestPage ((sectorDists d variant).filterMap (landFault k (dDst d)))
    else none

/-- The physical address and key value of a VA of the snapshot. -/
def physKey (s : State) (k : Kernel) (va : Nat) : Nat × Nat :=
  match findPage k.pages va with
  | none => (0, 0)
  | some p => (p.phys + (va - p.va), pageKey s.cp p)

/-- The barrier a command names. -/
def barrierOf (cmd : PumpCmd) : Option Nat := if bitOf cmd.variant 4 then some cmd.barrier else none

/-- The outbound command of a far destination or of a remote read. -/
def farCommand (s : State) (k : Kernel) (c : Core) (cmd : PumpCmd) (src dst : Side) : Option OutCmd :=
  let d := cmd.desc
  let mk_ (kind : OutKind) : OutCmd :=
    { kind := kind, start := cmd.start, epoch := c.epoch, barrier := barrierOf cmd, sent := 0,
      order := cmd.order }
  if dst = .well then
    some (mk_ (.wellWrite (((farSectors d cmd.variant true).getD []).map (physKey s k)) []))
  else if dst = .remote then
    some (mk_ (.remoteWrite (dNode d) ((farSectors d cmd.variant true).getD []) (dHandle d) []))
  else if src = .remote then some (mk_ (.remoteRead (dNode d) ((farSectors d cmd.variant false).getD [])))
  else none

/-- The sectors that a Well read or a remote read will land. -/
def farReads (s : State) (k : Kernel) (c : Core) (kid phys : Nat) (cmd : PumpCmd) (src dst : Side) :
    List PendingRead :=
  if !src.far then []
  else
    let from_ := (farSectors cmd.desc cmd.variant false).getD []
    let to_ := if dst = .csram then sectorAddrs cmd.desc cmd.variant true
      else (sectorDists cmd.desc cmd.variant).map (fun x => (sideVa k.pools (dDst cmd.desc) x 64).getD 0)
    (from_.zip to_).map (fun (a, b) =>
      let first := 0x1000 - b % 0x1000
      let rest := physKey s k (b + first)
      { kid := kid, role := c.role, attempt := c.attempt, barrier := barrierOf cmd,
        dst := if dst = .csram then csramAddr (clusterOf phys) b else (physKey s k b).1,
        dstKind := if dst = .csram then 0 else 1 + (physKey s k b).2,
        src := if src = .well then (physKey s k a).1 else a,
        node := if src = .remote then some (dNode cmd.desc) else none,
        data := if src = .well then some (natLE 8 (physKey s k a).2) else none
        order := cmd.order
        cut := if dst = .csram || 64 ≤ first then none else some (first, rest.1, 1 + rest.2) })

/-! ## Start (R390) -/

/-- A run of a command that starts now. -/
def newRun (s : State) (k : Kernel) (c : Core) (cmd : PumpCmd) (src dst : Side) (tiles : List Nat) : PumpRun :=
  { cmd := cmd, k := 0
    beats := if cmd.op = opCtab then 0
             else beatTotal cmd.op cmd.codes cmd.desc cmd.variant src dst
    lat := pumpLatency s k cmd.op src dst
    srcKind := src.num, dstKind := dst.num
    list := if cmd.op = opGth || cmd.op = opSct then
              (List.range (dCount cmd.desc 1)).map (fun e =>
                BitVec.ofNat 32 (readLE c.priv (dIdx cmd.desc + 4 * e) 4))
            else []
    units := [], nextU := 0, resid := .zero, carry := [], fp := {}, elems := 0, oor := 0, tiles := tiles
    table := if cmd.op = opCtab then readBytes c.priv (dSrc cmd.desc) 256
             else tget [] c.ctab (cmd.variant / 32 % 4)
    trap := none, wsrc := [], wdst := [], stopped := false }

/-- One command starts in its core: slip 1, TXB_ACCESS (which leaves the tiles as they are, R203), the tiles, the
page checks of a far side, the hold of an open region (R270, R390). -/
def startCommand (s : State) (phys : Nat) (cmd : PumpCmd) : State :=
  let c := s.core phys
  match s.kernelOf c with
  | none => s
  | some k =>
    let src : Side := if cmd.op = opCtab then .priv else srcSide k cmd.desc
    let dst : Side := if cmd.op = opCtab then .priv else dstSide k cmd.desc
    let c := { c with buf := c.buf.filter (fun x => x.order != cmd.order) }
    let eng (c : Core) (code : Nat) (info : Word64) : Core := raiseEng c ⟨code, info, 0, 6, true⟩
    if src.far || dst.far then
      match farPageFault k cmd.desc cmd.variant src dst with
      | some info => s.setCore phys (eng c codePage info)
      | none =>
        let out := (farCommand s k c cmd src dst).toList.map (fun o => { o with at_ := s.cyc })
        if out.any (fun o => !o.kind.isRead && holdFull c o.kind.bytes) then
          s.setCore phys (eng c codeRegion 2)
        else
          let c := { c with outNew := c.outNew ++ out }
          let c := if dst.far then { c with runs := c.runs ++ [newRun s k c cmd src dst []] } else c
          { (s.setCore phys c) with
            mem := { s.mem with reads := s.mem.reads ++ farReads s k c (c.kid.getD 0) phys cmd src dst } }
    else
      let (srcR, dstR) := privateRanges cmd src dst
      let srcT := (srcR.flatMap tilesOf).eraseDups
      let dstT := (dstR.flatMap tilesOf).eraseDups
      if (srcR ++ dstR).any (fun r => decide (r.1 + r.2 > 0x100000)) then
        s.setCore phys (eng c codePrivRange
          (BitVec.ofNat 64 (((srcR ++ dstR).find? (fun r => decide (r.1 + r.2 > 0x100000))).getD (0, 0)).1))
      else if srcT.any (fun t => !engineOwned c t) then
        s.setCore phys (eng c codeSlip (slipInfo k.time 1))
      else
        match armedIn c (srcR ++ dstR) with
        | some b => s.setCore phys (eng c codeTxbAccess (BitVec.ofNat 64 b))
        | none =>
          let tiles := (srcT ++ dstT).eraseDups
          let run := newRun s k c cmd src dst tiles
          let c := updTiles tileEngage c tiles
          let table : Nat × Nat := if cmd.op = opCtab then (dSrc cmd.desc, 256)
            else if cmd.op = opGth || cmd.op = opSct then (dIdx cmd.desc, 4 * dCount cmd.desc 1) else (0, 0)
          let bad := if table.2 = 0 then [] else (sectorsOf table.1 table.2).filter (fun u => c.ue.contains (1, u))
          let run := { run with
            stopped := cmd.op == opCtab && !bad.isEmpty
            badRows := if cmd.op = opCtab then []
                       else (List.range run.list.length).filter (fun e => bad.contains ((table.1 + 4 * e) / 64)) }
          let c := bad.foldl (fun c u => consumeUe c 1 (ueInfo 1 (64 * u)) 6 true) c
          s.setCore phys { c with runs := c.runs ++ [run] }

/-- Entries due to start, in start-cycle order, buffer order breaking ties (R390). -/
def insertCmd (x : PumpCmd) : List PumpCmd → List PumpCmd
  | [] => [x]
  | y :: ys =>
    if y.start < x.start || (y.start == x.start && y.order ≤ x.order) then y :: insertCmd x ys else x :: y :: ys

def dueCommands (c : Core) (time : Nat) : List PumpCmd :=
  (c.buf.filter (fun x => decide (x.start ≤ time))).foldl (fun acc x => insertCmd x acc) []

/-- ENGINE_START: every entry of a core whose start cycle has come (R390). -/
def execEngineStart (core : Nat) (s : State) : Out :=
  let c := s.core core
  match s.kernelOf c with
  | none => .next s
  | some k =>
    if k.st == .running && k.flows then
      .next ((dueCommands c k.ttc).foldl (fun s x => startCommand s core x) s)
    else .next s

/-! ## Geometry of units -/

/-- Elements of a unit under a code. -/
def unitSize (code : Nat) : Nat := if isQ code then qGroup code else 1

/-- Bytes of a unit. -/
def unitBytes (code : Nat) : Nat := if isQ code then qRecord code else elemBytes code

/-- Position in its run of the unit that begins at element e. -/
def unitPos (code e : Nat) : Nat := if isQ code then e / qGroup code * qRecord code else e * elemBytes code

/-- Position in its run of the first byte of element e. -/
def firstByte (code e : Nat) : Nat :=
  if isQ code then e / qGroup code * qRecord code + e % qGroup code * qBits code / 8 else e * elemBytes code

/-- Position in its run of the last byte of elements e to e + n − 1, a record's trailer included. -/
def lastByte (code e n : Nat) : Nat :=
  if isQ code then ((e + n - 1) / qGroup code + 1) * qRecord code - 1 else (e + n) * elemBytes code - 1

def PumpRun.src (x : PumpRun) : Side := .ofNum x.srcKind
def PumpRun.dst (x : PumpRun) : Side := .ofNum x.dstKind

def PumpRun.srcCode (x : PumpRun) (r : Nat) : Nat :=
  sideCode x.cmd.op x.cmd.codes x.cmd.desc x.cmd.variant x.src false r

def PumpRun.dstCode (x : PumpRun) (r : Nat) : Nat :=
  sideCode x.cmd.op x.cmd.codes x.cmd.desc x.cmd.variant x.dst true r

/-- The beat that holds position p of run r. -/
def PumpRun.beatOf (x : PumpRun) (r p : Nat) : Nat :=
  (bytesBefore x.cmd.op x.cmd.codes x.cmd.desc x.cmd.variant x.src x.dst r + p) / 64

def PumpRun.beatCode (x : PumpRun) (r : Nat) : Nat :=
  Sys2Proof.Machine.beatCode x.cmd.op x.cmd.codes x.cmd.desc x.cmd.variant x.src x.dst r

/-- The list entry of run r of a gather or scatter (R396). -/
def PumpRun.row (x : PumpRun) (r : Nat) : Nat := (x.list.getD (runIndex x.cmd.desc r 1) 0).toNat

def PumpRun.indexed (x : PumpRun) : Bool := x.cmd.op == opGth || x.cmd.op == opSct

/-- Whether run r of an indexed command names no row of the table. -/
def PumpRun.noRow (x : PumpRun) (r : Nat) : Bool :=
  x.indexed && !x.badRows.contains (runIndex x.cmd.desc r 1) && decide (x.row r ≥ dTlen x.cmd.desc)

def PumpRun.srcRow (x : PumpRun) (r : Nat) : Option Nat := if x.cmd.op = opGth then some (x.row r) else none

def PumpRun.dstRow (x : PumpRun) (r : Nat) : Option Nat := if x.cmd.op = opSct then some (x.row r) else none

/-! ## Bytes of a side -/

/-- Bytes read at a side, the words of the Cistern they come from, and what R89 marks of them; or the fault of the
page check; or the unit with an error. -/
inductive SideBytes where
  | ok (bytes : List Byte) (words : List Nat) (lossy : Bool)
  | page (info : Word64)
  | ue (level unit : Nat)

/-- The aligned 128-byte words of a physical range (R393). -/
def wordsOf (a n : Nat) : List Nat := (List.range ((a + n - 1) / 128 - a / 128 + 1)).map (a / 128 + ·)

/-- Checks a Cistern range: the physical address and key, or the information word of PAGE. -/
def cisternAt (s : State) (k : Kernel) (base : Nat) (dist : Int) (n access : Nat) (write : Bool) :
    Sum Word64 (Nat × Nat) :=
  match sideVa k.pools base dist n with
  | none => .inl (pageInfo base access 1)
  | some va =>
    match checkRange k.pages va n write (fun p => p.kind == 0) with
    | some (bad, sub) => .inl (pageInfo bad access sub)
    | none => .inr (physKey s k va)

/-- Reads n bytes of the source side at a distance from its first byte. -/
def readSide (s : State) (k : Kernel) (phys : Nat) (side : Side) (base : Nat) (dist : Int) (n : Nat) :
    SideBytes :=
  let a := ((base : Int) + dist).toNat
  match side with
  | .priv =>
    match (span a n).find? (fun b => (s.core phys).ue.contains (1, b / 64)) with
    | some b => .ue 1 (b / 64)
    | none => .ok (readBytes (s.core phys).priv a n) [] (privLossy (s.core phys) (span a n))
  | .csram =>
    let a := csramAddr (clusterOf phys) a
    match memUe s.mem 5 a n with
    | some u => .ue 5 u
    | none => .ok (readBytes s.mem.csram a n) [] (lossyIn s.mem 1 a n)
  | .cistern | .remote | .well | .other =>
    match cisternAt s k base dist n 0 false with
    | .inl info => .page info
    | .inr (p, key) =>
      match physUe s p n with
      | some u => .ue 6 u
      | none => .ok (physRead s.mem key p n) (wordsOf p n) (lossyIn s.mem 0 p n)

/-! ## Conversion (R166) -/

/-- The lane words of a source unit. -/
def unitWords (code : Nat) (bs : List Byte) : List Word32 :=
  if isQ code then (List.range (qGroup code)).map (qDecode code bs) else [decodeElem code (leNat bs)]

/-- A word of element e encoded under the code of the destination, with the residual of its row (R58). -/
def encodeUnit (code mode e : Nat) (w : Word32) (resid : Num) : List Byte × Num :=
  let r := encodeElem code mode w (if e % 64 = 0 then .zero else resid)
  (natLE (elemBytes code) r.1, r.2)

/-- Adds word w of element e of run r to the units on their way. -/
def pushWord (x : PumpRun) (r e : Nat) (w : Word32) (lost : Bool) : PumpRun :=
  let code := x.dstCode r
  let dist := runOffset x.cmd.desc true r (x.dstRow r)
  let last (n e0 : Nat) : Nat := x.beatOf r (lastByte (x.beatCode r) e0 n)
  if isQ code then
    let g := qGroup code
    if e % g = 0 then
      { x with units := x.units ++
          [{ dst := dist + (unitPos code e : Nat), bytes := [], elems := [w], beat := last g e,
             place := r * 4096 + e, lost := lost }] }
    else
      match x.units.getLast? with
      | none => x
      | some u =>
        let es := u.elems ++ [w]
        let u := { u with elems := es, lost := u.lost || lost,
                          bytes := if es.length = g then qEncode code x.cmd.mode es else [] }
        { x with units := x.units.dropLast ++ [u] }
  else
    let (bs, resid) := encodeUnit code x.cmd.mode e w x.resid
    { x with
      resid := resid
      units := x.units ++
        [{ dst := dist + (unitPos code e : Nat), bytes := bs, elems := [w], beat := last 1 e,
           place := r * 4096 + e, lost := lost }] }

def pushWords (x : PumpRun) (r e : Nat) (lost : Bool) : List Word32 → PumpRun
  | [] => x
  | w :: ws => pushWords (pushWord x r e w lost) r (e + 1) lost ws

/-- The element of a run that holds its byte p. -/
def elemAt (code p : Nat) : Nat := if isQ code then p / qRecord code * qGroup code else p / elemBytes code

/-- Adds bytes from position p of run r that move unchanged, at the destination beat of their source beat i
(R166, R180). -/
def pushRaw (x : PumpRun) (r p i : Nat) (bs : List Byte) (lost : Bool) : PumpRun :=
  { x with units := x.units ++
      [{ dst := runOffset x.cmd.desc true r (x.dstRow r) + (p : Nat), bytes := bs, elems := [], beat := i,
         place := r * 4096 + elemAt (x.dstCode r) p, lost := lost }] }

/-! ## Source beats -/

/-- What sampling has found in this beat: the run, the core, the words touched, and of the page faults that of
the lowest VA. -/
structure Sampled where
  run   : PumpRun
  core  : Core
  words : List Nat
  fault : Option (Word64 × Word64)

/-- Of two page faults, information word and iteration vector, the one of the lower VA (R219). -/
def lowerFault (old : Option (Word64 × Word64)) (new : Word64 × Word64) : Option (Word64 × Word64) :=
  match old with
  | none => some new
  | some o => some (if new.1 >>> 16 < o.1 >>> 16 then new else o)

/-- Whether run r moves its bytes unchanged (R166). -/
def PumpRun.raw (x : PumpRun) (r : Nat) : Bool := !x.noRow r && x.srcCode r == x.dstCode r

/-- Whether the list entry of run r could not be read (R269). -/
def PumpRun.unread (x : PumpRun) (r : Nat) : Bool := x.indexed && x.badRows.contains (runIndex x.cmd.desc r 1)

/-- Whether run r is not written: no row of the table takes it (R396). -/
def PumpRun.skips (x : PumpRun) (r : Nat) : Bool := x.noRow r && x.cmd.op == opSct

/-- The code in whose units run r is sampled. -/
def PumpRun.unitCode (x : PumpRun) (r : Nat) : Nat :=
  if x.noRow r && x.cmd.op == opGth then x.dstCode r else x.srcCode r

/-- Elements that are sampled together as they enter a private bank: a whole group record of the bank's code (R166,
R180). -/
def PumpRun.together (x : PumpRun) (r : Nat) : Nat := if x.src != .priv && x.dst == .priv then unitSize (x.dstCode r) else 1

/-- Where the unit at position p of run r begins among the bytes that beats are counted in. -/
def PumpRun.firstAt (x : PumpRun) (r p : Nat) : Nat :=
  if x.raw r then p else firstByte (x.beatCode r) (p - p % x.together r)

/-- How far a unit at position p of run r reaches that is sampled in beat i: one element or record, or the bytes of
the run in that beat; a run that is not written is passed over whole. -/
def PumpRun.unitLen (x : PumpRun) (r p i : Nat) : Nat :=
  if x.skips r then dCount x.cmd.desc 0
  else if x.raw r then
    let before := bytesBefore x.cmd.op x.cmd.codes x.cmd.desc x.cmd.variant x.src x.dst r
    min (64 * (i + 1) - before) (runBytes x.cmd.desc (x.srcCode r)) - p
  else unitSize (x.unitCode r)

/-- The run with its next unit's place moved past the unit at position p of run r. -/
def PumpRun.moved (x : PumpRun) (r p i : Nat) : PumpRun :=
  let total := if x.raw r then runBytes x.cmd.desc (x.srcCode r) else dCount x.cmd.desc 0
  let next := p + x.unitLen r p i
  { x with nextU := if next ≥ total then (r + 1) * 0x10000 else r * 0x10000 + next }

/-- One unit of a run whose row the table does not have (R396): the fill, or nothing. -/
def PumpRun.fill (x : PumpRun) (r p i : Nat) : PumpRun :=
  let x := if p = 0 && x.row r != 0xFFFFFFFF then { x with oor := x.oor + 1 } else x
  if x.skips r then x
  else pushWords x r p false (List.replicate (x.unitLen r p i) (BitVec.ofNat 32 (dFill x.cmd.desc)))

/-- One unit read from the source side in beat i (R180). -/
def sampleUnit (s : State) (k : Kernel) (phys i r p : Nat) (z : Sampled) : Sampled :=
  let x := z.run
  let d := x.cmd.desc
  let raw := x.raw r
  let n := x.unitLen r p i
  let size := if raw then n else unitBytes (x.unitCode r)
  let off := if raw then p else unitPos (x.unitCode r) p
  let iter := iterOf d r (if raw then elemAt (x.srcCode r) p else p)
  let x2 := x.moved r p i
  let lost (c : Core) : Sampled :=
    { z with
      run := if raw then pushRaw x2 r p i (List.replicate n 0) true else pushWords x2 r p true (List.replicate n 0)
      core := c }
  if x.unread r then lost z.core
  else
  match readSide s k phys x.src (dSrc d) (runOffset d false r (x.srcRow r) + (off : Nat)) size with
  | .page info => { z with run := x2, fault := lowerFault z.fault (info, iter) }
  | .ue level unit =>
    lost (consumeUeIter z.core level (ueInfo level (64 * unit)) 6 true iter)
  | .ok bs ws l =>
    let x2 := { x2 with lossy := x2.lossy || l }
    { z with
      run := if raw then pushRaw x2 r p i bs false else pushWords x2 r p false (unitWords (x.unitCode r) bs)
      words := z.words ++ ws }

/-- Samples the source units whose first counted byte lies in beat i; every one of them is checked (R219). -/
def sampleUnits (s : State) (k : Kernel) (phys i : Nat) : Nat → Sampled → Sampled
  | 0, z => z
  | fuel + 1, z =>
    let x := z.run
    let r := x.nextU / 0x10000
    let p := x.nextU % 0x10000
    if r ≥ runCount x.cmd.desc || x.beatOf r (x.firstAt r p) > i then z
    else if x.noRow r then sampleUnits s k phys i fuel { z with run := (x.fill r p i).moved r p i }
    else sampleUnits s k phys i fuel (sampleUnit s k phys i r p z)

/-- Uses of one beat of a side, in ascending activity (R393): CSRAM, NOC, SHAFT. -/
def beatUses (s : State) (k : Kernel) (side : Side) (noc : Bool) (words last : List Nat) (c : Core) : Core :=
  let use (c : Core) (a : Nat) : Core :=
    match budgetUse k.decl s.cyc k.time a true c with
    | .ok c => c
    | .over info => raiseEng c ⟨codeBudget, info, 0, 6, true⟩
  let c := if side = .csram then use c 0 else c
  let c := if noc then use c 1 else c
  if words.isEmpty then c
  else if classB (imageOf s k) || padded s k then use c 2
  else ((words.eraseDups).filter (fun w => !last.contains w)).foldl (fun c _ => use c 2) c

/-- Whether a beat crosses the network (R152, R393). -/
def PumpRun.network (x : PumpRun) : Bool :=
  !((x.src == .priv || x.src == .csram) && (x.dst == .priv || x.dst == .csram))

/-- The completion record (R397). -/
def recordBytes (x : PumpRun) (code : Nat) (iter : Word64) : List Byte :=
  natLE 4 (code + x.oor % 0x10000 * 0x100) ++ natLE 4 x.elems ++ natLE 8 iter.toNat
    ++ (if dFpr x.cmd.desc then x.fp.bytes else List.replicate 24 0) ++ List.replicate 8 0

/-- Writes the record in a cycle of the timetable, where the command asks for one. -/
def writeRecord (ttc : Nat) (c : Core) (x : PumpRun) (code : Nat) (iter : Word64) : Core :=
  if dWrec x.cmd.desc && x.cmd.op != opCtab then
    let r := if dFpr x.cmd.desc then shadowedSum (struck c 7) (x.fp, x.fps) else (x.fp, none)
    let c := if dFpr x.cmd.desc then spent c 7 else c
    let x := { x with fp := r.1 }
    let c := match r.2 with
      | some u => shadowFault ttc c u
      | none => c
    engWrite c x.lossy (cellsFrom (dRecord x.cmd.desc) (recordBytes x code iter))
  else c

/-- A PAGE fault at a beat: the command stops, and its record says so (R219, R397). -/
def pageStop (ttc : Nat) (c : Core) (x : PumpRun) (info iter : Word64) : Core :=
  raiseEng (writeRecord ttc c x codePage iter) ⟨codePage, info, iter, 6, true⟩

/-- Source beat i of PMP.DEC and PMP.CMP (R398): bytes of a block join its unit; a block of which a byte cannot be read
is lost (R269). -/
def blockSource (s : State) (k : Kernel) (phys i : Nat) (x : PumpRun) (c : Core) : PumpRun × Core :=
  let d := x.cmd.desc
  let per := dBlock d / 64
  let add (x : PumpRun) (j : Nat) (bs : List Byte) (lost : Bool) : PumpRun :=
    match x.units.find? (fun u => u.place == j) with
    | none => { x with units := x.units ++ [⟨0, bs, [], 0, j, lost⟩] }
    | some _ => { x with units := x.units.map (fun u =>
        if u.place = j then { u with bytes := u.bytes ++ bs, lost := u.lost || lost } else u) }
  let read (x : PumpRun) (c : Core) (j : Nat) (dist : Int) : PumpRun × Core :=
    match readSide s k phys x.src (dSrc d) dist 64 with
    | .ok bs _ l => (add { x with lossy := x.lossy || l } j bs false, c)
    | .ue level unit =>
      (add x j (List.replicate 64 0) true, consumeUeIter c level (ueInfo level (64 * unit)) 6 true
        (BitVec.ofNat 64 (j * 0x1000)))
    | .page _ => (x, c)
  if x.cmd.op = opDec then
    (List.range (dNblk d)).foldl (fun (x, c) j =>
      if per * j ≤ i ∧ i < per * j + dSlot d / 64 then
        read x (beatUses s k .csram false [] [] c) j ((dSlot d * j + 64 * (i - per * j) : Nat) : Int)
      else (x, c)) (x, c)
  else if i < x.beats then read x c (i / per) ((64 * i : Nat) : Int)
  else (x, c)

/-- Source beat of a run in its k-th cycle. -/
def sourceBeat (s : State) (k : Kernel) (phys : Nat) (x : PumpRun) (c : Core) : PumpRun × Core :=
  if x.stopped || x.cmd.op = opCtab then (x, c)
  else if isBlockOp x.cmd.op then blockSource s k phys x.k x c
  else if x.k ≥ x.beats then (x, c)
  else
    let z := sampleUnits s k phys x.k 512 ⟨x, c, [], none⟩
    match z.fault with
    | some (info, iter) => ({ x with stopped := true }, pageStop k.ttc c x info iter)
    | none => ({ z.run with wsrc := z.words }, beatUses s k x.src x.network z.words x.wsrc z.core)

/-! ## Destination beats -/

/-- Values of a landed unit enter the fingerprint (R66, R67). -/
def countUnit (x : PumpRun) (r : Nat) (bs : List Byte) : PumpRun :=
  let code := x.dstCode r
  let r := if dFpr x.cmd.desc then x.fp.steps x.fps ((unitWords code bs).map (laneValue code)) else (x.fp, x.fps)
  { x with elems := x.elems + unitSize code, fp := r.1, fps := r.2 }

/-- Bytes that have landed unchanged: the elements and records that they complete are counted; one of which a byte
was lost is not. -/
def countBytes (x : PumpRun) (r : Nat) (bs : List (Option Byte)) : PumpRun :=
  let n := unitBytes (x.dstCode r)
  let all := x.carry ++ bs
  let whole := all.length / n
  let x := { x with carry := all.drop (n * whole) }
  (pieces n whole all).foldl (fun x u => if u.all (·.isSome) then countUnit x r (u.filterMap id) else x) x

/-- A landed unit is counted. -/
def countLanded (x : PumpRun) (u : PumpUnit) : PumpRun :=
  let r := u.place / 4096
  if u.elems.isEmpty then countBytes x r (u.bytes.map (fun b => if u.lost then none else some b))
  else if u.lost then x
  else countUnit x r u.bytes

/-- The state of a destination beat: run, core, memory, the Cistern words touched, a page fault. -/
structure Landed where
  run   : PumpRun
  core  : Core
  mem   : Mem
  words : List Nat
  fault : Option (Word64 × Word64)

/-- Lands one unit; one that was lost writes nothing, but its place is checked. -/
def landUnit (s : State) (k : Kernel) (phys : Nat) (z : Landed) (u : PumpUnit) : Landed :=
  let d := z.run.cmd.desc
  let x := countLanded z.run u
  let r := u.place / 4096
  let cellsAt (a : Nat) : List (Nat × Byte) := if u.lost then [] else cellsFrom a u.bytes
  let a := ((dDst d : Int) + u.dst).toNat
  match x.dst with
    | .priv =>
      { z with run := x
               core := engWrite z.core x.lossy (cellsAt a) }
    | .csram =>
      let cells := (cellsAt (csramAddr (clusterOf phys) a)).map (fun p => (0, p.1, p.2))
      { z with run := x, mem := queueWrites z.mem x.lossy cells }
    | .cistern | .remote | .well | .other =>
      match cisternAt s k (dDst d) u.dst u.bytes.length 1 true with
      | .inl info => { z with fault := lowerFault z.fault (info, iterOf d r (u.place % 4096)) }
      | .inr (p, key) =>
        let cells := (cellsAt p).map (fun q => (1 + key, q.1, q.2))
        { z with run := x, mem := queueWrites z.mem x.lossy cells,
                 words := z.words ++ wordsOf p u.bytes.length }

/-- The output of block j of PMP.DEC from the bytes of its slot sampled so far. Where a beat needs a byte before
its source beat, the decoder sees the byte that stands there now (log entry 101). -/
def blockOutput (s : State) (phys : Nat) (x : PumpRun) (j : Nat) : List Byte × DecodeEnd :=
  let d := x.cmd.desc
  let got := match x.units.find? (fun u => u.place == j) with | none => [] | some u => u.bytes
  let rest := readBytes s.mem.csram
    (csramAddr (clusterOf phys) (dSrc d + dSlot d * j + got.length)) (dSlot d - got.length)
  decodeSlot x.table (got ++ rest) (dBlock d)

/-- The trap of a block that does not decode (R402). -/
def blockTrap (j : Nat) (out : List Byte) (reference : Bool) : Nat × Word64 × Word64 :=
  (if reference then codeDecompRef else codeDecompCode, BitVec.ofNat 64 (j + out.length * 0x10000),
   BitVec.ofNat 64 (j * 0x1000))

/-- Whether block j is lost: a byte of it could not be read (R269). -/
def PumpRun.lostBlock (x : PumpRun) (j : Nat) : Bool := x.units.any (fun u => u.place == j && u.lost)

/-- Destination beat i of PMP.DEC (R402): the last beat of a block, whose slot has then been sampled whole, decides
what the command will report. A beat of a lost block writes nothing. -/
def decodeBeat (s : State) (phys i : Nat) (x : PumpRun) (c : Core) : PumpRun × Core :=
  let d := x.cmd.desc
  let per := dBlock d / 64
  let j := i / per
  if x.lostBlock j then (x, c)
  else
  let out := if x.trap.isSome then ([], DecodeEnd.whole) else blockOutput s phys x j
  let x := if x.trap.isNone && i % per = per - 1 then
      match out.2 with
      | .whole => x
      | .fault ref => { x with trap := some (blockTrap j out.1 ref) }
    else x
  let bs := ((out.1 ++ List.replicate (dBlock d - out.1.length) 0).drop (64 * (i % per))).take 64
  ({ x with elems := x.elems + 16 },
   engWrite c x.lossy (cellsFrom (dDst d + 64 * i) bs))

/-- Destination beat i of PMP.CMP: the slot of a block lands with its last beat (R398, R401, R178); that of a lost block
is not written. -/
def encodeBeat (s : State) (k : Kernel) (phys i : Nat) (x : PumpRun) (c : Core) (m : Mem) :
    PumpRun × Core × Mem :=
  let d := x.cmd.desc
  let per := dBlock d / 64
  if (i + 1) % per ≠ 0 || x.lostBlock (i / per) then (x, c, m)
  else
    let j := i / per
    let block := match x.units.find? (fun u => u.place == j) with | none => [] | some u => u.bytes
    let done_ := x.trap.isSome
    let r := if done_ then (blockHeader 3 0 ++ List.replicate (dSlot d - 8) 0, false)
             else slotOf x.table block (dSlot d)
    let x := if r.2 then
        { x with trap := some (codeCmpOvf, BitVec.ofNat 64 j, BitVec.ofNat 64 (j * 0x1000)) } else x
    let c := (List.range (dSlot d / 64)).foldl (fun c _ => beatUses s k .csram false [] [] c) c
    let cells := (cellsFrom (csramAddr (clusterOf phys) (dDst d + dSlot d * j)) r.1).map
      (fun p => (0, p.1, p.2))
    ({ x with elems := x.elems + dSlot d / 4 }, c, queueWrites m x.lossy cells)

/-- The numbers of the sectors that hold the lost bytes of units joined to n bytes already sampled. -/
def lostSectors (n : Nat) : List PumpUnit → List Nat
  | [] => []
  | u :: us => (if u.lost && !u.bytes.isEmpty then sectorsOf n u.bytes.length else []) ++ lostSectors (n + u.bytes.length) us

/-- Appends sampled units to an outbound command; `lossy` says what R89 marks of them. -/
def appendUnits (us : List PumpUnit) (lossy : Bool) (o : OutCmd) : OutCmd :=
  let bs := us.flatMap (·.bytes)
  let joined (old : List Byte) (kind : OutKind) : OutCmd :=
    { o with kind := kind, lossy := o.lossy || lossy, lost := (o.lost ++ lostSectors old.length us).eraseDups }
  match o.kind with
  | .wellWrite ss old => joined old (.wellWrite ss (old ++ bs))
  | .remoteWrite n ss h old => joined old (.remoteWrite n ss h (old ++ bs))
  | .remoteRead _ _ | .arrive _ | .coll _ | .fence _ => o

/-- Where an outbound command of a core waits: new, held by a region, or in the stream. -/
def sampleOut (s : State) (phys kid role order : Nat) (us : List PumpUnit) (lossy : Bool) : State :=
  let f (o : OutCmd) : OutCmd := if o.order = order then appendUnits us lossy o else o
  let s := s.updCore phys (fun c =>
    { c with outNew := c.outNew.map f, regions := c.regions.map (fun r => { r with hold := r.hold.map f }) })
  { s with streams := s.streams.map (fun st =>
      if st.kid = kid ∧ st.role = role then { st with cmds := st.cmds.map f } else st) }

/-- The cycle of one started command: source beat k, destination beat k − L, the record with the last. -/
def runBeat (s : State) (phys : Nat) (order : Nat) : State :=
  let c := s.core phys
  match s.kernelOf c, c.runs.find? (fun x => x.cmd.order == order) with
  | some k, some x =>
    let (x, c) := sourceBeat s k phys x c
    let (x, c, m) :=
      if x.stopped || x.cmd.op = opCtab || x.dst.far || x.k < x.lat then (x, c, s.mem)
      else
        let i := x.k - x.lat
        if i ≥ x.beats then (x, c, s.mem)
        else if x.cmd.op = opDec then
          let (x, c) := decodeBeat s phys i x c
          (x, c, s.mem)
        else if x.cmd.op = opCmp then encodeBeat s k phys i x c s.mem
        else
          let now := x.units.filter (fun u => decide (u.beat ≤ i))
          let z := now.foldl (landUnit s k phys)
            ⟨{ x with units := x.units.filter (fun u => decide (u.beat > i)) }, c, s.mem, [], none⟩
          match z.fault with
          | some (info, iter) => ({ x with stopped := true }, pageStop k.ttc c x info iter, s.mem)
          | none => ({ z.run with wdst := z.words }, beatUses s k x.dst false z.words x.wdst z.core, z.mem)
    let c := if !x.stopped && x.cmd.op != opCtab && !x.dst.far && x.k + 1 == x.lat + x.beats
        && (x.trap.isNone || x.cmd.op == opCmp) then
        writeRecord k.ttc c x
          (match x.trap with | none => 0 | some t => t.1) (match x.trap with | none => 0 | some t => t.2.2)
      else c
    let sent := x.units
    let x := { x with k := x.k + 1, units := if x.dst.far then [] else x.units }
    let c := { c with runs := c.runs.map (fun y => if y.cmd.order = order then x else y) }
    let s := { (s.setCore phys c) with mem := m }
    if x.dst.far then sampleOut s phys (c.kid.getD 0) c.role order sent x.lossy else s
  | none, _ | some _, none => s

/-- The started commands of a core in issue order, the later buffer entry last (R169). -/
def runOrders (c : Core) : List Nat := (c.runs.map (·.cmd.order)).foldl
  (fun acc n => acc.takeWhile (· ≤ n) ++ [n] ++ acc.dropWhile (· ≤ n)) []

/-- The beats of a core in one cycle: pump commands, then the array. -/
def runBeats (phys : Nat) (s : State) : State :=
  let s := if flowsFor s (s.core phys) false then
      (runOrders (s.core phys)).foldl (fun s n => runBeat s phys n) s else s
  arrayBeats phys s

/-! ## Completion (R167, R178, R400, R402) -/

/-- Whether a command has reached its completion cycle. -/
def PumpRun.over (x : PumpRun) : Bool := decide (x.k ≥ (if x.dst.far then 0 else x.lat) + x.beats)

/-- ENGINE_COMPLETE of one command: its tiles return, and a trap kept for this cycle is raised. -/
def completeRun (ttc : Nat) (c : Core) (x : PumpRun) : Core :=
  let c := updTiles tileReturn c x.tiles
  match x.trap with
  | none => c
  | some (code, info, iter) =>
    let c := if code = codeDecompRef || code = codeDecompCode then
        writeRecord ttc c x code iter else c
    raiseEng c ⟨code, info, iter, 6, true⟩

/-- ENGINE_COMPLETE: every command of the core in its completion cycle (R167, R168). -/
def execEngineComplete (core : Nat) (s : State) : Out :=
  let c := s.core core
  if flowsFor s c false then
    let ended := c.runs.filter PumpRun.over
    .next (s.setCore core (ended.foldl (completeRun (s.ttcOf c)) { c with runs := c.runs.filter (fun x => !x.over) }))
  else .next s

/-- CTAB_LD_COMPLETE: the slot is written at the end of start + 23; a refused image empties it (R400). -/
def execCtabLdComplete (core : Nat) (s : State) : Out :=
  let c := s.core core
  let due (x : PumpRun) : Bool := x.cmd.op == opCtab && x.k == 24 && !x.stopped
  let one (c : Core) (x : PumpRun) : Core :=
    { c with ctab := if tableRefused x.table then tdel c.ctab (x.cmd.variant / 32 % 4)
                     else tset c.ctab (x.cmd.variant / 32 % 4) x.table }
  let mark (x : PumpRun) : PumpRun :=
    if due x then
      { x with stopped := true,
               trap := if tableRefused x.table then some (codeIllegalOperand, 0x5B, 0) else none }
    else x
  let c2 := (c.runs.filter due).foldl one c
  .next (s.setCore core { c2 with runs := c2.runs.map mark })

end Sys2Proof.Machine
end

