-- ==== Sys2Proof/Machine/Frame.lean ====
section
/-!
DEFINITION. The frames of a suspended kernel in the save area (R83, R139, R435).
-/
namespace Sys2Proof.Machine

/-! ## The control block (R139) -/

/-- The listed bytes of a record as cells from an address. -/
def bytesAt (base : Nat) (bs : List Byte) : Memory :=
  (bs.zipIdx.filter (fun (b, _) => b != unwritten)).map (fun (b, i) => (base + i, b))

def range64 : List Nat := List.range 64

/-- A loop-stack level in 32 bytes. -/
def loopBytes (l : LoopLevel) : List Byte :=
  natLE 4 l.n ++ natLE 4 l.j ++ natLE 4 l.start ++ natLE 4 l.stop ++ natLE 1 (if l.modulo then 2 else 1)
    ++ natLE 1 l.ii ++ natLE 1 l.stages ++ natLE 13 0

/-- A buffered command in 128 bytes, the last 96 of them the captured command of R389. -/
def commandBytes (x : PumpCmd) : List Byte :=
  natLE 8 x.start ++ natLE 8 x.issue ++ natLE 1 x.mode ++ natLE 1 1 ++ natLE 14 0
    ++ (x.desc ++ List.replicate (80 - x.desc.length) 0).take 80
    ++ natLE 2 x.variant ++ natLE 1 x.op ++ natLE 1 0 ++ natLE 4 x.barrier ++ natLE 8 x.codes.toNat

/-- The special registers that a frame keeps (R434, R435). -/
def savedSrs : List Nat :=
  [0x00A, 0x00D, 0x00E, 0x00F, 0x014, 0x015] ++ (List.range 24).map (0x020 + ·)
    ++ (List.range 8).map (0x100 + ·)

def srOffset (n : Nat) : Nat := if n < 0x040 then 0x5600 + 8 * n else 0x5800 + 8 * (n - 0x100)

def slotCode (x : SlotState) : Nat :=
  match x with
  | .free => 0
  | .claimed => 1
  | .loading | .loaded => 2

def entryCode (x : EntryState) : Nat :=
  match x with
  | .free => 0
  | .opened => 1
  | .queued | .popping => 2

/-- A number with the bits of a test. -/
def bitSum (n : Nat) (f : Nat → Bool) : Nat :=
  (List.range n).foldl (fun acc i => if f i then acc + 2 ^ i else acc) 0

/-- The pieces of a control block in ascending offset. The next bundle address of a core in a stub is the
one the point found (R137). -/
def controlPieces (s : State) (k : Kernel) (c : Core) : List (Nat × List Byte) :=
  [(0x0000, range64.flatMap (fun r => natLE 8 (gRead c r).toNat)),
   (0x0200, range64.flatMap (fun r => range64.flatMap (fun i => natLE 4 (lane (vRead c r) i).toNat))),
   (0x4200, (List.range 16).flatMap (fun r => natLE 8 (mRead c r).toNat)),
   (0x4280, (List.range 8).flatMap (fun r => natLE 8 (xRead c r).toNat)),
   (0x42C0, natLE 8 (bitSum 16 (pRead c))),
   (0x4300, range64.flatMap (fun r => natLE 8 (fRead c r).toNat)),
   (0x4500, c.loops.reverse.flatMap loopBytes),
   (0x45C0, natLE 8 (c.taskFrom.getD c.pc) ++ natLE 8 (if c.nextAt > k.point then c.nextAt else 0)
     ++ natLE 8 (if c.done then 1 else 0) ++ natLE 8 c.dly ++ natLE 8 c.br),
   (0x4600, (dueCommands c (2 ^ 64)).flatMap commandBytes)]
  ++ savedSrs.map (fun n => (srOffset n, natLE 8 (srValue s c n).toNat))
  ++ [(0x5A00, (List.range 8).flatMap (fun e => natLE 4 (ringOf c e).e.toNat) ++ natLE 1 c.head ++ natLE 1 c.tail
        ++ natLE 1 (bitSum 8 (fun i => (wtOf c i).st != .free)) ++ natLE 1 (bitSum 8 (fun i => (actOf c i).st != .free))),
      (0x5A40, natLE 32 (bitSum 256 (engineOwned c))),
      (0x5A60, (List.range 8).flatMap (fun a => natLE 4 (tget 0 c.counts a))),
      (0x5A80, c.dir.flatMap (fun a => natLE 4 (2 ^ 31 + a / 16))),
      (0x5C00, (List.range 256).flatMap (fun r => natLE 4 (cRead c r).toNat)),
      (0x6000, (List.range 4).flatMap (fun n =>
        let t := tget [] c.ctab n
        (t ++ List.replicate (4096 - t.length) 0).take 4096)),
      (0xA000, (List.range 32).flatMap (fun n =>
        let t := (tget (0, []) c.store n).2
        (t ++ List.replicate (512 - t.length) 0).take 512)),
      (0xE000, natLE 8 k.kseq ++ natLE 8 k.point ++ natLE 4 c.role ++ natLE 4 1),
      (0xE100, (List.range 8).flatMap (fun n => natLE 1 (slotCode (actOf c n).st) ++ natLE 1 (actOf c n).code
        ++ natLE 1 (actOf c n).rows ++ natLE 5 0)),
      (0xE140, (List.range 8).flatMap (fun n => natLE 1 (slotCode (wtOf c n).st)
        ++ natLE 1 (if (wtOf c n).int4 then 1 else 0) ++ natLE 6 0)),
      (0xE180, (List.range 8).flatMap (fun n => natLE 1 (entryCode (ringOf c n).st)
        ++ natLE 1 (if (ringOf c n).clipAny then 1 else 0) ++ natLE 6 0)),
      (0xE1C0, (List.range 32).flatMap (fun n => match tfind c.store n with
        | none => natLE 4 0
        | some (tag, _) => natLE 4 (2 ^ 31 + tag))),
      (0xE240, natLE 4 c.epoch ++ natLE 1 (bitSum 4 (fun n => (tfind c.ctab n).isSome)) ++ natLE 3 0)]

/-! ## A core frame (R83) -/

/-- The written bytes of a core frame. -/
def frameCells (s : State) (k : Kernel) (c : Core) : Memory :=
  c.priv.filter (fun p => decide (p.1 < 0x100000))
    ++ (List.range 8).flatMap (fun e => (ringOf c e).vals.flatMap (fun (i, w) =>
        bytesAt (0x100000 + 0xC000 * e + 4 * i) (natLE 4 w.toNat)))
    ++ (List.range 8).flatMap (fun n => bytesAt (0x160000 + 0x4000 * n) (actOf c n).bytes)
    ++ (List.range 8).flatMap (fun n => bytesAt (0x180000 + 0x4000 * n) (wtOf c n).bytes)
    ++ (controlPieces s k c).flatMap (fun (o, bs) => bytesAt (0x1A0000 + o) bs)

/-- The cells of a list that keep the canonical form: addresses rising from `lo` and below `hi`, no byte
equal to an unlisted one. -/
def canonCells (lo hi : Nat) : List (Nat × Byte) → Memory
  | [] => []
  | (a, b) :: rest =>
    if lo ≤ a ∧ a < hi ∧ b ≠ unwritten then (a, b) :: canonCells (a + 1) hi rest else canonCells lo hi rest

/-- Replaces a range of physical memory, whole sectors, under a key value. -/
def replaceRange (m : Mem) (key base len : Nat) (cells : Memory) : Mem :=
  let below (a : Nat) : Bool := decide (a < base)
  let above (a : Nat) : Bool := decide (base + len ≤ a)
  { m with
    phys := m.phys.filter (fun c => below c.1)
      ++ (canonCells base (base + len) (cells.map (fun c => (base + c.1, c.2)))
        ++ m.phys.filter (fun c => above c.1))
    key := m.key.filter (fun t => below (64 * t.1))
      ++ (if key = 0 then [] else (List.range (len / 64)).map (fun i => (base / 64 + i, key)))
      ++ m.key.filter (fun t => above (64 * t.1)) }

/-- Rank of a cluster among the clusters of CLUMASK (R83). -/
def frameRank (s : State) (ctx cluster : Nat) : Nat := ((maskClusters (cluMask s ctx)).filter (· < cluster)).length

/-- Address of the frame of a cluster. -/
def frameAt (s : State) (ctx cluster : Nat) : Nat := ctxField s.cp ctx 0x28 8 + 0x1000000 * frameRank s ctx cluster

/-- The clusters of a kernel. -/
def Kernel.clusters (k : Kernel) : List Nat := (k.bind.map clusterOf).eraseDups

/-- The cluster SRAM of a cluster as cells from 0. -/
def sramCells (s : State) (cluster : Nat) : Memory :=
  (memSlice s.mem.csram (csramAddr cluster 0) Config.csramSize).map (fun c => (c.1 - csramAddr cluster 0, c.2))

/-- Puts cells in place of a cluster SRAM. -/
def setSram (m : Mem) (cluster : Nat) (cells : Memory) : Mem :=
  let base := csramAddr cluster 0
  { m with
    csram := m.csram.filter (fun c => decide (c.1 < base))
      ++ (canonCells base (base + Config.csramSize) (cells.map (fun c => (base + c.1, c.2)))
        ++ m.csram.filter (fun c => decide (base + Config.csramSize ≤ c.1)))
    ue := m.ue.filter (fun u => !(u.1 == 5 && decide (base / 64 ≤ u.2) && decide (u.2 < (base + Config.csramSize) / 64))) }

/-- Whether the save area lies in Cistern in service; where it does not, no frame is written (log entry 130). -/
def saveFits (s : State) (ctx : Nat) : Bool :=
  inCistern s.mgmt (ctxField s.cp ctx 0x28 8) (max 1 (0x1000000 * (maskClusters (cluMask s ctx)).length))

/-- Address of a frame by its number. -/
def frameBase (s : State) (ctx n : Nat) : Nat := ctxField s.cp ctx 0x28 8 + 0x1000000 * n

/-- The lowest role of a kernel in a cluster. -/
def lowestRole (k : Kernel) (cluster : Nat) : Nat := k.bind.findIdx (fun p => clusterOf p == cluster)

def setFrame (s : State) (ctx n : Nat) (e : FrameEntry) : State :=
  updCtx s ctx (fun c => { c with frames := tset c.frames n e })

/-- The frame map entries of a kernel whose relaunch is deferred are marked RELAUNCH (R78); a VALID frame keeps its
entry. -/
def markRelaunch (s : State) (kid : Nat) (k : Kernel) : State :=
  k.clusters.foldl (fun s c =>
    let n := frameRank s k.ctx c
    match tfind (ctxAt s k.ctx).frames n with
    | some e => if e.valid then s else setFrame s k.ctx n { kid := kid, role := lowestRole k c, valid := false, relaunch := true }
    | none => setFrame s k.ctx n { kid := kid, role := lowestRole k c, valid := false, relaunch := true }) s

/-- Writes the frame of one cluster of a kernel, and marks it VALID (a save area outside the Cistern: log entry 130). -/
def writeFrame (s : State) (kid : Nat) (k : Kernel) (cluster : Nat) : State :=
  let n := frameRank s k.ctx cluster
  let s := setFrame s k.ctx n { kid := kid, role := lowestRole k cluster, valid := true, relaunch := false }
  if !saveFits s k.ctx then s
  else
    let key := primaryKey s.cp k.ctx
    let base := frameBase s k.ctx n
    let m := replaceRange s.mem key base 0x800000 (sramCells s cluster)
    let mine := k.bind.zipIdx.filter (fun p => clusterOf p.1 == cluster)
    { s with mem := mine.foldl (fun m (p, role) =>
        replaceRange m key (base + 0x800000 + 0x200000 * positionOf k role) 0x1B0000 (frameCells s k (s.core p))) m }

/-- Writes the first frames of a kernel into its context's save area. -/
def writeFrames (s : State) (kid : Nat) (k : Kernel) (count : Nat) : State :=
  (k.clusters.take count).foldl (fun s c => writeFrame s kid k c) s

/-- The save area meets an error at the n-th frame of a kernel: those before it are written and stay VALID, this one
is marked invalid, and the kernel ends with SAVE_ERR (R85). -/
def failFrame (s : State) (kid n : Nat) : State :=
  match s.kernel? kid with
  | none => s
  | some k =>
    match k.clusters[n]? with
    | none => s
    | some cl =>
      if k.st ≠ .draining then s
      else
        let e : FrameEntry := { kid := kid, role := lowestRole k cl, valid := false, relaunch := false }
        (setFrame (writeFrames s kid k n) k.ctx (frameRank s k.ctx cl) e).setKernel kid
          { k with kfault := some ⟨codeSaveErr, 0, false⟩ }

/-- The clusters of a context of which no VALID frame stands: their cluster SRAM goes to the save area (R83). -/
def writeIdleFrames (s : State) (ctx : Nat) : State :=
  let idle := (maskClusters (cluMask s ctx)).filter (fun c =>
    match tfind (ctxAt s ctx).frames (frameRank s ctx c) with
    | none => true
    | some e => !e.valid)
  if !saveFits s ctx then s
  else
    { s with mem := idle.foldl (fun m c =>
        replaceRange m (primaryKey s.cp ctx) (frameAt s ctx c) 0x800000 (sramCells s c)) s.mem }

/-- The frames of a kernel go from the frame map: at its resume cycle, or at its deferred relaunch (R84). -/
def dropFrames (s : State) (kid : Nat) (k : Kernel) : State :=
  updCtx s k.ctx (fun c => { c with frames := c.frames.filter (fun e => e.2.kid != kid) })

/-! ## What the save area holds (R84, R140) -/

/-- Bytes of a range as a key value reads them: the cells that differ from an unlisted byte, from 0. -/
def seenCells (m : Mem) (key base len : Nat) : Memory :=
  let tags := m.key.filter (fun t => decide (base ≤ 64 * t.1) && decide (64 * t.1 < base + len))
  let plain := if key = 0 then tags.isEmpty else tags.length == len / 64 && tags.all (fun t => t.2 == key)
  let cells := if plain then memSlice m.phys base len
    else ((List.range len).map (fun i => (base + i, seenByte m key (base + i)))).filter (fun c => c.2 != unwritten)
  cells.map (fun c => (c.1 - base, c.2))

/-- The number of the VALID frame of a kernel's cluster, in a save area that can be read; none once a later frame has
taken its place (log entry 58). -/
def frameOf (s : State) (kid : Nat) (k : Kernel) (cluster : Nat) : Option Nat :=
  if !saveFits s k.ctx then none
  else ((ctxAt s k.ctx).frames.find? (fun e =>
    e.2.valid && e.2.kid == kid && e.2.role == lowestRole k cluster)).map (·.1)

/-- The cluster SRAM that a kernel's cluster takes back: that of its frame (R84). Without a save area the model's own
copy stands for it (log entry 58). -/
def frameSram (s : State) (kid : Nat) (k : Kernel) (cluster : Nat) : Memory :=
  match frameOf s kid k cluster with
  | none => tget [] k.savedSram cluster
  | some n => seenCells s.mem (primaryKey s.cp k.ctx) (frameBase s k.ctx n) 0x800000

/-- Address of the core frame of a role. -/
def coreFrameAt (s : State) (kid : Nat) (k : Kernel) (role : Nat) : Option Nat :=
  (frameOf s kid k (clusterOf (k.bind.getD role 0))).map
    (fun n => frameBase s k.ctx n + 0x800000 + 0x200000 * positionOf k role)

/-- Writes bytes at an offset of the core frame of a role of a suspended kernel (R126). -/
def frameWrite (s : State) (kid : Nat) (k : Kernel) (role off : Nat) (bs : List Byte) : State :=
  match coreFrameAt s kid k role with
  | none => s
  | some a => { s with mem := physWrite s.mem (primaryKey s.cp k.ctx) (a + off) bs }

/-! ## A core from its frame (R83, R139, R435) -/

/-- A table of n values read from a frame. -/
def frameTable {α : Type} (n : Nat) (f : Nat → α) : Table α := (List.range n).map (fun i => (i, f i))

/-- The words that lie in a range of a frame. -/
def frameWords (f : Memory) (base len : Nat) : Table Word32 :=
  (((memSlice f base len).map (fun c => (c.1 - base) / 4)).eraseDups).map
    (fun i => (i, BitVec.ofNat 32 (readLE f (base + 4 * i) 4)))

def slotOfCode (n : Nat) : SlotState :=
  match n with
  | 0 => .free
  | 1 => .claimed
  | _ => .loaded

def entryOfCode (n : Nat) : EntryState :=
  match n with
  | 0 => .free
  | 1 => .opened
  | _ => .queued

/-- Loop-stack level i of a control block; what the frame does not hold of it is the level's own. -/
def frameLevel (f : Memory) (c : Core) (i : Nat) : Option LoopLevel :=
  let a := 0x1A4500 + 32 * i
  let kind := readLE f (a + 16) 1
  if kind = 0 then none
  else
    let old : LoopLevel := c.loops.reverse.getD i
      { modulo := false, start := 0, stop := 0, n := 0, j := 0, ii := 0, stages := 0, passStart := 0, entered := 0,
        sys := false }
    some { old with
      modulo := kind == 2, n := readLE f a 4, j := readLE f (a + 4) 4, start := readLE f (a + 8) 4,
      stop := readLE f (a + 12) 4, ii := readLE f (a + 17) 1, stages := readLE f (a + 18) 1 }

/-- Entry i of the time-sorted buffer of a control block. -/
def frameCommand (f : Memory) (order i : Nat) : Option PumpCmd :=
  let a := 0x1A4600 + 128 * i
  if readLE f (a + 17) 1 = 0 then none
  else
    some
      { start := readLE f a 8, issue := readLE f (a + 8) 8, mode := readLE f (a + 16) 1,
        desc := readBytes f (a + 32) 80, variant := readLE f (a + 32 + 0x50) 2, op := readLE f (a + 32 + 0x52) 1,
        barrier := readLE f (a + 32 + 0x54) 4, codes := BitVec.ofNat 64 (readLE f (a + 32 + 0x58) 8),
        order := order + i }

/-- The trap record of a control block (R263). -/
def frameTrap (sr : Nat → Nat) : TrapRecord where
  supp := BitVec.ofNat 8 (sr 0x100 / 0x10000)
  nest := bitOf (sr 0x100) 15
  eng := bitOf (sr 0x100) 14
  slot := BitVec.ofNat 3 (sr 0x100 / 0x800)
  code := BitVec.ofNat 8 (sr 0x100)
  info := BitVec.ofNat 64 (sr 0x101)
  iter := BitVec.ofNat 64 (sr 0x102)
  pc := BitVec.ofNat 64 (sr 0x103)
  br := BitVec.ofNat 64 (sr 0x104)
  dly := BitVec.ofNat 2 (sr 0x105)
  lit := BitVec.ofNat 32 (sr 0x107)

/-- The registers that a control block holds. -/
def frameRegisters (f : Memory) (c : Core) : Core :=
  let at_ (off n : Nat) : Nat := readLE f (0x1A0000 + off) n
  let sr (n : Nat) : Nat := at_ (srOffset n) 8
  let w (n : Nat) : Word64 := BitVec.ofNat 64 n
  { c with
    g := frameTable 64 (fun r => w (at_ (8 * r) 8))
    v := frameTable 64 (fun r => mkLanes (fun i => BitVec.ofNat 32 (at_ (0x200 + 256 * r + 4 * i) 4)))
    m := frameTable 16 (fun r => w (at_ (0x4200 + 8 * r) 8))
    x := frameTable 8 (fun r => w (at_ (0x4280 + 8 * r) 8))
    p := BitVec.ofNat 16 (at_ 0x42C0 2)
    f := frameTable 64 (fun r => BitVec.ofNat 32 (at_ (0x4300 + 8 * r) 4))
    c := frameTable 256 (fun r => BitVec.ofNat 32 (at_ (0x5C00 + 4 * r) 4))
    shsel := BitVec.ofNat 7 (sr 0x00A)
    rmode := BitVec.ofNat 3 (sr 0x00D)
    epicfg := BitVec.ofNat 32 (sr 0x00F)
    ulevel := bitsOf (sr 0x00E) 39 32
    unw := bitOf (sr 0x00E) 7
    mclip0 := w (sr 0x014)
    mclip1 := w (sr 0x015)
    bfmt := w ((List.range 16).map (fun n => sr (0x020 + n) % 16 * 16 ^ n)).sum
    mbox := frameTable 8 (fun n => w (sr (0x030 + n)))
    trap := frameTrap sr
    tvb := w (sr 0x106) }

/-- Commands read from a frame, numbered from n on in issue order, an earlier entry before a later (R169). -/
def numberCommands (n : Nat) (xs : List PumpCmd) : List PumpCmd :=
  xs.map (fun x => { x with
    order := n + (xs.filter (fun y => decide (y.issue < x.issue ∨ (y.issue = x.issue ∧ y.order < x.order)))).length })

/-- The sequencer, the loop stack and the buffered commands that a control block holds. -/
def frameSequencer (f : Memory) (c : Core) : Core :=
  let at_ (off n : Nat) : Nat := readLE f (0x1A45C0 + off) n
  { c with
    loops := ((List.range 6).filterMap (frameLevel f c)).reverse
    taskFrom := some (at_ 0 8)
    nextAt := at_ 8 8
    done := at_ 16 8 != 0
    dly := at_ 24 8
    br := at_ 32 8
    buf := numberCommands c.orders ((List.range 32).filterMap (frameCommand f 0))
    orders := c.orders + 32 }

/-- The memories, slots, ring, tables and barrier directory that a frame holds. A list of bytes keeps the length with
which it was saved. -/
def frameMemories (f : Memory) (c : Core) : Core :=
  let at_ (off n : Nat) : Nat := readLE f (0x1A0000 + off) n
  let shadows := c.dir.flatMap (fun a => cellsFrom a (readBytes c.priv a 16))
  { c with
    priv := writeCells (memSlice f 0 0x100000) shadows
    tiles := ((List.range 256).filter (fun t => bitOf (at_ (0x5A40 + t / 8) 1) (t % 8))).map
      (fun t => (t, { st := .given }))
    ring := frameTable 8 (fun e =>
      { st := entryOfCode (at_ (0xE180 + 8 * e) 1), vals := frameWords f (0x100000 + 0xC000 * e) 0xC000,
        e := BitVec.ofNat 32 (at_ (0x5A00 + 4 * e) 4), clipAny := bitOf (at_ (0xE181 + 8 * e) 1) 0
        lossy := (ringOf c e).lossy })
    head := at_ 0x5A20 1
    tail := at_ 0x5A21 1
    counts := frameTable 8 (fun a => at_ (0x5A60 + 4 * a) 4)
    dir := ((List.range 64).map (fun i => at_ (0x5A80 + 4 * i) 4)).filterMap
      (fun e => if bitOf e 31 then some (16 * (e % 0x10000)) else none)
    acts := frameTable 8 (fun n =>
      { st := slotOfCode (at_ (0xE100 + 8 * n) 1), use := 0,
        bytes := readBytes f (0x160000 + 0x4000 * n) (actOf c n).bytes.length,
        code := at_ (0xE101 + 8 * n) 1, rows := at_ (0xE102 + 8 * n) 1, lossy := (actOf c n).lossy })
    wts := frameTable 8 (fun n =>
      { st := slotOfCode (at_ (0xE140 + 8 * n) 1), use := 0,
        bytes := readBytes f (0x180000 + 0x4000 * n) (wtOf c n).bytes.length, int4 := at_ (0xE141 + 8 * n) 1 == 1
        lossy := (wtOf c n).lossy })
    store := (List.range 32).filterMap (fun n =>
      let e := at_ (0xE1C0 + 4 * n) 4
      if bitOf e 31 then
        let len := match tfind c.store n with | none => 512 | some x => x.2.length
        some (n, (e % 0x1000, readBytes f (0x1AA000 + 512 * n) len))
      else none)
    ctab := (List.range 4).filterMap (fun n =>
      if bitOf (at_ 0xE244 1) n then
        let len := match tfind c.ctab n with | none => 4096 | some t => t.length
        some (n, readBytes f (0x1A6000 + 4096 * n) len)
      else none)
    epoch := at_ 0xE240 4 }

/-- A saved core as its frame has it, whatever has written there since (R84). -/
def frameCore (s : State) (kid : Nat) (k : Kernel) (role : Nat) (c : Core) : Core :=
  match coreFrameAt s kid k role with
  | none => c
  | some a =>
    let f := seenCells s.mem (primaryKey s.cp k.ctx) a 0x1B0000
    frameMemories f (frameSequencer f (frameRegisters f c))

/-! ## Restoring (R84) -/

/-- A saved core on the physical core it is bound to: calibration stays with the macros, errors with the
storage that a frame does not rewrite. -/
def restoreCore (saved now : Core) : Core :=
  { saved with
    calib := now.calib
    colMap := now.colMap
    xres := []
    ue := []
    glitch := now.glitch }

end Sys2Proof.Machine
end

