-- ==== Sys2Proof/Machine/Life.lean ====
section
/-!
DEFINITION. The life cycle of kernels and groups (R122 to R142, R159): start, holds, pre-emption, drain and
resume, end, fault and relaunch, unwinds, and the completion of the commands that wait for them.
-/
namespace Sys2Proof.Machine

/-! ## Completion of a queue command (R102, R103, R114) -/

/-- Address in queue memory of the command at a queue's head. -/
def commandAt (x : Queue) : Nat := x.ring + 64 * x.head

/-- Writes result bytes into the command at a queue's head. -/
def writeResult (s : State) (q off : Nat) (bs : List Byte) : State :=
  { s with mem := { s.mem with qmem := writeBytes s.mem.qmem (commandAt (queueAt s q) + off) bs } }

/-- The command at a queue's head completes with a status. -/
def completeCommand (s : State) (q status : Nat) : State :=
  let x := queueAt s q
  let s := writeResult (writeResult s q 2 (natLE 1 status)) q 0 [0]
  if q ≥ Config.numQueues then { s with cp := { s.cp with queues := tdel s.cp.queues q } }
  else
    let good := status = 0 ∨ bitOf (fieldLE x.cmd 3 1) 0
    let head := (x.head + 1) % x.size
    updQueue s q (fun y =>
      { y with
        head := head
        faultIdx := if good then y.faultIdx else x.head
        st := if ¬good then .stopped else if head = y.tail then .idle else .ready
        age := s.link.elapsed
        cmd := []
        copy := none
        begun := false })

/-- A command has ended before the cycle's completions are taken (R117): it completes among them, from a cycle on. -/
def finishLater (s : State) (q status cycle : Nat) : State :=
  { s with cp := { s.cp with finished := s.cp.finished ++ [(q, status, cycle)] } }

def finishCommand (s : State) (q status : Nat) : State := finishLater s q status s.cyc

/-! ## Releasing cores -/

/-- A physical core that no group binds. Its registers, trap record, ring, store and slots stay as the kernel left them
until the next launch clears them (R122, R159, R362, R373), its memories (R122) and owner bits (R170) too; what was in
flight or buffered, the armed barriers (R203) and the regions are gone. -/
def releaseCore (c : Core) : Core :=
  { c with
    kid := none, mode := .task, stubEnd := false, hNextAt := none, brFrom := none, callAt := none, taskCall := none
    taskFrom := none, cur := {}, staged := {}, trapped := false, suppNow := 0, eretWait := false, wait := none
    inflight := [], pend := [], stores := [], engWrites := [], owns := [], dir := [], barUps := [], buf := [], runs := []
    oload := none, wload := none, mploads := [], mcall := none, pop := none, regions := [], upend := [], outNew := []
    pbarNew := [], kNew := [], kfault := none, engTrap := none, ueHit := none }

/-- Marks clusters as released in this cycle. -/
def idleClusters (s : State) (cls : List Nat) : State :=
  let mark (t : Table Cluster) (c : Nat) : Table Cluster :=
    let x := tget {} t c
    tset t c { x with idleAt := s.link.elapsed }
  { s with mgmt := { s.mgmt with clusters := cls.foldl mark s.mgmt.clusters } }

/-- Releases a kernel's cores and clusters. -/
def releaseGroup (s : State) (k : Kernel) : State :=
  if k.holds then idleClusters (k.bind.foldl (fun s p => s.updCore p releaseCore) s) k.clusters else s

/-! ## Sync pages at the end of a kernel (R221, R222) -/

/-- The pier with the largest count, lowest first. -/
def bestPier (counts : Table Nat) : Nat :=
  (List.range 4).foldl (fun b p => if tget 0 counts p > tget 0 counts b then p else b) 0

/-- The home after the last kernel that lists a FAR page: it may move (R222). -/
def migratedHome (s : State) (x : SyncPage) : Nat :=
  let best := bestPier x.counts
  let n := tget 0 x.counts best
  if !x.near && best != x.home && decide (n ≥ 1024) && decide (n ≥ 2 * tget 0 x.counts x.home)
      && keystoneServes s best && decide (residentAt s best < 48) then best
  else x.home

/-- Performs at once the operations that still stand for a page. -/
def flushOps (s : State) (g : Nat) : State :=
  let now := s.ks.ops.filter (fun o => o.addr / 0x10000 == g && !o.kind.isFailed)
  now.foldl (fun s o => performOp { s with ks := { s.ks with ops := s.ks.ops.erase o } } o) s

/-- Writes a page back to its backing under its key. -/
def writeBack (s : State) (p : PageT) : State :=
  let g := p.phys / 0x10000
  let s := flushOps s g
  let x := { tget {} s.ks.pages g with near := p.near }
  let cells := (memSlice s.mem.kmem p.phys 0x10000).map (fun c => (c.1 - p.phys, c.2))
  let m := replaceRange s.mem (pageKey s.cp p) p.phys 0x10000 cells
  let y : SyncPage := { home := migratedHome s x, resident := false, near := false, counts := [] }
  { s with
    mem := { m with kmem := memClear m.kmem p.phys 0x10000 }
    ks := { s.ks with pages := tset s.ks.pages g y } }

/-- Releases the sync pages that no other kernel lists, and the staging lines. -/
def releasePages (s : State) (kid : Nat) (k : Kernel) : State :=
  let others := s.kernels.filter (fun x => x.1 != kid && x.2.alive)
  let held (p : PageT) : Bool := others.any (fun x => x.2.pages.any (fun q => q.kind == 2 && q.phys == p.phys))
  let s := (k.pages.filter (fun p => p.kind == 2 && !held p)).foldl writeBack s
  { s with ks := { s.ks with lines := s.ks.lines.filter (fun l => l.kid != kid) } }

/-! ## Streams at the end of an attempt -/

/-- A command whose sampling has stopped keeps the whole sectors sampled so far (R265, R192). -/
def stopSampling (o : OutCmd) : Option OutCmd :=
  match o.kind with
  | .wellWrite ss bs =>
    let n := bs.length / 64
    if ss.length ≤ n then some o
    else if n ≤ o.sent then none
    else some { o with kind := .wellWrite (ss.take n) (bs.take (64 * n)) }
  | .remoteWrite node ss h bs =>
    let n := bs.length / 64
    if ss.length ≤ n then some o
    else if n ≤ o.sent then none
    else some { o with kind := .remoteWrite node (ss.take n) h (bs.take (64 * n)) }
  | .remoteRead .. | .arrive _ | .coll _ | .fence _ => some o

/-- The open epoch of each role is closed as by PBAR.dur; the record takes a last STATE (R225). -/
def closeStreams (s : State) (kid final : Nat) : State :=
  { s with streams := s.streams.map (fun t =>
      if t.kid = kid ∧ t.role < oldAttempt then
        { t with epoch := t.epoch + 1, final := some final, cmds := t.cmds.filterMap stopSampling }
      else t) }

/-- What has left the stream of an attempt that is over belongs to that attempt, and names no barrier. -/
def retireOwner (kid : Nat) (o : Option (Nat × Nat × Nat)) : Option (Nat × Nat × Nat) :=
  o.map (fun (i, r, n) => if i = kid then (i, r + oldAttempt, n) else (i, r, n))

def retire (kid : Nat) (m : Message) : Message :=
  { m with ref := m.ref.filter (fun x => x.1 != kid), owner := retireOwner kid m.owner }

/-- The streams of an attempt that is over: what is in them goes on, and names no barrier (R141). -/
def retireStreams (s : State) (kid : Nat) : State :=
  let old (r : Nat) : Nat := r + oldAttempt
  { s with
    streams := s.streams.map (fun t => if t.kid = kid then
      { t with role := old t.role, epoch := t.epoch + 1, final := some 3, pbars := []
               cmds := (t.cmds.filterMap stopSampling).map (fun o => { o with barrier := none }) } else t)
    mem := { s.mem with pend := s.mem.pend.map (fun w => match w.src with
      | none => w
      | some (k, r, e) => if k = kid then { w with src := some (k, old r, e) } else w) }
    link := { s.link with
      unacked := s.link.unacked.map (retire kid)
      queueOut := s.link.queueOut.map (retire kid)
      colls := s.link.colls.map (fun c => { c with owner := retireOwner kid c.owner }) } }

/-! ## Fault code words (R262) -/

def faultWordOf (role : Nat) (klvl : Bool) (f : CoreFault) : Nat :=
  role * 2 ^ 23 + (if klvl then 2 ^ 22 else 0) + (if f.nest then 2 ^ 16 else 0) + f.info % 256 * 256 + f.code

/-- The fault that a kernel records: the core of the lowest role, then the kernel's own. -/
def recordedFault (s : State) (k : Kernel) : Option (Nat × CoreFault) :=
  match k.bind.zipIdx.findSome? (fun (p, role) =>
      (s.core p).kfault.map (fun f => (faultWordOf role false f, f))) with
  | some x => some x
  | none => k.kfault.map (fun f => (faultWordOf 0 true f, f))

/-! ## Ends (R127, R128) -/

/-- The indices of the commands pending in a queue (R101), but for the one in progress. -/
def pendingIndices (x : Queue) : List Nat :=
  let n := (x.tail + x.size - x.head) % x.size
  let all_ := (List.range n).map (fun i => (x.head + i) % x.size)
  if x.st = .active || x.st == .waiting then all_.drop 1 else all_

/-- Whether a compute queue of a context holds a LAUNCH that waits. -/
def launchPending (s : State) (ctx : Nat) : Bool :=
  (ctxQueues s ctx).any (fun q =>
    let x := queueAt s q
    x.kind == 0 && (pendingIndices x).any (fun i => memRead s.mem.qmem (x.ring + 64 * i) == 1))

/-- No kernel of the context runs and no launch of it is pending: it is READY again (R75). -/
def settleCtx (s : State) (ctx : Nat) : State :=
  if (ctxAt s ctx).st = .running && !s.kernels.any (fun x => x.2.ctx == ctx && x.2.alive) && !launchPending s ctx then
    updCtx s ctx (fun c => { c with st := .ready })
  else s

/-- The same for every context: a pending launch may have gone without a kernel (log entry 104). -/
def settleCtxs (s : State) : State := (s.cp.ctxs.map (·.1)).foldl settleCtx s

/-- Whether every engine of a core is idle (R128). -/
def enginesIdle (c : Core) : Bool :=
  c.buf.isEmpty && c.runs.isEmpty && c.oload.isNone && c.wload.isNone && c.mcall.isNone && c.pop.isNone
    && c.mploads.isEmpty

/-- Whether the kernel's last DONE has issued and its engines are idle. -/
def endReached (s : State) (k : Kernel) : Bool :=
  k.bind.all (fun p => (s.core p).done && enginesIdle (s.core p) && (s.core p).mode == .task)

/-- Completes the PREEMPT commands that wait for a kernel that suspends no more. -/
def dropPreempt (s : State) (k : Kernel) : State := k.preemptQ.foldl (fun s q => finishCommand s q 0x0F) s

/-- What is the same for every end of a kernel. -/
def closeKernel (s : State) (kid : Nat) (k : Kernel) (final status word : Nat) : State :=
  let s := appendDone s k status word k.ttc
  let s := releaseGroup s k
  let s := closeStreams s kid final
  let s := s.setKernel kid { k with st := if final = 2 then .ended else .faulted, faultWord := word, preemptQ := [] }
  let s := settleFinal (releasePages s kid k) kid
  let s := dropPreempt s k
  match k.queue with
  | some q => finishCommand (writeResult s q 48 (natLE 8 word)) q status
  | none => postKernelEnd s k.ctx k.kseq word status

/-- KERNEL_END: the last DONE has issued and every engine command has completed (R128). -/
def execKernelEnd (kid : Nat) (s : State) : Out :=
  match s.kernel? kid with
  | none => .next s
  | some k =>
    if k.st = .running && endReached s k && (recordedFault s k).isNone then
      .next (settleCtx (closeKernel s kid k 2 0 0) k.ctx)
    else .next s

/-! ## Pre-emption requests (R135) -/

/-- The image of a kernel has listed points. -/
def hasPoints (s : State) (k : Kernel) : Bool := numPoints (imageOf s k) != 0

/-- PREEMPT_LATCH: a request is latched; merged with one already latched or with a drain (R135; PREPARING and RESUMING:
log entry 138). -/
def execPreemptLatch (kid : Nat) (s : State) : Out :=
  match s.kernel? kid with
  | none => .next s
  | some k =>
    if k.preq.isSome || !hasPoints s k then .next s
    else
      match k.st with
      | .running => .next (s.setKernel kid { k with preq := some (k.ttc + 1) })
      | .held => .next (s.setKernel kid { k with preq := some k.resumeTtc })
      | .preparing => .next (s.setKernel kid { k with preq := some 1 })
      | .resuming => .next (s.setKernel kid { k with preq := some (k.point + 1) })
      | .draining | .suspended | .ended | .faulted | .relaunching => .next s

/-- The request delivered to the other kernels of a faulted context (R75). -/
def preemptOthers (s : State) (ctx kid : Nat) : State :=
  (s.kernels.filter (fun x => x.2.ctx == ctx && x.1 != kid)).foldl (fun s x =>
    { s with agenda := .row (.preemptLatch x.1) :: s.agenda }) s

/-! ## Faults and relaunches (R78, R127, R141) -/

/-- Whether a fault leads to a relaunch. -/
def mayRelaunch (k : Kernel) (f : CoreFault) : Bool :=
  bitOf (fieldLE k.record 6 1) 0 && decide (k.relaunches < fieldLE k.record 7 1) && relaunchable f.code

/-- The kernel is FAULTED, and so is its context. -/
def faultKernel (s : State) (kid : Nat) (k : Kernel) (word : Nat) : State :=
  let s := closeKernel s kid k 3 0x11 word
  let s := updCtx s k.ctx (fun c =>
    { c with fault := word, st := if c.st = .running ∨ c.st = .yielding then .faulted else c.st })
  preemptOthers s k.ctx kid

/-- KERNEL_FAULT: the recorded fault ends the attempt. -/
def execKernelFault (kid : Nat) (s : State) : Out :=
  match s.kernel? kid with
  | none => .next s
  | some k =>
    match recordedFault s k with
    | none => .next s
    | some (word, f) =>
      if !k.holds then .next s
      else if mayRelaunch k f then
        let s := appendDone s k 0x19 word k.ttc
        let s := retireStreams (releaseGroup s k) kid
        let deferred := (ctxAt s k.ctx).st == .yielding
        let s := { s with ks := { s.ks with lines := s.ks.lines.filter (fun l => l.kid != kid) } }
        let s := s.setKernel kid { k with
          st := .relaunching, faultWord := word, deferred := deferred, kfault := none, preemptQ := [] }
        .next (dropPreempt (if deferred then markRelaunch s kid k else s) k)
      else .next (faultKernel s kid k word)

/-- An uncorrectable error where a relaunch reads the argument block again (R119). -/
def argsUe (s : State) (k : Kernel) : Bool :=
  if k.argLen = 0 then false
  else
    match rangeIn s (findPage k.argMap) (fun _ => true) (k.argLen / 0x10000 + 2) k.argVa k.argLen with
    | none => true
    | some ps => ps.any (fun (a, _, n) => (physUe s a n).isSome)

/-- RELAUNCH: a new binding and a new attempt, or the original fault (R141, R144, R151). Where a binding waits for test
slices alone, so does the relaunch (R275); in a context that has become FAULTED the attempt is asked to leave (R75). -/
def execRelaunch (kid : Nat) (s : State) : Out :=
  match s.kernel? kid with
  | none => .next s
  | some k =>
    if k.st = .relaunching && !k.deferred then
      match rebind s kid k with
      | none =>
        if (rebind (noSlices s) kid k).isSome then .next s else .next (faultKernel s kid k k.faultWord)
      | some bind =>
        if argsUe s k then .next (faultKernel s kid k k.faultWord)
        else
          let s := dropFrames s kid k
          let k := { k with bind := bind, relaunches := k.relaunches + 1, lastPoint := -1 }
          let s := prepareAttempt s kid k (imageOf s k)
          if (ctxAt s k.ctx).st = .faulted then .next { s with agenda := .row (.preemptLatch kid) :: s.agenda }
          else .next s
    else .next s

/-- TIME_LIMIT: sr.ttc reaches TLIMIT before the kernel has ended (R134). -/
def execTimeLimit (kid : Nat) (s : State) : Out :=
  match s.kernel? kid with
  | none => .next s
  | some k =>
    let limit := fieldLE k.record 0x18 8
    if k.st = .running && limit != 0 && decide (limit ≤ k.ttc) && k.kfault.isNone then
      .next (s.setKernel kid { k with kfault := some ⟨codeTimeLimit, 0, false⟩ })
    else .next s

/-! ## Start, holds (R123, R130, R131) -/

/-- KERNEL_START: T0, a multiple of 1,024 in sr.cyc, once the ARGS record is complete (R92). -/
def execKernelStart (kid : Nat) (s : State) : Out :=
  match s.kernel? kid with
  | none => .next s
  | some k =>
    if k.st = .preparing && s.cyc % Config.period = 0 && !argsDue s kid k then
      .next (s.setKernel kid { k with st := .running, t0 := some s.cyc, ttc := 0, ran := 0 })
    else .next s

/-- MAILBOX_WRITE (R126): it lands at the end of this cycle, or in the saved frame. -/
def execMailboxWrite (kid role n : Nat) (value : Word64) (s : State) : Out :=
  match s.kernel? kid with
  | none => .next s
  | some k =>
    if n ≥ 8 || !k.alive then .next s
    else if k.st = .suspended || k.st = .resuming then
      .next (frameWrite (updRole s kid role (fun c => { c with mbox := tset c.mbox n value })) kid k role
        (0x1A0000 + srOffset (0x030 + n)) (natLE 8 value.toNat))
    else
      .next (updRole s kid role (fun c => { c with inflight := c.inflight ++
        [{ write := .sr (0x030 + n) value, due := .cyc s.cyc, rank := 0, issue := 0, slot := 0, long := false }] }))

/-- Whether the predicate is a stage predicate that the pass after a bundle issued in cycle `issue` has set at the end of
that cycle: its write is the last of it (R329). -/
def stageKept (c : Core) (issue r : Nat) : Bool :=
  match c.loops with
  | [] => false
  | l :: _ => l.modulo && decide (0 < l.j ∧ l.passStart = issue + 1 ∧ 8 ≤ r ∧ r < 8 + l.stages)

/-- A wait that is over writes its predicates as though it had been satisfied at issue (R208). -/
def settleWait (c : Core) : Core :=
  match c.wait with
  | none => c
  | some w =>
    match w.out with
    | none => c
    | some t =>
      let put (c : Core) (r : Nat) (b : Bool) : Core := if stageKept c w.issue r then c else applyWrite c (.p r b)
      put (put { c with wait := none } (2 * w.pair) t) (2 * w.pair + 1) (!t)

/-- HOLD_RELEASE: no cause is left and the phase fits (R131). -/
def execHoldRelease (kid : Nat) (s : State) : Out :=
  match s.kernel? kid with
  | none => .next s
  | some k =>
    if k.st = .held && holdCauses s k = 0 && s.cyc % Config.period = k.resumeTtc % Config.period then
      let s := k.bind.foldl (fun s p => s.updCore p settleWait) s
      .next (s.setKernel kid { k with st := .running, ttc := k.resumeTtc })
    else .next s

/-- LIMIT_HOLD_ENTER: at a period boundary while LIMHOLD = 1 (R44). That T0 is such a boundary of a group launched
meanwhile is the model's choice (log entry 83). -/
def execLimitHoldEnter (kid : Nat) (s : State) : Out :=
  match s.kernel? kid with
  | none => .next s
  | some k =>
    if s.mgmt.limhold && k.st = .running && s.cyc % Config.period = 0 then
      .next (s.setKernel kid { k with st := .held, limit := true, resumeTtc := k.ttc })
    else .next s

/-- Whether a kernel comes to the first cycle of a period of its timetable: not when a hold or a resume brings it to
that cycle again, with what it counted there (R1, R153, R154). -/
def atPeriodStart (k : Kernel) : Bool :=
  k.st == .running && k.ttc % Config.period == 0 && decide (k.ran ≤ k.ttc) && k.lastPoint != (k.ttc : Int)

/-- PERIOD_BOUNDARY: every use count returns to 0 (R153). -/
def execPeriodBoundary (kid : Nat) (s : State) : Out :=
  match s.kernel? kid with
  | none => .next s
  | some k =>
    if atPeriodStart k then
      .next (k.bind.foldl (fun s p => s.updCore p (fun c => { c with counts := [] })) s)
    else .next s

/-! ## Points, drains, resumes (R136 to R140) -/

/-- Whether a core stands in the way of a point (R136). -/
def pointBlocked (c : Core) : Bool :=
  !c.done && (c.dly != 0 || !c.regions.isEmpty
    || (match c.mcall with | some m => m.reexec.isSome | none => false))

/-- The stub of a bundle address of a role (R120). -/
def stubOf (im : Image) (role addr : Nat) : Option Nat :=
  ((drainsOf im).find? (fun d => d.getD 0 0 ≤ role && role ≤ d.getD 1 0 && d.getD 2 0 ≤ addr && addr < d.getD 3 0)).map
    (fun d => d.getD 4 0)

/-- One core at an eligible point: diverted to its stub, or DRAIN_MISS. A branch whose target is the held bundle has left
its loop bodies, since a frame keeps the loop stack alone (R331, R139). -/
def divertCore (s : State) (im : Image) (p : Nat) : State :=
  let c := leaveBodies (s.core p)
  if c.done then s
  else
    let next := bundleAt s p c.pc
    match stubOf im c.role next with
    | none => s.setCore p (endFault c codeDrainMiss 0)
    | some stub => s.setCore p
      { c with mode := .stub, trap := { c.trap with pc := BitVec.ofNat 64 next }, taskFrom := some next,
               pc := stub, hNextAt := some s.cyc, stubEnd := false }

/-- PREEMPT_POINT: a listed point with a request latched (R136, R137). -/
def execPreemptPoint (kid : Nat) (s : State) : Out :=
  match s.kernel? kid with
  | none => .next s
  | some k =>
    let im := imageOf s k
    let here := k.st = .running && (pointsOf im).contains k.ttc && decide (k.lastPoint < k.ttc)
    match k.preq with
    | none => .next s
    | some first =>
      if !here || k.ttc < first then .next s
      else
        let k := { k with lastPoint := k.ttc }
        if k.bind.any (fun p => pointBlocked (s.core p)) then
          .next (s.setKernel kid { k with pskip := min 255 (k.pskip + 1) })
        else
          let s := s.setKernel kid { k with st := .draining, point := k.ttc, drained := 0 }
          .next (k.bind.foldl (fun s p => divertCore s im p) s)

/-- Whether transfers that a barrier of the kernel counts are still beyond the boundary, or sectors that its reads will
land (R138, R210). -/
def beyondOpen (s : State) (kid : Nat) : Bool :=
  s.streams.any (fun t => t.kid == kid && t.cmds.any (fun o => o.barrier.isSome))
    || (s.link.unacked ++ s.link.queueOut).any (fun m => match m.ref with | none => false | some (i, _) => i == kid)
    || s.mem.reads.any (fun r => r.kid == kid)

/-- Whether a core's stub has ended and its started work is complete. -/
def drainedCore (c : Core) : Bool :=
  (c.done || c.stubEnd) && c.mode != .handler && c.runs.isEmpty && c.oload.isNone && c.wload.isNone && c.mcall.isNone && c.pop.isNone
    && c.mploads.isEmpty && c.inflight.isEmpty && c.outNew.isEmpty

/-- Starts a test slice of a cluster (R275). -/
def startSlice (s : State) (c : Nat) : State :=
  let x := tget {} s.mgmt.clusters c
  let y : Cluster := { x with slice := some 60000 }
  { s with mgmt := { s.mgmt with clusters := tset s.mgmt.clusters c y } }

/-- DRAIN_COMPLETE: frames written, clusters released, each with a test slice (R138, R159). -/
def execDrainComplete (kid : Nat) (s : State) : Out :=
  match s.kernel? kid with
  | none => .next s
  | some k =>
    if k.st = .draining && k.bind.all (fun p => drainedCore (s.core p)) && !beyondOpen s kid
        && !s.ks.ops.any (fun o => o.kid == kid) then
      let saved := k.bind.zipIdx.map (fun (p, role) => (role, s.core p))
      let sram := k.clusters.foldl (fun t c => tset t c (sramCells s c)) []
      let s := writeFrames s kid k k.clusters.length
      let s := releaseGroup s k
      let s := k.clusters.foldl startSlice s
      let s := s.setKernel kid { k with
        st := .suspended, saved := saved, savedSram := sram, preemptQ := [],
        userHold := k.userHold || !k.preemptQ.isEmpty, preq := none }
      .next (k.preemptQ.foldl (fun s q => finishCommand s q 0) s)
    else .next s

/-- A suspended kernel takes a binding: its frames, as they stand in the save area, go to the clusters of its roles
(R84, R140). -/
def beginResume (s : State) (kid : Nat) (k : Kernel) (bind : List Nat) : State :=
  let old := k.clusters
  let new := (bind.map clusterOf).eraseDups
  let m := (old.zip new).foldl (fun m (a, b) => setSram m b (frameSram s kid k a)) s.mem
  let cores := k.saved.map (fun (role, c) => (role, frameCore s kid k role c))
  { s with mem := m }.setKernel kid { k with st := .resuming, bind := bind, saved := cores }

/-- RESUME_CYCLE: P, at the phase of the point (R140). -/
def execResumeCycle (kid : Nat) (s : State) : Out :=
  match s.kernel? kid with
  | none => .next s
  | some k =>
    if k.st = .resuming && s.cyc % Config.period = k.point % Config.period then
      let s := k.bind.zipIdx.foldl (fun s (p, role) =>
        let c := tget {} k.saved role
        let c := if c.done then c else
          { c with mode := .task, pc := c.taskFrom.getD c.pc, taskFrom := none, hNextAt := none, stubEnd := false,
                   nextAt := max c.nextAt k.point }
        s.setCore p (restoreCore c (s.core p))) s
      .next (dropFrames (s.setKernel kid { k with
        st := .running, ttc := k.point, ran := k.point, pskip := 0, saved := [], savedSram := [],
        lastPoint := k.point }) kid k)
    else .next s

/-! ## Containment (R272, R273) -/

/-- The unwinds of a core that are due, outermost region first. -/
def dueUnwind (ttc : Nat) (c : Core) : Option (Nat × Nat × Nat) :=
  (c.upend.filter (fun u => decide (u.1 ≤ ttc))).foldl (fun m u => match m with
    | none => some u
    | some v => if u.2.1 < v.2.1 then some u else some v) none

/-- A core unwinds to the depth below a region: due cycle, depth and storage level of the error. It issues its
unwind target in task mode, with no hold. -/
def unwindCore (ttc : Nat) (c : Core) : Core :=
  match dueUnwind ttc c with
  | none => c
  | some (_, k, level) =>
    let left := c.upend.filter (fun u => decide (u.2.1 < k))
    let n := c.regions.length - (k - 1)
    let gone := c.regions.take n
    match gone.getLast? with
    | none => { c with upend := left }
    | some r =>
      let bars := (gone.flatMap (·.hold)).filterMap (·.barrier)
      let c := bars.foldl (fun c a => c.bar a (.abort 7)) c
      { c with
        regions := c.regions.drop n
        buf := c.buf.filter (fun x => decide (x.issue < r.opened))
        loops := c.loops.filter (fun l => decide (l.entered < r.opened))
        dly := 0, br := 0, brFrom := none, callAt := none, wait := none
        upend := left, unw := true, ulevel := level, mode := .task, hNextAt := none, eretWait := false
        pc := r.target, nextAt := ttc + 1 }

/-- REGION_UNWIND: the cores of a kernel whose unwind is due (R273). -/
def execRegionUnwind (kid : Nat) (s : State) : Out :=
  match s.kernel? kid with
  | none => .next s
  | some k =>
    if k.st = .running then .next (k.bind.foldl (fun s p => s.updCore p (unwindCore k.ttc)) s) else .next s

end Sys2Proof.Machine
end

