-- ==== Sys2Proof/Machine/Service.lean ====
section
/-!
DEFINITION. Service states, limits and the management port (R40 to R47), failed units (R268), shaft lanes
(R238, R239), in-field test (R275 to R277) and suspect notices (R97).
-/
namespace Sys2Proof.Machine

/-! ## What a reset leaves (R40, R47, R99, R201) -/

/-- Whether the command processor and the cores work: from CALIB on. -/
def serving (s : State) : Bool := s.mgmt.service == .calib || s.mgmt.service == .full

/-- sr.feat1 from what is in service (R290). -/
def feat1Of (m : Mgmt) : Nat :=
  let inst := List.range Config.numShafts
  let gone (i : Nat) : Bool := (tget {} m.shafts i).gone
  let half (i : Nat) : Bool := (tget {} m.shafts i).half != 0
  let lostUnits (i : Nat) : Nat :=
    if gone i then 12
    else ((List.range 12).filter (fun l =>
      m.layersOut.contains (i / 32, l) || m.banksOut.contains (i / 32, i % 32, l))).length
  (1536 - (inst.map lostUnits).sum) * 2 ^ 48
    + (128 - m.clustersOut.length) * 2 ^ 40
    + (inst.filter (fun i => !gone i && !half i)).length * 2 ^ 32
    + (inst.filter (fun i => !gone i && half i)).length * 2 ^ 24 + 1

def showFeat (m : Mgmt) : Mgmt := { m with feat1 := BitVec.ofNat 64 (feat1Of m) }

/-- What the management controller keeps across a reset, in a service state. -/
def resetMgmt (m : Mgmt) (service : Service) : Mgmt :=
  showFeat { m with
    service := service, full := false, toFull := false, stretch := 0, target := 0, limhold := false
    activeB := m.nextB, losses := [], stopped := [], sampledAt := none
    clusters := m.clusters.map (fun (c, x) => (c, { x with slice := none })) }

/-- The state after a reset: the durable Well, the key-state record, outstanding seals and what the
management controller keeps; every other memory, register and table is as at first. -/
def resetTo (s : State) (service : Service) : State :=
  { s with
    cyc := 0
    phase := .start
    agenda := []
    act := 0
    mgmt := resetMgmt s.mgmt service
    cp := { tree := s.cp.tree, leaf := s.cp.leaf, reserved := s.cp.reserved, issued := s.cp.issued,
            keyAlarm := s.cp.keyAlarm, sealCnt := s.cp.sealCnt, seals := s.cp.seals,
            sealedCtx := s.cp.sealedCtx, owed := s.cp.owed }
    mem := { phys := s.mem.phys.filter (fun c => decide (wellBase ≤ c.1))
             key := s.mem.key.filter (fun t => decide (wellBase ≤ 64 * t.1))
             ue := s.mem.ue.filter (fun u => u.1 == 7 && decide (wellBase ≤ 64 * u.2)) }
    ks := { lost := s.ks.lost, spareRows := s.ks.spareRows, waitingRows := s.ks.waitingRows }
    link := { clock := s.link.clock, elapsed := s.link.elapsed, ports := s.link.ports.map (fun (p, q) => (p, { signal := q.signal })) }
    streams := []
    kernels := []
    cores := [] }

/-! ## Service states (R40, R45) -/

/-- SUPPLY_GOOD: OFF to BOOT. -/
def execSupplyGood (s : State) : Out :=
  if s.mgmt.service = .off then .next (resetTo s .boot) else .next s

/-- Whether an image verifies: its signature against the fused root, and its rollback counter. -/
def imageVerifies (fuses : Nat) (i : Option Firmware) : Bool :=
  match i with
  | none => false
  | some f => Config.xmssVerifies Config.publicRoot f.image f.signature && decide (fuses ≤ f.rollback)
      && decide (f.rollback ≤ 64)

def Mgmt.bank (m : Mgmt) (b : Bool) : Bank := if b then m.bankB else m.bankA

/-- FIRMWARE_VERIFIED: the active bank is verified, and the other once when it fails; CALIB, or OFF when both
fail. -/
def execFirmwareVerified (s : State) : Out :=
  let m := s.mgmt
  if m.service ≠ .boot then .next s
  else if imageVerifies m.fuses (m.bank m.activeB).image then
    .next { s with mgmt := { m with service := .calib } }
  else if imageVerifies m.fuses (m.bank (!m.activeB)).image then
    .next { s with mgmt := { m with service := .calib, activeB := !m.activeB, nextB := !m.activeB } }
  else .next { s with mgmt := { m with service := .off, bootFails := m.bootFails + 1 } }

/-- CALIBRATION_COMPLETE: the offsets of every macro column; FULL follows at the next boundary. An offset
is keyed 1,040·core + 130·macro + column. -/
def execCalibrationComplete (offsets : Table (BitVec 16)) (s : State) : Out :=
  if s.mgmt.service = .calib && !s.mgmt.toFull then
    let s := offsets.foldl (fun s (k, w) =>
      s.updCore (k / 1040) (fun c => { c with calib := tset c.calib (k % 1040) w })) s
    .next { s with mgmt := { s.mgmt with toFull := true } }
  else .next s

/-- Rollback counter of the active image. -/
def activeRollback (m : Mgmt) : Nat := match (m.bank m.activeB).image with | none => 0 | some f => f.rollback

/-- The change to FULL at a multiple of 1,024, and the fuses blown then (R40, R41, R45). -/
def enterFull (s : State) : State :=
  let m := s.mgmt
  if m.toFull && m.service == .calib && s.cyc % Config.period = 0 then
    { s with mgmt := { m with
      service := .full, full := true, toFull := false, fuses := max m.fuses (activeRollback m) } }
  else s

/-! ## Fatal losses (R39, R239) -/

/-- A lost part is mapped out. -/
def mapOut (s : State) (x : Lost) : State :=
  let m := s.mgmt
  match x with
  | .bank pier shaft layer => { s with mgmt := { m with banksOut := (pier, shaft, layer) :: m.banksOut } }
  | .shaft pier shaft =>
    let y : Shaft := { tget {} m.shafts (32 * pier + shaft) with gone := true }
    { s with mgmt := { m with shafts := tset m.shafts (32 * pier + shaft) y } }
  | .layer pier layer => { s with mgmt := { m with layersOut := (pier, layer) :: m.layersOut } }
  | .keystone pier => { s with ks := { s.ks with lost := pier :: s.ks.lost } }

/-- Every part lost since the entry to PRESERVE is mapped out. -/
def mapOutAll (s : State) : State :=
  s.mgmt.losses.foldl (fun s x => match x with | .lost p => mapOut s p | .temperature _ => s) s

/-- The entry to PRESERVE. The package stops its groups among this cycle's outcomes (R129); parts lost until the logs
are written are logged and mapped out together. -/
def enterPreserve (s : State) (x : FatalCause) : State :=
  if serving s || s.mgmt.service == .preserve then
    { s with mgmt := { s.mgmt with service := .preserve, toFull := false, losses := s.mgmt.losses ++ [x] } }
  else s

/-- A fatal loss (R39). -/
def loseFatally (s : State) (x : Lost) : State := enterPreserve s (.lost x)

/-- FATAL_LOSS. -/
def execFatalLoss (x : Lost) (s : State) : Out := .next (loseFatally s x)

/-- 125 °C in 1/16 °C. -/
def criticalAt : Int := 2000

/-- The critical-temperature path (R44). -/
def checkCritical (s : State) (temp : Int) : State :=
  if serving s && decide (criticalAt ≤ temp) then enterPreserve s (.temperature temp) else s

/-- CRITICAL_TEMPERATURE: a die at 125 °C. -/
def execCriticalTemperature (temp : Int) (s : State) : Out := .next (checkCritical s temp)

/-! ## PRESERVE and supply loss (R47) -/

/-- What the fault log lists of a kernel that PKG_FATAL stops. -/
def fatalEntry (s : State) (k : Kernel) : LogEntry where
  code := codePkgFatal
  ctx := k.ctx
  gen := k.gen
  kseq := k.kseq
  digest := (imageOf s k).digest
  restart := bitOf (fieldLE k.record 6 1) 0

/-- A kernel stops with PKG_FATAL. The kernels of a sealed image are no group of the package. -/
def stopFatally (s : State) (x : Nat × Kernel) : State :=
  if x.2.alive && decide (x.2.ctx < Config.numContexts) then
    let s := { s with mgmt := { s.mgmt with stopped := s.mgmt.stopped ++ [fatalEntry s x.2] } }
    closeKernel s x.1 x.2 3 0x11 (faultWordOf 0 true ⟨codePkgFatal, 0, false⟩)
  else s

/-- In PRESERVE every group stops. -/
def stopGroups (s : State) : State :=
  if s.mgmt.service = .preserve then s.kernels.foldl stopFatally s else s

/-- Spare lanes in use on a shaft (R241). -/
def sparesUsed (sh : Shaft) : Nat := if sh.half = 0 then min sh.failed.length 32 else halfFailed sh sh.half

/-- The spare map. -/
def spareMapOf (s : State) : SpareMap where
  failed := s.mgmt.failed
  cores := (s.mgmt.failed.filterMap (fun u => match u with
    | .core p => some (clusterOf p)
    | .column .. | .lane .. | .keyRow .. | .csramGranule .. | .weightGranule .. => none)).eraseDups
  columns := s.mgmt.failed.filterMap (fun u => match u with
    | .column p mac _ => some (p, mac)
    | .core _ | .lane .. | .keyRow .. | .csramGranule .. | .weightGranule .. => none)
  lanes := (List.range Config.numShafts).map (fun i => sparesUsed (tget {} s.mgmt.shafts i))
  rows := (List.range 4).map (fun p => tget 0 s.ks.spareRows p)
  clusters := s.mgmt.clustersOut
  shafts := (List.range Config.numShafts).filter (fun i => (tget {} s.mgmt.shafts i).gone)
  banks := s.mgmt.banksOut
  layers := s.mgmt.layersOut
  keystones := s.ks.lost
  shadows := (List.range 4).find? (keystoneServes s)

/-- PRESERVE: every group has stopped, what has entered the persistence buffer is in the Well, the log is written, and
the package resets into BOOT with the lost parts mapped out. -/
def execPreserve (s : State) : Out :=
  if s.mgmt.service = .preserve then
    let s := stopGroups s
    let log : FaultLog :=
      { time := timeNs s, causes := s.mgmt.losses, kernels := s.mgmt.stopped, spares := spareMapOf s
        telemetry := s.mgmt.telemetry }
    let s := writeFaultLog { s with mgmt := { s.mgmt with log := s.mgmt.log ++ [log] } } faultAreaSize
    .next (resetTo (mapOutAll s) .boot)
  else .next s

/-- SUPPLY_LOSS: what has entered the persistence buffer stays; a power-loss record is logged, of which the spec gives
the largest size alone and the model keeps the time of the loss (log entry 112). A loss of supply in PRESERVE: log entry
119. -/
def execSupplyLoss (s : State) : Out :=
  let s := resetTo (mapOutAll (writeFaultLog s 0x10000)) .off
  .next { s with mgmt := { s.mgmt with powerLosses := s.mgmt.powerLosses ++ [timeNs s] } }

/-! ## Limits (R43, R44) -/

/-- The target stretch after a sample; temperatures in 1/16 °C. -/
def targetAfter (k : Nat) (m : Sample) : Nat :=
  if m.hottest ≥ 1600 ∨ m.power ≥ 1900 then min 64 (k + 8)
  else if m.hottest ≤ 1520 ∧ m.power ≤ 1800 then k - 8
  else k

/-- LIMHOLD after a sample. -/
def limholdAfter (x : Mgmt) (m : Sample) : Bool :=
  if m.hottest ≤ 1520 ∧ m.power ≤ 1800 then false
  else x.limhold || (x.stretch == 64 && (decide (m.hottest ≥ 1680) || decide (m.power ≥ 2000)))

/-- 100 µs in 1/192 ns. -/
def sampleTime : Nat := 19200000

/-- Whether the controller samples now: 100 µs have passed since its last sample, or its clock has been set back. -/
def sampleDue (s : State) : Bool :=
  serving s && (match s.mgmt.sampledAt with
    | none => true
    | some t => decide (t + sampleTime ≤ s.link.elapsed))

/-- LIMIT_SAMPLE: temperatures, the target stretch, LIMHOLD, the critical temperature. The limit holds end with the
cycle (R131). -/
def execLimitSample (m : Sample) (s : State) : Out :=
  if !sampleDue s then .next s
  else
    let x := s.mgmt
    let shafts := m.shafts.foldl (fun t (i, temp) =>
      let y : Shaft := { tget {} t i with temp := temp }
      tset t i y) x.shafts
    .next (checkCritical { s with
      mgmt := { x with target := targetAfter x.target m, limhold := limholdAfter x m, sample := m
                       sampledAt := some s.link.elapsed, shafts := shafts } } m.hottest)

/-- STRETCH_APPLY: at a multiple of 1,024. -/
def execStretchApply (s : State) : Out :=
  if s.cyc % Config.period = 0 then .next { s with mgmt := { s.mgmt with stretch := s.mgmt.target } }
  else .next s

/-! ## The management port (R45, R46) -/

/-- FIRMWARE_UPDATE: written to the inactive bank and verified there; active at the next reset. -/
def execFirmwareUpdate (img : Firmware) (s : State) : Out :=
  let m := s.mgmt
  let good := imageVerifies m.fuses (some img)
  let b : Bank := { image := some img, verified := good }
  let m := if m.activeB then { m with bankA := b } else { m with bankB := b }
  .next { s with mgmt := { m with nextB := if good then !m.activeB else m.activeB } }

/-- What a reading of the fault logs delivers. -/
def faultLogsOf (s : State) : FaultLogs where
  faults := s.mgmt.log
  powerLosses := s.mgmt.powerLosses
  bootFails := s.mgmt.bootFails
  notices := s.mgmt.notices
  scrubs := s.mgmt.scrubs
  area := s.mem.phys.filter (fun c => decide (wellBase ≤ c.1) && decide (c.1 < wellBase + faultAreaSize))

/-- Whether a physical address lies in the fault-log area behind its records. -/
def inFaultLogs (a : Nat) : Bool := decide (wellBase + faultLogBase ≤ a) && decide (a < wellBase + faultAreaSize)

/-- FAULT_LOG_READ: the logs are delivered, and cleared if the command says so; the records of the area stay. -/
def execFaultLogRead (clear : Bool) (s : State) : Out :=
  let s := reply s (.faultLogs (faultLogsOf s))
  if clear then
    .next { s with
      mem := { s.mem with phys := s.mem.phys.filter (fun c => !inFaultLogs c.1) }
      mgmt := { s.mgmt with
        log := [], bootFails := 0, powerLosses := [], notices := [], scrubs := [], noticeFlag := false } }
  else .next s

/-- sr.svc (R42) as telemetry reports it. -/
def svcWord (m : Mgmt) : Nat := m.stretch * 0x10000 + (if m.limhold then 8 else 0) + (if m.full then 1 else 0)

/-- The binding table of a kernel: sr.bind of each role (R158). -/
def bindingTable (s : State) (k : Kernel) : List Nat := k.bind.zipIdx.map (fun (p, role) => srBind s k p role)

/-- What a telemetry sample reports; the leaves remaining leave out the 4,096 reserved ones (log entry 139). -/
def telemetryOf (s : State) : Telemetry :=
  let m := s.mgmt
  let left := leavesAll - 4096 - leavesUsed s.cp
  { dies := m.sample.dies
    shafts := (List.range Config.numShafts).map (fun i => (tget {} m.shafts i).temp)
    power := m.sample.power
    svc := svcWord m
    residency := m.residency
    spares := spareMapOf s
    leaves := left
    leavesLow := decide (left < 65536)
    keyAlarm := s.cp.keyAlarm
    noticeFlag := m.noticeFlag
    bindings := (s.kernels.filter (fun p => p.2.holds)).map (fun p => (p.2.kseq, bindingTable s p.2)) }

/-- TELEMETRY_SAMPLE: at most one in a millisecond. -/
def execTelemetrySample (s : State) : Out :=
  let m := s.mgmt
  let soon := match m.telemAt with
    | none => false
    | some t => decide (s.link.elapsed < t + 192000000)
  if soon then .next s
  else
    let t := telemetryOf s
    .next (reply { s with mgmt := { m with telemetry := some t, telemAt := some s.link.elapsed } } (.telemetry t))

/-- SET_FAIL_THRESHOLDS: FAILN 1 to 15, FAILWIN 1 ms to 60 s (R268). -/
def execSetFailThresholds (n winNs : Nat) (s : State) : Out :=
  if 1 ≤ n && n ≤ 15 && 1000000 ≤ winNs && winNs ≤ 60000000000 then
    .next { s with mgmt := { s.mgmt with failN := n, failWin := 192 * winNs } }
  else .next s

/-! ## Test records (R276) -/

/-- Address of a cluster's test record. -/
def testAt (cluster : Nat) : Nat := 0x20001000000 + 32 * cluster

def testField (s : State) (cluster off n : Nat) : Nat := readLE s.mem.phys (testAt cluster + off) n

def setTest (s : State) (cluster off : Nat) (bs : List Byte) : State :=
  { s with mem := { s.mem with phys := writeBytes s.mem.phys (testAt cluster + off) bs } }

/-- No binding uses a retired cluster (R150). -/
def retireCluster (s : State) (cluster : Nat) : State :=
  let s := setTest s cluster 0 [1]
  if s.mgmt.clustersOut.contains cluster then s
  else { s with mgmt := showFeat { s.mgmt with clustersOut := cluster :: s.mgmt.clustersOut } }

/-! ## Failed units (R268) -/

/-- A core declared failed: with no spare left its cluster is retired. -/
def failCore (s : State) (p : Nat) : State :=
  if s.mgmt.failed.contains (.core p) then s
  else
    let s := { s with mgmt := { s.mgmt with failed := .core p :: s.mgmt.failed } }
    if (goodCores s (clusterOf p)).length < 4 then retireCluster s (clusterOf p) else s

/-- Failed columns of a macro. -/
def failedColumns (m : Mgmt) (p mac : Nat) : Nat :=
  (m.failed.filter (fun u => match u with
    | .column q n _ => q == p && n == mac
    | .core _ | .lane .. | .keyRow .. | .csramGranule .. | .weightGranule .. => false)).length

/-- What follows from the declaration of a unit. -/
def declareUnit (s : State) (u : UnitId) : State :=
  let mark (s : State) : State :=
    if s.mgmt.failed.contains u then s else { s with mgmt := { s.mgmt with failed := u :: s.mgmt.failed } }
  match u with
  | .core p => failCore s p
  | .column p mac _ =>
    let s := mark s
    if failedColumns s.mgmt p mac ≥ 3 then failCore s p else s
  | .lane pier shaft lane_ =>
    let i := 32 * pier + shaft
    let sh := tget {} s.mgmt.shafts i
    if sh.failed.contains lane_ || sh.waiting.contains lane_ then s
    else
      let s := mark s
      let y : Shaft := { sh with waiting := sh.waiting ++ [lane_] }
      { s with mgmt := { s.mgmt with shafts := tset s.mgmt.shafts i y } }
  | .keyRow pier _ =>
    if s.mgmt.failed.contains u then s
    else
      let waiting := tget 0 s.ks.waitingRows pier
      if tget 0 s.ks.spareRows pier + waiting < Config.spareRows then
        mark { s with ks := { s.ks with waitingRows := tset s.ks.waitingRows pier (waiting + 1) } }
      else loseFatally (mark s) (.keystone pier)
  | .csramGranule cluster _ => retireCluster (mark s) cluster
  | .weightGranule _ _ => mark s

/-- Declaration of a unit; a new one is written to the spare map in the fault-log area. -/
def declareFailed (s : State) (u : UnitId) : State :=
  let t := declareUnit s u
  if t.mgmt.failed = s.mgmt.failed then t else writeFaultLog t faultAreaSize

/-- Spare rows take the failed rows' places once no kernel holds its cores (R38); the new count goes to the spare map
(R268). -/
def takeRows (s : State) : State :=
  if s.ks.waitingRows.isEmpty || s.kernels.any (fun k => k.2.holds) then s
  else
    writeFaultLog { s with ks := { s.ks with
      spareRows := s.ks.waitingRows.foldl (fun t (p, n) => tset t p (tget 0 t p + n)) s.ks.spareRows
      waitingRows := [] } } faultAreaSize

/-- UNIT_EVENT_COUNT: one event of a unit, and its declaration when FAILN fall in (τ − FAILWIN, τ]. -/
def execUnitEventCount (u : UnitId) (s : State) : Out :=
  let m := s.mgmt
  let now := s.link.elapsed
  let events := (m.events ++ [(u, now)]).filter (fun e => decide (now < e.2 + m.failWin))
  let s := { s with mgmt := { m with events := events } }
  if (events.filter (fun e => e.1 == u)).length ≥ m.failN then .next (declareFailed s u) else .next s

/-! ## Shaft lanes (R238, R144) -/

/-- Kernels of class A that use a shaft fault with SHAFT_DEGRADED. -/
def degradeKernels (s : State) (shaft : Nat) : State :=
  { s with kernels := s.kernels.map (fun (i, k) => (i,
      if k.holds && !classB (imageOf s k) && inFootprint k 2 shaft && k.kfault.isNone then
        { k with kfault := some ⟨codeShaftDegraded, 0, false⟩ }
      else k)) }

/-- The half a shaft works on after its failed lanes: 0 full width, 1 lower, 2 upper; none when both halves
have more than 16. -/
def halfAfter (sh : Shaft) : Option Nat :=
  if sh.failed.length ≤ 32 then some 0
  else if halfFailed sh 1 ≤ 16 then some 1
  else if halfFailed sh 2 ≤ 16 then some 2
  else none

/-- LANE_SUBSTITUTION: at the refresh boundary; the lanes in use go to the spare map (R268). -/
def execLaneSubstitution (shaft : Nat) (s : State) : Out :=
  let sh := tget {} s.mgmt.shafts shaft
  if s.cyc % Config.period ≠ 0 || sh.waiting.isEmpty || sh.gone then .next s
  else
    let y : Shaft := { sh with failed := sh.failed ++ sh.waiting, waiting := [] }
    match halfAfter y with
    | none =>
      let s := { s with mgmt := { s.mgmt with shafts := tset s.mgmt.shafts shaft y } }
      .next (loseFatally s (.shaft (shaft / 32) (shaft % 32)))
    | some h =>
      let z : Shaft := { y with half := h }
      let s := { s with mgmt := showFeat { s.mgmt with shafts := tset s.mgmt.shafts shaft z } }
      .next (writeFaultLog (if sh.half = 0 && h != 0 then degradeKernels s shaft else s) faultAreaSize)

/-! ## Test slices (R275 to R277) -/

/-- 10 ms in 1/192 ns. -/
def idleLimit : Nat := 1920000000

/-- TEST_SLICE_START: a cluster that has stayed unbound for 10 ms. -/
def execTestSliceStart (cluster : Nat) (s : State) : Out :=
  let x := tget {} s.mgmt.clusters cluster
  let held := s.kernels.any (fun k => k.2.holds && k.2.clusters.contains cluster)
  if serving s && x.slice.isNone && !held && !s.mgmt.clustersOut.contains cluster
      && decide (x.idleAt + idleLimit ≤ s.link.elapsed) then
    let s := startSlice s cluster
    let y : Cluster := { tget {} s.mgmt.clusters cluster with idleAt := s.link.elapsed }
    .next { s with mgmt := { s.mgmt with clusters := tset s.mgmt.clusters cluster y } }
  else .next s

/-- An unsigned or signed part: everything before SIG (R97). -/
def noticeBody (cluster passTime failTime part_ parts_ : Nat) (unsigned : Bool) (xs : List Issued) : List Byte :=
  natLE 4 0x53394A48 ++ natLE 2 (if unsigned then 1 else 0) ++ natLE 2 1 ++ serialBytes ++ natLE 14 0
    ++ natLE 2 cluster ++ natLE 8 failTime ++ natLE 8 passTime ++ natLE 2 part_ ++ natLE 2 parts_
    ++ natLE 4 xs.length
    ++ xs.flatMap (fun x => natLE 1 x.tree ++ natLE 1 x.ctx ++ natLE 2 0 ++ natLE 4 x.leaf)

/-- A part reaches a context: NOTICE record, log, event entry (R90, R97, R117); its two bytes of pier and cluster are
32·pier + cluster (log entry 126). -/
def deliverNotice (s : State) (ctx part_ cluster : Nat) (bytes : List Byte) : State :=
  let s := appendRecord s ctx 7 0 0 (digest bytes ++ natLE 2 cluster ++ natLE 6 0)
  let off := (ctxAt s ctx).logHead
  let s := logWrite s ctx bytes
  (ctxQueues s ctx).foldl (fun s q =>
    postEvent s q (natLE 1 1 ++ natLE 1 0 ++ natLE 2 part_ ++ natLE 4 0 ++ natLE 8 off)) s

/-- A part goes to a peer as NOTICE messages (R256). -/
def noticeMessages (s : State) (node : Nat) (bytes : List Byte) : State :=
  let len := bytes.length
  let padded_ := bytes ++ List.replicate (roundUp len 64 - len) 0
  (List.range (ceilDiv len 4096)).foldl (fun s j =>
    queueMessage s
      { node := node, type := typeNotice, seq := 0, stamp := 0, addr := len * 0x1000000 + 4096 * j, csram := false,
        handle := 0, value := 0, ctx := 0, data := (padded_.drop (4096 * j)).take 4096, resent := false,
        port := none, ref := none, owner := none }) s

/-- Signs a part with the next reserved leaf; zeros once none is left, with the notice-key alarm (R95). -/
def signNotice (s : State) (body : Bool → List Byte) : State × List Byte :=
  let n := s.cp.reserved
  if n < 4096 then
    let b := body false
    ({ s with cp := { s.cp with reserved := n + 1 } }, b ++ signatureBytes 7 (2 ^ 20 - 4096 + n) b)
  else
    ({ s with cp := { s.cp with keyAlarm := true } }, body true ++ List.replicate 2820 0)

/-- The contexts a part names: each pair once. -/
def namedContexts (xs : List Issued) : List (Nat × Nat) := (xs.map (fun x => (x.ctx, x.gen))).eraseDups

/-- A part reaches one named context: at once while it is resident, at its unseal while it is sealed. -/
def routeNotice (s : State) (part_ cluster : Nat) (bytes : List Byte) (id : Nat × Nat) : State :=
  if resident s id.1 && (ctxAt s id.1).gen == id.2 then deliverNotice s id.1 part_ cluster bytes
  else
    match s.cp.sealedCtx.find? (fun x => x.2.1 == id.1 && x.2.2.gen == id.2) with
    | none => s
    | some x => { s with cp := { s.cp with owed := s.cp.owed ++
        [{ ctx := id.1, sealNo := x.1, partNo := part_, cluster := cluster, bytes := bytes }] } }

/-- Issues one part. -/
def issuePart (s : State) (cluster passTime failTime part_ parts_ : Nat) (xs : List Issued) : State :=
  let (s, bytes) := signNotice s (fun u => noticeBody cluster passTime failTime part_ parts_ u xs)
  let s := (namedContexts xs).foldl (fun s id => routeNotice s part_ cluster bytes id) s
  let s := ((List.range s.link.nodes).filter (fun n => n != s.link.self && nodeValid s.link n)).foldl
    (fun s n => noticeMessages s n bytes) s
  { logToArea s bytes with mgmt := { s.mgmt with notices := s.mgmt.notices ++ [bytes] } }

/-- The suspect notice of a cluster: every receipt issued since its last passing slice, its issue being the TIME of step 2
(R97, log entry 141). -/
def suspectNotice (s : State) (cluster : Nat) : State :=
  let passTime := testField s cluster 16 8
  let failTime := testField s cluster 24 8
  let xs := s.cp.issued.filter (fun x => decide (passTime ≤ x.time))
  let n := ceilDiv xs.length 4096
  (List.range n).foldl (fun s j =>
    issuePart s cluster passTime failTime (j + 1) n ((xs.drop (4096 * j)).take 4096)) s

/-- TEST_SLICE_END: a pass advances the record; a failure retires the cluster and issues the notice. -/
def execTestSliceEnd (cluster : Nat) (s : State) : Out :=
  let x := tget {} s.mgmt.clusters cluster
  if x.slice ≠ some 0 then .next s
  else
    let y : Cluster := { x with slice := none }
    let s := { s with mgmt := { s.mgmt with clusters := tset s.mgmt.clusters cluster y } }
    let idx := testField s cluster 1 1
    let s :=
      if x.defect then
        suspectNotice (retireCluster (setTest (setTest s cluster 2 (natLE 1 idx)) cluster 24 (natLE 8 (timeNs s))) cluster)
          cluster
      else
        let s := setTest (setTest s cluster 16 (natLE 8 (timeNs s))) cluster 1 (natLE 1 (idx + 1))
        if idx = 255 then setTest s cluster 4 (natLE 4 (testField s cluster 4 4 + 1)) else s
    .next { s with mgmt := { s.mgmt with
      testRd := tset s.mgmt.testRd cluster (readBytes s.mem.phys (testAt cluster) 32) } }

/-- CLUSTER_RETEST: all 256 steps, while no context holds the cluster; it returns when every step passes. -/
def execClusterRetest (cluster : Nat) (s : State) : Out :=
  let held := s.cp.ctxs.any (fun x => x.2.st != .free && bitOf (fieldLE x.2.desc 0x18 16) cluster)
  if serving s && testField s cluster 0 1 = 1 && !held && !(tget {} s.mgmt.clusters cluster).defect then
    let s := setTest s cluster 0 [0]
    .next { s with mgmt := showFeat { s.mgmt with clustersOut := s.mgmt.clustersOut.filter (· ≠ cluster) } }
  else .next s

end Sys2Proof.Machine
end

