-- ==== Sys2Proof/Machine/Context.lean ====
section
/-!
DEFINITION. The control ring and its commands (R74 to R81), images (R278, R299), sealing (R86, R87), and the
moves of a context slot (R75).
-/
namespace Sys2Proof.Machine

/-! ## The control ring (R80, R81) -/

/-- CONTROL_DOORBELL: an entry index is written to the control doorbell; an index of 64 or more, to which the spec
gives no effect, is discarded (log entry 125). -/
def execControlDoorbell (index : Nat) (s : State) : Out :=
  if serving s && decide (index < 64) then .next { s with cp := { s.cp with ctl := s.cp.ctl ++ [index] } }
  else .next s

/-- The entry that is next, its index and its bytes: a CTX.KILL before every other; else the first of the ring, but
that a CTX.YIELD of the same context goes before it (R77). -/
def controlEntry (s : State) : Option (Nat × List Byte) :=
  let es := s.cp.ctl.map (fun i => (i, readBytes s.mem.qmem (64 * i) 64))
  match es.find? (fun e => fieldLE e.2 0 1 == 0x0A) with
  | some e => some e
  | none =>
    match es with
    | [] => none
    | e :: _ => some ((es.find? (fun x => fieldLE x.2 0 1 == 0x05 && fieldLE x.2 1 1 == fieldLE e.2 1 1)).getD e)

/-- An entry completes: STATUS, then OP. -/
def completeControl (s : State) (i status : Nat) : State :=
  { s with
    mem := { s.mem with qmem := writeBytes (writeBytes s.mem.qmem (64 * i + 2) (natLE 1 status)) (64 * i) [0] }
    cp := { s.cp with ctl := s.cp.ctl.erase i } }

/-- Executes the entry at the head when it holds an OP: the entry's own checks, then the command. -/
def controlStart (op : Nat) (s : State) (f : State → Nat → Nat → List Byte → State) : Out :=
  match controlEntry s with
  | none => .next s
  | some (i, e) =>
    let ctx := fieldLE e 1 1
    if fieldLE e 0 1 ≠ op then .next s
    else if fieldLE e 3 1 ≠ 0 || (op != 3 && decide (ctx > 63)) then .next (completeControl s i 3)
    else .next (f s i ctx e)

/-- The same for a command that completes at once: it answers a status. -/
def controlRow (op : Nat) (s : State) (f : State → Nat → Nat → List Byte → State × Nat) : Out :=
  controlStart op s (fun s i ctx e =>
    let (s, status) := f s i ctx e
    completeControl s i status)

/-- An entry with an unlisted OP completes with BAD_CMD. -/
def badControl (s : State) : State :=
  match controlEntry s with
  | none => s
  | some (i, _) => completeControl s i 1

/-- Bytes of queue memory; none beyond its end. -/
def queueBytes (s : State) (a n : Nat) : Option (List Byte) :=
  if a + n ≤ Config.qmemSize then some (readBytes s.mem.qmem a n) else none

/-! ## Descriptors (R73, R74) -/

/-- Whether another resident context holds a cluster of a mask. -/
def maskTaken (s : State) (ctx mask : Nat) : Bool :=
  s.cp.ctxs.any (fun x => x.1 != ctx && x.2.st != .free && Nat.land (fieldLE x.2.desc 0x18 16) mask != 0)

/-- Whether a mask names a cluster that is retired or mapped out. -/
def maskOut (s : State) (mask : Nat) : Bool := s.mgmt.clustersOut.any (bitOf mask)

/-- The fields of a descriptor alone. -/
def descFits (d : List Byte) : Bool :=
  let config := fieldLE d 0 8
  zeroBytes d 0x49 0x37 && config < 256 && !bitOf config 1 && !bitOf config 4
    && (!bitOf config 3 || bitOf config 2)
    && decide (fieldLE d 0x48 1 < 64) && bitOf (fieldLE d 0x10 8) (fieldLE d 0x48 1)
    && fieldLE d 0x08 8 % 0x1000 == 0 && fieldLE d 0x28 8 % 0x10000 == 0 && fieldLE d 0x38 8 % 0x1000 == 0
    && fieldLE d 0x40 8 % 0x1000 == 0 && decide (0x10000 ≤ fieldLE d 0x40 8)

/-- The status with which R74 rejects a descriptor for a slot; BAD_DESC comes before SAVE_SMALL (log entry 124). -/
def descReject (s : State) (ctx : Nat) (d : List Byte) : Option Nat :=
  let mask := fieldLE d 0x18 16
  if !descFits d || maskOut s mask || maskTaken s ctx mask then some 3
  else if fieldLE d 0x30 8 < 0x1000000 * (maskClusters mask).length then some 6
  else none

/-! ## The code window (R278) -/

/-- Code and data sections of an image, as one. -/
def imageSections (im : Image) : List Byte := (im.bytes.drop (fieldLE im.bytes 0x18 4)).take (im.codeSize + im.dataSize)

/-- Copies an image into the code window of a cluster. -/
def copyImage (m : Mem) (cluster : Nat) (im : Image) : Mem :=
  let a := csramAddr cluster (0x700000 + im.offset)
  let bs := imageSections im
  { m with
    csram := writeBytes m.csram a bs
    ue := m.ue.filter (fun u => !(u.1 == 5 && decide (a ≤ 64 * u.2) && decide (64 * u.2 + 64 ≤ a + bs.length))) }

/-- Copies every image of a context into the clusters of a mask. -/
def copyImages (s : State) (ctx mask : Nat) : State :=
  { s with mem := (maskClusters mask).foldl (fun m c =>
      (ctxAt s ctx).images.foldl (fun m x => copyImage m c x.2) m) s.mem }

/-- The lowest free offset of the window for a number of bytes. -/
def windowPlace (images : Table Image) (n : Nat) : Option Nat :=
  ((List.range 256).map (· * 0x1000)).find? (fun o =>
    decide (o + n ≤ 0x100000) && images.all (fun x =>
      decide (o + n ≤ x.2.offset) || decide (x.2.offset + x.2.codeSize + x.2.dataSize ≤ o)))

/-! ## Images (R299) -/

/-- A table or section within the image; an empty one reaches nowhere. -/
def within (off len size : Nat) : Bool := len == 0 || decide (off + len ≤ size)

/-- Whether a header keeps R299. -/
def headerFits (b : List Byte) : Bool :=
  let n := b.length
  let code := fieldLE b 0x30 4
  let data := fieldLE b 0x34 4
  let nsec := fieldLE b 0x10 2
  let npts := fieldLE b 0x12 2
  let ndr := fieldLE b 0x14 2
  let nreg := fieldLE b 0x16 2
  decide (64 ≤ n) && fieldLE b 0 4 == 0x49394A48 && fieldLE b 4 2 == 1 && zeroBytes b 6 1 && decide (fieldLE b 7 1 < 2)
    && zeroBytes b 8 8 && zeroBytes b 0x38 8
    && code % 64 == 0 && decide (64 ≤ code) && decide (code + data ≤ 0x100000)
    && 1 ≤ nsec && nsec ≤ 512 && npts ≤ 4096 && ndr ≤ 1024 && nreg ≤ 4096
    && (List.range 6).all (fun i => fieldLE b (0x18 + 4 * i) 4 % 64 == 0)
    && within (fieldLE b 0x18 4) (code + data) n && within (fieldLE b 0x1C 4) (16 * nsec) n
    && within (fieldLE b 0x20 4) (8 * npts + 4 * npts * nsec) n && within (fieldLE b 0x24 4) (16 * ndr) n
    && within (fieldLE b 0x28 4) (16 * nreg) n && within (fieldLE b 0x2C 4) 1536 n

/-! ## Commands -/

/-- Changes nothing and answers a status. -/
def reject (s : State) (status : Nat) : State × Nat := (s, status)

/-- CTX.NEW; an address beyond queue memory answers BAD_DESC (log entry 122). -/
def execCtxNew (s : State) : Out :=
  controlRow 0x01 s (fun s _ ctx e =>
    if (ctxAt s ctx).st ≠ .free then reject s 5
    else
      match queueBytes s (fieldLE e 8 8) 128 with
      | none => reject s 3
      | some d =>
        match descReject s ctx d with
        | some st => reject s st
        | none =>
          let gen := nextGen s ctx
          let nonce := (e.drop 16).take 32
          let chain := if bitOf (fieldLE d 0 8) 2 then chainStart ctx gen nonce else []
          let s := updCtx (storeGen s ctx gen) ctx (fun _ => { st := .ready, gen := gen, desc := d, chain := chain })
          (appendRecord s ctx 1 0 0 (d.take 8 ++ (d.drop 0x10).take 24 ++ nonce), 0))

/-- CTX.SET; an address beyond queue memory answers BAD_DESC (log entry 122). -/
def execCtxSet (s : State) : Out :=
  controlRow 0x02 s (fun s _ ctx e =>
    let c := ctxAt s ctx
    if c.st ≠ .ready && c.st != .switched then reject s 2
    else
      match queueBytes s (fieldLE e 8 8) 128 with
      | none => reject s 3
      | some d =>
        if bitsOf (fieldLE d 0 8) 3 2 ≠ bitsOf (fieldLE c.desc 0 8) 3 2 then reject s 3
        else
          match descReject s ctx d with
          | some st => reject s st
          | none =>
            let old := cluMask s ctx
            let new := fieldLE d 0x18 16
            let s := updCtx s ctx (fun c => { c with desc := d })
            (copyImages s ctx (new - Nat.land new old), 0))

/-- CTX.KEY; a slot above 63 or an address beyond queue memory answers BAD_DESC (log entry 122). -/
def execCtxKey (s : State) : Out :=
  controlRow 0x03 s (fun s _ _ e =>
    let slot := fieldLE e 8 1
    let a := fieldLE e 16 8
    match queueBytes s a 64 with
    | none => reject s 3
    | some key =>
      if slot > 63 then reject s 3
      else if s.cp.ctxs.any (fun x => x.2.st != .free && bitOf (fieldLE x.2.desc 0x10 8) slot) then reject s 4
      else
        ({ s with
          cp := { s.cp with keys := tset s.cp.keys slot key }
          mem := { s.mem with qmem := writeBytes s.mem.qmem a (List.replicate 64 0) } }, 0))

/-- What an image's bytes say against it, and its place in the code window (R278, R299). -/
def imagePlace (c : Context) (b : List Byte) : Nat ⊕ Nat :=
  if !headerFits b then .inl 3
  else
    match windowPlace c.images (fieldLE b 0x30 4 + fieldLE b 0x34 4) with
    | none => .inl 9
    | some o => .inr o

/-- Registers an image whose bytes the hash unit has read: its place, its copies, its CODE record, its index. -/
def registerImage (s : State) (i ctx va len : Nat) (b : List Byte) (lossy : Bool) : State × Nat :=
  match imagePlace (ctxAt s ctx) b with
  | .inl st => reject s st
  | .inr o =>
    let im : Image :=
      { offset := o, codeSize := fieldLE b 0x30 4, dataSize := fieldLE b 0x34 4, bytes := b, digest := digest b }
    let n := (ctxAt s ctx).images.length
    let s := updCtx s ctx (fun c => { c with images := tset c.images n im })
    let mem := (maskClusters (cluMask s ctx)).foldl (fun m cl => copyImage m cl im) s.mem
    let s := appendRecord { s with mem := mem } ctx 2 (if lossy then 1 else 0) 0 (im.digest ++ natLE 8 va ++ natLE 8 len)
    ({ s with mem := { s.mem with qmem := writeBytes s.mem.qmem (64 * i + 24) (natLE 1 n) } }, 0)

/-- Whether the control ring waits for the digest of an image (R80, R88). -/
def imaging (s : State) : Bool :=
  s.cp.hashing.any (fun h => match h.use with
    | .image .. => true
    | .args .. | .result .. => false)

/-- CTX.IMG: its checks, in the order of log entry 123; then the hash unit reads the image, and the entry completes when
its digest does (log entry 120). -/
def execCtxImg (s : State) : Out :=
  controlStart 0x04 s (fun s i ctx e =>
    let c := ctxAt s ctx
    let va := fieldLE e 8 8
    let len := fieldLE e 16 8
    if imaging s then s
    else if c.st ≠ .ready then completeControl s i 2
    else if c.images.length ≥ 16 then completeControl s i 9
    else
      match tableRange s ctx cpReadable va len with
      | none => completeControl s i 0x0B
      | some ps =>
        match imagePlace c (readPieces s ps) with
        | .inl st => completeControl s i st
        | .inr _ => startHash s ctx (.image i va len) ps)

/-- The kernels of a context that are not over. -/
def liveKernels (s : State) (ctx : Nat) : List (Nat × Kernel) :=
  s.kernels.filter (fun x => x.2.ctx == ctx && x.2.alive)

/-- CTX.YIELD: a request to every kernel of the context (R135); a relaunch that has not taken place waits for
CTX.RESUME (R78). -/
def execCtxYield (s : State) : Out :=
  controlRow 0x05 s (fun s _ ctx _ =>
    if (ctxAt s ctx).st ≠ .running then reject s 2
    else
      let waits := s.kernels.filter (fun x => x.2.ctx == ctx && x.2.st == .relaunching)
      let s := waits.foldl (fun s x => markRelaunch (s.setKernel x.1 { x.2 with deferred := true }) x.1 x.2)
        (updCtx s ctx (fun c => { c with st := .yielding }))
      let rows := (liveKernels s ctx).map (fun x => Item.row (.preemptLatch x.1))
      ({ s with agenda := rows ++ s.agenda }, 0))

/-- A kernel that a yield has to wait for no longer: suspended, or its relaunch deferred. -/
def Kernel.away (k : Kernel) : Bool := k.st == .suspended || (k.st == .relaunching && k.deferred) || !k.alive

/-- The clusters that a context lets go when it is SWITCHED: those of CLUMASK that no drain has released already
(R75, log entry 136). -/
def switchedClusters (s : State) (ctx : Nat) : List Nat :=
  let drained := s.kernels.flatMap (fun x => if x.2.ctx = ctx ∧ x.2.st = .suspended then x.2.clusters else [])
  (maskClusters (cluMask s ctx)).filter (fun c =>
    !drained.contains c && !s.mgmt.clustersOut.contains c && (tget {} s.mgmt.clusters c).slice.isNone)

/-- CONTEXT_SWITCHED: every kernel of a yielding context is pre-empted or ended; every other cluster of the context is
saved too, and takes a test slice (R75, R83). -/
def execContextSwitched (s : State) : Out :=
  match s.cp.ctxs.find? (fun x => x.2.st == .yielding && s.kernels.all (fun k => k.2.ctx != x.1 || k.2.away)) with
  | none => .next s
  | some (ctx, _) =>
    .next (updCtx ((switchedClusters s ctx).foldl startSlice (writeIdleFrames s ctx)) ctx (fun c => { c with st := .switched }))

/-- Whether a kernel comes back at CTX.RESUME: one that PREEMPT holds suspended does not (R112). -/
def comesBack (k : Kernel) : Bool := (k.st == .suspended && !k.userHold) || (k.st == .relaunching && k.deferred)

/-- Whether a kernel has a binding on the clusters of a mask as though none were busy, other suspended kernels' among them
(log entry 143). -/
def bindsOn (s : State) (mask : Nat) (k : Kernel) : Bool :=
  classFits s k && (findBinding s k.decl mask [] false { anchors := anchorsOf s k.pages true, onePier := false }).isSome

/-- CTX.RESUME: the new CLUMASK; suspended kernels are bound as R111 and R151 give. -/
def execCtxResume (s : State) : Out :=
  controlRow 0x06 s (fun s _ ctx e =>
    let mask := fieldLE e 8 16
    let live := liveKernels s ctx
    if (ctxAt s ctx).st ≠ .switched then reject s 2
    else if maskOut s mask || maskTaken s ctx mask then reject s 3
    else if ctxField s.cp ctx 0x30 8 < 0x1000000 * (maskClusters mask).length then reject s 6
    else if live.any (fun x => comesBack x.2 && !bindsOn s mask x.2) then reject s 8
    else
      let old := cluMask s ctx
      let s := updCtx s ctx (fun c =>
        { c with desc := patch c.desc 0x18 (natLE 16 mask), st := if live.isEmpty then .ready else .running })
      let s := copyImages s ctx (mask - Nat.land mask old)
      ({ s with kernels := s.kernels.map (fun (i, k) =>
          (i, if k.ctx = ctx then { k with deferred := false } else k)) }, 0))

/-! ## The queues of a context that ends (R116) -/

/-- The record of a queue goes DISABLED; that of a command of a queue disabled earlier goes. -/
def offQueue (s : State) (q : Nat) : State :=
  if q ≥ Config.numQueues then { s with cp := { s.cp with queues := tdel s.cp.queues q } }
  else updQueue s q (fun x => { x with st := .disabled, cmd := [], begun := false, copy := none })

/-- A queue's command is over before its time: it completes with no other status, and its hashing stops. -/
def dropFinish (s : State) (q : Nat) : State :=
  { s with cp := { s.cp with
      finished := s.cp.finished.filter (fun f => f.1 != q)
      hashing := s.cp.hashing.filter (fun h => match h.use with
        | .args .. | .image .. => true
        | .result i _ _ _ _ => i != q) } }

/-- A queue goes DISABLED; its command in progress completes with a status, a receipt being signed when its
signing ends. -/
def shutQueue (status : Nat) (s : State) (q : Nat) : State :=
  let x := queueAt s q
  let s := dropFinish s q
  if x.st = .active || x.st == .waiting then
    if s.cp.signing.any (fun g => g.queue == some q) then
      offQueue { s with cp := { s.cp with signing := s.cp.signing.map (fun g =>
        if g.queue = some q then { g with queue := none, discard := some status } else g) } } q
    else offQueue (completeCommand s q status) q
  else offQueue s q

/-- Every queue of a context, and every command that goes on of one disabled earlier. -/
def shutQueues (s : State) (ctx status : Nat) : State :=
  (ctxQueues s ctx ++ movedCommands s ctx).foldl (shutQueue status) s

/-! ## Sealing (R86, R87) -/

/-- The frame map: two bytes for each frame of the save area. -/
def frameMap (s : State) (ctx : Nat) : List Byte :=
  (List.range 128).flatMap (fun n =>
    match tfind (ctxAt s ctx).frames n with
    | none => natLE 2 (Config.frameWord false false 0 0)
    | some e => natLE 2 (Config.frameWord e.valid e.relaunch e.kid e.role))

/-- Bytes 0x000 to 0x3BF of a sealed image. -/
def sealBody (s : State) (ctx counter : Nat) : List Byte :=
  (ctxAt s ctx).desc ++ statusBlock (ctxAt s ctx) ctx ++ frameMap s ctx ++ natLE 8 counter ++ List.replicate 440 0

/-- The context number of the kernels of a sealed image. -/
def sealedNumber (counter : Nat) : Nat := 1000 + counter

/-- CTX.SEAL. -/
def execCtxSeal (s : State) : Out :=
  controlRow 0x07 s (fun s _ ctx e =>
    let c := ctxAt s ctx
    let a := fieldLE e 8 8
    if c.st ≠ .ready && c.st != .switched then reject s 2
    else if !inCistern s.mgmt a 1024 then reject s 0x0B
    else if s.cp.seals.length ≥ 4096 then reject s 5
    else
      let counter := s.cp.sealCnt + 1
      let s := flushDue s ctx
      let c := ctxAt s ctx
      let body := sealBody s ctx counter
      let s := { s with mem := physWrite s.mem 0 a (body ++ sealTag body) }
      let s := shutQueues s ctx 2
      let s := { s with
        cp := { s.cp with sealCnt := counter, seals := s.cp.seals ++ [counter]
                          sealedCtx := s.cp.sealedCtx ++ [(counter, ctx, c)] }
        kernels := s.kernels.map (fun (i, k) => (i,
          if k.ctx = ctx ∧ k.alive then { k with ctx := sealedNumber counter, queue := none } else k)) }
      (updCtx s ctx (fun c => { gen := c.gen }), 0))

/-- CTX.UNSEAL. -/
def execCtxUnseal (s : State) : Out :=
  controlRow 0x08 s (fun s _ ctx e =>
    let a := fieldLE e 8 8
    if (ctxAt s ctx).st ≠ .free then reject s 2
    else if !inCistern s.mgmt a 1024 then reject s 0x0B
    else
      let b := physRead s.mem 0 a 1024
      let counter := fieldLE b 0x200 8
      let held := s.cp.sealedCtx.find? (fun x => x.1 == counter)
      match held with
      | none => reject s 7
      | some (_, slot, c) =>
        if b.drop 0x3C0 ≠ sealTag (b.take 0x3C0) || !s.cp.seals.contains counter || slot != ctx
            || bitsOf (fieldLE b 0x84 4) 21 16 != ctx then reject s 7
        else
          match descReject s ctx c.desc with
          | some st => reject s st
          | none =>
            let gen := nextGen s ctx
            let s := updCtx (storeGen s ctx gen) ctx (fun _ => { c with gen := gen })
            let owed := s.cp.owed.filter (fun o => o.sealNo == counter)
            let s := { s with
              cp := { s.cp with
                seals := s.cp.seals.filter (· ≠ counter)
                sealedCtx := s.cp.sealedCtx.filter (fun x => x.1 != counter)
                owed := s.cp.owed.filter (fun o => o.sealNo != counter)
                issued := s.cp.issued.map (fun x => if x.ctx = ctx ∧ x.gen = c.gen then { x with gen := gen } else x) }
              kernels := s.kernels.map (fun (i, k) => (i,
                if k.ctx = sealedNumber counter then { k with ctx := ctx, gen := gen } else k)) }
            let s := copyImages s ctx (cluMask s ctx)
            (owed.foldl (fun s o => deliverNotice s ctx o.partNo o.cluster o.bytes) s, 0))

/-! ## CLEAR, KILL, READ -/

/-- CTX.CLEAR. -/
def execCtxClear (s : State) : Out :=
  controlRow 0x09 s (fun s _ ctx _ =>
    let c := ctxAt s ctx
    if c.st ≠ .faulted then reject s 2
    else (appendRecord (updCtx s ctx (fun c => { c with st := .ready })) ctx 8 0 0 (natLE 8 c.fault), 0))

/-- The epoch up to which a killed role's epochs can still become durable: every later one has lost writes
or is open. -/
def keptEpoch (t : Stream) : Nat :=
  t.cmds.foldl (fun n o => match o.kind with
    | .wellWrite .. => min n o.epoch
    | .remoteWrite .. | .remoteRead .. | .arrive _ | .coll _ | .fence _ => n) t.epoch

/-- What a killed kernel had not handed over is gone (R225). -/
def dropStreams (s : State) (kid : Nat) : State :=
  { s with streams := s.streams.map (fun t =>
      if t.kid = kid then { t with cmds := [], epoch := max t.depoch (keptEpoch t), final := some 3, pbars := [] } else t) }

/-- Every core and engine of a kernel stops at once; no record. -/
def killKernel (s : State) (x : Nat × Kernel) : State :=
  let (kid, k) := x
  let s := dropStreams (releaseGroup s k) kid
  let s := s.setKernel kid { k with st := .faulted, queue := none, preemptQ := [], saved := [], savedSram := [] }
  settleFinal (releasePages s kid k) kid

/-- CTX.KILL. -/
def execCtxKill (s : State) : Out :=
  controlRow 0x0A s (fun s _ ctx _ =>
    if (ctxAt s ctx).st = .free then reject s 2
    else
      let s := (liveKernels s ctx).foldl killKernel s
      let s := shutQueues s ctx 0x0D
      let s := { s with
        link := { s.link with colls := s.link.colls.filter (fun c => c.ctx != ctx) }
        cp := { s.cp with hashing := s.cp.hashing.filter (fun h => h.ctx != ctx) } }
      (updCtx s ctx (fun c => { gen := c.gen }), 0))

/-- CTX.READ; an address beyond queue memory answers BAD_DESC (log entry 122). -/
def execCtxRead (s : State) : Out :=
  controlRow 0x0B s (fun s _ ctx e =>
    let a := fieldLE e 8 8
    let c := ctxAt s ctx
    if a + 256 > Config.qmemSize then reject s 3
    else
      let d := (c.desc ++ List.replicate (128 - c.desc.length) 0).take 128
      ({ s with mem := { s.mem with qmem := writeBytes s.mem.qmem a (d ++ statusBlock c ctx) } }, 0))

/-- The row of the entry at the head of the control ring, by its OP (R81). -/
def controlItem (op : Nat) : Item :=
  match op with
  | 0x01 => .row .ctxNew
  | 0x02 => .row .ctxSet
  | 0x03 => .row .ctxKey
  | 0x04 => .row .ctxImg
  | 0x05 => .row .ctxYield
  | 0x06 => .row .ctxResume
  | 0x07 => .row .ctxSeal
  | 0x08 => .row .ctxUnseal
  | 0x09 => .row .ctxClear
  | 0x0A => .row .ctxKill
  | 0x0B => .row .ctxRead
  | _ => .badControl

end Sys2Proof.Machine
end

