-- ==== Sys2Proof/Machine/Copy.lean ====
section
/-!
DEFINITION. The transfers of COPY commands and of collectives outside the groups' timetables: what a COPY names
(R104, R174), the network slots they take (R32, R113, R152), and what each beat reads and writes.
-/
namespace Sys2Proof.Machine

/-! ## What a COPY names (R104, R174) -/

/-- Elements of a number of stored bytes, none when it is not whole. -/
def copyElems (code n : Nat) : Option Nat :=
  if n % unitBytes code = 0 then some (n / unitBytes code * unitSize code) else none

/-- Pages that COPY writes (log entry 106). -/
def copyWritable (p : PageT) : Bool := p.write && p.kind != 2

/-- Whether a bound kernel lists a weight-store page that a piece reaches. -/
def weightsBound (s : State) (a n : Nat) : Bool :=
  s.kernels.any (fun x => x.2.holds && x.2.pages.any (fun p =>
    p.kind == 1 && decide (p.phys < a + n) && decide (a < p.phys + p.size)))

def isWeight (a : Nat) : Bool := 0x4000000000 ≤ a && a < 0x4200000000

/-- Whether a range of physical memory meets a page that a kernel holds as a pool (R227, R230). -/
def inPool (s : State) (a n : Nat) : Bool :=
  s.kernels.any (fun k => k.2.alive && k.2.pools.any (fun p => decide (p.phys < a + n) && decide (a < p.phys + 0x10000)))

/-- The transfer of a COPY command, its addresses translated once, at its dispatch; or the status with which it is
turned away (page kinds: log entry 106; the order of its checks: log entry 142). -/
def copyReq (s : State) (x : Queue) : Nat ⊕ CopyRun :=
  let c := x.cmd
  let sf := fieldLE c 32 1
  let df := fieldLE c 33 1
  let mode := fieldLE c 34 1
  let len := fieldLE c 24 8
  if mode > 4 || codeReserved sf || codeReserved df then .inl 3
  else if mode = 4 ∧ !efok s x.ctx then .inl 0x16
  else
    match copyElems sf len with
    | none => .inl 0x0B
    | some n =>
      if n % unitSize df ≠ 0 then .inl 0x0B
      else
        let out := n / unitSize df * unitBytes df
        let crec := fieldLE c 40 8
        match tableRange s x.ctx (fun _ => true) (fieldLE c 8 8) len,
            tableRange s x.ctx copyWritable (fieldLE c 16 8) out,
            (if crec = 0 then some [] else tableRange s x.ctx copyWritable crec 32) with
        | some src, some dst, some rec_ =>
          if src.any (fun (a, _, m) => inPool s a m) then .inl 0x0B
          else if dst.any (fun (a, _, m) => isWeight a && weightsBound s a m) then .inl 2
          else .inr { src := src, dst := dst, rec_ := rec_, whole := dst, beats := ceilDiv (max len out) 64, units := len / unitBytes sf,
                      sf := sf, df := df, mode := mode, fpr := bitOf (fieldLE c 35 1) 0 }
        | none, _, _ | some _, none, _ | some _, some _, none => .inl 0x0B

/-! ## A beat of a COPY -/

/-- Bytes of the pieces before the first sector with an error; none without one. -/
def cleanBytes (s : State) : List (Nat × Nat × Nat) → Nat → Option Nat
  | [], _ => none
  | (a, _, n) :: ps, before =>
    match (if n = 0 then none else physUe s a n) with
    | some u => some (before + (64 * u - a))
    | none => cleanBytes s ps (before + n)

/-- Elements outside a Q format encoded one after the other, and the residual after them. The feedback groups of
RNE-EF are 64 elements, counted from the first of the command (R58, R59, log entry 107). -/
def encodeWords (code mode : Nat) : Nat → Num → List Word32 → List Byte × Num
  | _, r, [] => ([], r)
  | e, r, w :: ws =>
    let x := encodeUnit code mode e w r
    let y := encodeWords code mode (e + 1) x.2 ws
    (x.1 ++ y.1, y.2)

/-- Words encoded under a code, from element e of the command on. -/
def encodeCopy (code mode e : Nat) (resid : Num) (ws : List Word32) : List Byte × Num :=
  if isQ code then
    ((List.range (ws.length / qGroup code)).flatMap (fun g =>
      qEncode code mode ((ws.drop (g * qGroup code)).take (qGroup code))), resid)
  else encodeWords code mode e resid ws

/-- Words of stored bytes. -/
def decodeCopy (code : Nat) (bs : List Byte) : List Word32 :=
  (List.range (bs.length / unitBytes code)).flatMap (fun i =>
    unitWords code ((bs.drop (i * unitBytes code)).take (unitBytes code)))

/-- Bytes written over the pieces of a destination, and what is left of both. To the Well go whole sectors, but for
the last bytes of the command. -/
def copyOut (m : Mem) (lossy last : Bool) : List (Nat × Nat × Nat) → List Byte →
    Mem × List (Nat × Nat × Nat) × List Byte
  | [], _ => (m, [], [])
  | (a, key, n) :: ps, bs =>
    if bs.isEmpty then (m, (a, key, n) :: ps, [])
    else if n ≤ bs.length then copyOut (putBytes m false lossy key a (bs.take n)) lossy last ps (bs.drop n)
    else
      let k := if wellBase ≤ a && !last then bs.length - (a + bs.length) % 64 else bs.length
      (putBytes m false lossy key a (bs.take k), (a + k, key, n - k) :: ps, bs.drop k)

/-- One beat of a COPY: its share of the source elements is read, and what is whole under the destination's code is
encoded and written; an error stops it after the elements before it. -/
def copyBeat (s : State) (x : CopyRun) : CopyRun × Mem :=
  let upTo (b : Nat) : Nat := x.units * b / x.beats
  let n := (upTo (x.beat + 1) - upTo x.beat) * unitBytes x.sf
  let (now, left) := takePieces n x.src
  let clean := cleanBytes s now 0
  let bytes := cpBytes s (match clean with | none => now | some b => (takePieces b now).1)
  let lossy := x.lossy || now.any (fun p => lossyIn s.mem 0 p.1 p.2.2)
  let words := x.words ++ decodeCopy x.sf bytes
  let whole := words.length / unitSize x.df * unitSize x.df
  let (enc, resid) := encodeCopy x.df x.mode x.elems x.resid (words.take whole)
  let last := clean.isSome || x.beat + 1 == x.beats
  let (m, dst, out) := copyOut s.mem lossy last x.dst (x.out ++ enc)
  ({ x with
      src := left, dst := dst, beat := x.beat + 1, words := words.drop whole, resid := resid, out := out
      elems := x.elems + whole
      fp := if x.fpr then (decodeCopy x.df enc).foldl (fun f w => f.step (laneValue x.df w)) x.fp else x.fp
      lossy := lossy, failed := clean.isSome }, m)

/-- Whether a sector of some pieces in the Well is not yet durable. -/
def wellBusy (s : State) (ps : List (Nat × Nat × Nat)) : Bool :=
  ps.any (fun (a, _, n) => s.mem.pend.any (fun w => decide (w.addr < a + n) && decide (a < w.addr + 64)))

/-- Whether a COPY has written everything, durably where it is in the Well. -/
def copyDone (s : State) (x : CopyRun) : Bool :=
  (x.failed || decide (x.beats ≤ x.beat)) && !wellBusy s (x.whole ++ x.rec_)

/-- The end of a COPY: its record, then its status. -/
def endCopy (s : State) (q : Nat) (x : CopyRun) : State :=
  let status := if x.failed then 0x12 else 0
  let fp := if x.fpr then x.fp.bytes else List.replicate 24 0
  let m := putPieces s.mem true false x.rec_ (natLE 4 status ++ natLE 4 x.elems ++ fp)
  completeCommand { s with mem := m } q status

/-! ## Network slots (R32, R113, R152) -/

/-- The pier of a Wibin port (R24). -/
def pierOfPort (p : Nat) : Nat := if p < 5 then 0 else if p < 9 then 1 else if p < 14 then 2 else 3

/-- The network segments between two piers: theirs, and the inter-pier segments when they differ. -/
def segments (a b : Nat) : List Nat := if a = b then [a] else [a, b, 4]

/-- Classes in the order of R113 from a turn on. -/
def classOrder (turn : Nat) : List Nat := (List.range 4).map (fun i => ([2, 1, 2, 0] : List Nat).getD ((turn + i) % 4) 0)

/-- What waits for a slot: a queue's COPY, or by its place a collective's own traffic, or a collective's data that have
come to this chip (R423). -/
inductive SlotKind where
  | copy | coll | inbound
  deriving DecidableEq, Repr

/-- A transfer that waits for a slot: its class, when it was dispatched, the segments its next beat needs. -/
structure SlotUser where
  kind  : SlotKind
  index : Nat
  cls   : Nat
  since : Nat
  segs  : List Nat

/-- The segments of a COPY's next beat, by the physical addresses of both its sides; the Well is reached over the
Cistern side's pier. -/
def copySegments (x : CopyRun) : List Nat :=
  let a := (x.src.headD (0, 0, 0)).1
  let b := (x.dst.headD (0, 0, 0)).1
  if b ≥ wellBase then [pierOfAddr a] else if a ≥ wellBase then [pierOfAddr b] else segments (pierOfAddr a) (pierOfAddr b)

/-- The segments of a collective's data: from the memory it sends to the port of its successor's path. -/
def collSegments (s : State) (c : Coll) : List Nat :=
  let (va, _) := sendRange c s.link.self c.round
  let a := match collRange s c va 64 with | some ((a, _, _) :: _) => pierOfAddr a | some [] | none => 0
  let p := match usablePath s.link (successor c s.link.self) with | none => a | some (_, p) => pierOfPort p
  segments a p

/-- The segments of a collective's engine in its own memory. -/
def memSegments (s : State) (c : Coll) : List Nat :=
  match collRange s c (if c.op = 2 then c.buf else c.acc) 64 with
  | some ((a, _, _) :: _) => [pierOfAddr a]
  | some [] | none => [0]

/-- Whether a beat reaches a shaft of the Cistern: in bays 0 and 1 none does (R240). -/
def shaftBeat (x : CopyRun) : Bool :=
  decide ((x.src.headD (0, 0, 0)).1 < 0x4000000000) || decide ((x.dst.headD (0, 0, 0)).1 < 0x4000000000)

/-- Whether a collective needs a slot now: for ACC := BUF, for its round's data, or for its local work (R421 to R423). -/
def Coll.needsSlot (c : Coll) : Bool :=
  c.running && (decide (0 < c.prep) || decide (0 < c.slots) || (c.localOpen && decide (0 < c.work)))

/-- The data of a collective that wait at this chip for a slot of class 2, and the instance of their next sector. -/
def inboundTarget (s : State) (m : Inbound) : Option (Nat × Nat) :=
  if copyBegun s m then none
  else
    match dataFate s m with
    | .lands (.coll c ps) =>
      if m.moved ≤ m.done && mayLand s (DataTarget.coll c ps).inst then some ((ps.headD (0, 0, 0)).1, c.since) else none
    | .lands _ | .dup | .stray | .outset => none

/-- The pier at which a message came in. -/
def inboundPier (m : Inbound) (own : Nat) : Nat := if m.port = selfPort then own else pierOfPort m.port

/-- Every transfer that waits for a slot of this cycle that no running group claims; the Cistern takes none in bays 0 and
1 (R240). -/
def slotUsers (s : State) : List SlotUser :=
  let copies := s.cp.queues.filterMap (fun (q, x) => match x.copy with
    | none => none
    | some c =>
      if x.st = .active && !c.failed && decide (c.beat < c.beats) && !(bayReserved 2 (bayOf s.cyc) && shaftBeat c) then
        some { kind := .copy, index := q, cls := x.netcls, since := x.since, segs := copySegments c }
      else none)
  let colls := if bayReserved 2 (bayOf s.cyc) then [] else s.link.colls.zipIdx.filterMap (fun (c, i) =>
    if c.needsSlot then
      some { kind := .coll, index := i, cls := 2, since := c.since,
             segs := if c.prep = 0 && decide (0 < c.slots) then collSegments s c else memSegments s c }
    else none)
  let coming := s.link.inbound.zipIdx.filterMap (fun (m, i) => (inboundTarget s m).map (fun (a, since) =>
    { kind := .inbound, index := i, cls := 2, since := since, segs := segments (inboundPier m (pierOfAddr a)) (pierOfAddr a) }))
  (copies ++ colls ++ coming).filter (fun u => u.segs.all (fun g => !instClaimed s 1 g))

/-- The one dispatched first. -/
def oldestUser : List SlotUser → Option SlotUser
  | [] => none
  | u :: us =>
    match oldestUser us with
    | none => some u
    | some v => if v.since < u.since then some v else some u

/-- A collective takes a slot: of ACC := BUF, of its round's data, which leave with the last, or of its local work (log
entry 121). -/
def takeCollSlot (s : State) (i : Nat) (c : Coll) : State :=
  let put (c : Coll) : State := { s with link := { s.link with colls := s.link.colls.set i c } }
  if 0 < c.prep then
    let s2 := put { c with prep := c.prep - 1 }
    if c.prep = 1 then fillAcc s2 c else s2
  else if 0 < c.slots then
    let s2 := put { c with slots := c.slots - 1 }
    if c.slots = 1 then sendRound s2 c c.round else s2
  else put { c with work := c.work - 1 }

/-- A transfer takes a slot: one beat of a COPY, one sector of a collective's traffic, one sector that has come to it. -/
def takeSlot (s : State) (u : SlotUser) : State :=
  match u.kind with
  | .coll =>
    match s.link.colls[u.index]? with
    | none => s
    | some c => takeCollSlot s u.index c
  | .inbound =>
    match s.link.inbound[u.index]? with
    | none => s
    | some m => { s with link := { s.link with inbound := s.link.inbound.set u.index { m with moved := m.done + 1 } } }
  | .copy =>
    match (queueAt s u.index).copy with
    | none => s
    | some c =>
      let r := copyBeat s c
      updQueue { s with mem := r.2 } u.index (fun x => { x with copy := some r.1 })

/-- The slots of one cycle, a segment carrying one beat: each goes to the next class of the order that has a transfer
for segments still free. -/
def giveSlots : Nat → List Nat → List SlotUser → State → State
  | 0, _, _, s => s
  | n + 1, taken, us, s =>
    let free := us.filter (fun u => u.segs.all (fun g => !taken.contains g))
    match (classOrder s.cp.netTurn).findSome? (fun k => oldestUser (free.filter (fun u => u.cls == k))) with
    | none => s
    | some u =>
      let s := takeSlot s u
      giveSlots n (taken ++ u.segs) us { s with cp := { s.cp with netTurn := (s.cp.netTurn + 1) % 4 } }

/-- The network slots of this cycle that no group claims. -/
def moveCopies (s : State) : State := giveSlots 5 [] (slotUsers s) s

end Sys2Proof.Machine
end

