-- ==== Sys2Proof/Machine/Queue.lean ====
section
/-!
DEFINITION. Queues (R98 to R117): the queue table, dispatch and priority, and the queue commands LAUNCH, COPY,
WAITV, SIGNAL, RECEIPT, COLL and PREEMPT; what queue memory shows of the device's own state (R99, R247, R260).
-/
namespace Sys2Proof.Machine

/-! ## The queue table (R99 to R102) -/

/-- Address of a queue's descriptor. -/
def descAt (q : Nat) : Nat := 0x2000 + 64 * q

/-- Sizes of a ring. -/
def ringSizes : List Nat := [16, 32, 64, 128, 256, 512, 1024, 2048, 4096, 8192, 16384]

/-- The status with which R100 refuses a descriptor; RINGBASE and EVBASE as in log entry 128. -/
def enableReject (s : State) (d : List Byte) : Option Nat :=
  let ctx := fieldLE d 9 1
  let size := fieldLE d 0x0C 4
  let ring := fieldLE d 0x20 8
  let ev := fieldLE d 0x28 8
  if ctx > 63 || !resident s ctx || (ctxAt s ctx).gen != fieldLE d 0x0A 2 then some 2
  else if !zeroBytes d 0x30 16 || !zeroBytes d 4 1 || !zeroBytes d 6 1 || fieldLE d 1 1 > 2
      || !ringSizes.contains size || ring % 0x1000 != 0 || ring < 0x10000 || ring + 64 * size > Config.qmemSize
      || ev % 0x400 != 0 || (ev != 0 && decide (ev + 0x400 > Config.qmemSize))
      || (fieldLE d 1 1 != 0 && decide (fieldLE d 8 1 > 2)) then some 3
  else if fieldLE d 2 1 > bitsOf (ctxField s.cp ctx 0 8) 7 6 then some 0x17
  else none

/-- QUEUE_ENABLE: CTL = 1. -/
def execQueueEnable (q : Nat) (s : State) : Out :=
  if !serving s || (queueAt s q).st != .disabled then .next s
  else
    let d := readBytes s.mem.qmem (descAt q) 64
    match enableReject s d with
    | some st => .next (updQueue s q (fun x => { x with lastSt := st }))
    | none => .next (updQueue s q (fun x =>
        { st := .idle, kind := fieldLE d 1 1, pbase := fieldLE d 2 1, peff := fieldLE d 2 1, lastSt := x.lastSt
          netcls := fieldLE d 8 1, ctx := fieldLE d 9 1, gen := fieldLE d 0x0A 2, size := fieldLE d 0x0C 4
          faultIdx := x.faultIdx, evHead := x.evHead, ring := fieldLE d 0x20 8, evBase := fieldLE d 0x28 8 }))

/-- The command in progress of a queue goes on in a record of its own. -/
def moveCommand (s : State) (q : Nat) : State :=
  let n := s.cp.nextMoved
  let ren (x : Option Nat) : Option Nat := if x = some q then some n else x
  { s with
    cp := { s.cp with
      nextMoved := n + 1
      queues := tset s.cp.queues n { queueAt s q with movedFrom := some q }
      cmdQ := if s.cp.cmdQ = q then n else s.cp.cmdQ
      finished := s.cp.finished.map (fun f => (if f.1 = q then n else f.1, f.2))
      hashing := s.cp.hashing.map (fun h => match h.use with
        | .args .. | .image .. => h
        | .result i va len rest dest =>
          if i = q then { h with use := .result n va len rest dest } else h)
      signing := s.cp.signing.map (fun g => { g with queue := ren g.queue }) }
    kernels := s.kernels.map (fun (i, k) =>
      (i, { k with queue := ren k.queue, preemptQ := k.preemptQ.map (fun x => if x = q then n else x) }))
    link := { s.link with colls := s.link.colls.map (fun c => { c with queue := ren c.queue }) } }

/-- QUEUE_DISABLE: CTL = 2. A command in progress runs to completion. -/
def execQueueDisable (q : Nat) (s : State) : Out :=
  let x := queueAt s q
  let s := if x.st = .active || x.st == .waiting then moveCommand s q else s
  .next (updQueue s q (fun x => { x with st := .disabled, cmd := [], begun := false, copy := none }))

/-- QUEUE_RESUME: CTL = 3. -/
def execQueueResume (q : Nat) (s : State) : Out :=
  let x := queueAt s q
  if x.st = .stopped then
    .next (updQueue s q (fun x => { x with st := if x.head = x.tail then .idle else .ready, age := s.link.elapsed }))
  else .next s

/-- SIZE of a queue: as read at its enable, and while it is disabled as its descriptor holds it (R100). -/
def sizeOf (s : State) (q : Nat) : Nat :=
  let x := queueAt s q
  if x.st = .disabled then readLE s.mem.qmem (descAt q + 0x0C) 4 else x.size

/-- QUEUE_DOORBELL: TAIL (R101). -/
def execQueueDoorbell (q t : Nat) (s : State) : Out :=
  if sizeOf s q ≤ t then .next s else .next (updQueue s q (fun x => { x with tail := t }))

/-- 10 ms in 1/192 ns. -/
def agingTime : Nat := 1920000000

/-- QUEUE_AGING: 10 ms in READY, or in READY and BLOCKED, without a dispatch (R110). -/
def execQueueAging (q : Nat) (s : State) : Out :=
  let x := queueAt s q
  if x.st = .ready && decide (x.age + agingTime ≤ s.link.elapsed) then
    .next (updQueue s q (fun x => { x with peff := min 3 (x.peff + 1), age := x.age + agingTime }))
  else .next s

/-! ## What queue memory shows (R99, R247, R260) -/

def qStateCode (x : QState) : Nat :=
  match x with
  | .disabled => 0
  | .idle => 1
  | .ready => 2
  | .active => 3
  | .waiting => 4
  | .blocked => 5
  | .stopped => 6

/-- A queue descriptor as it reads. -/
def queueDesc (s : State) (q : Nat) : List Byte :=
  let x := queueAt s q
  let d := readBytes s.mem.qmem (descAt q) 64
  let d := patch (patch (patch (patch d 0 (natLE 1 (qStateCode x.st))) 3 (natLE 1 x.peff)) 5 [0]) 7 (natLE 1 x.lastSt)
  patch d 0x10 (natLE 4 x.head ++ natLE 4 x.tail ++ natLE 4 x.faultIdx ++ natLE 4 x.evHead)

def portStateCode (x : PortState) : Nat :=
  match x with
  | .down => 0
  | .training => 1
  | .sync => 2
  | .up => 3
  | .degraded => 4
  | .failed => 5

/-- The status block of a port. -/
def portStatus (l : Link) (p : Nat) : List Byte :=
  let x := portOf l p
  natLE 1 (portStateCode x.st) ++ natLE 6 0 ++ natLE 1 x.lanes.toNat ++ natLE 1 x.peerNode ++ natLE 1 x.peerPort
    ++ natLE 2 0 ++ natLE 4 (min x.trainFail 0xFFFFFFFF) ++ natLE 8 (min x.fecCorr (2 ^ 64 - 1))
    ++ natLE 8 (min x.fecUnc (2 ^ 64 - 1)) ++ natLE 8 (min x.replay (2 ^ 64 - 1)) ++ List.replicate 24 0

/-- The status block of a node; before the first APPLY every field has its reset value. UNACK counts the messages held for the node that it has not acknowledged, of
which a sender holds at most 1,024 (R251, R255). -/
def nodeStatus (s : State) (n : Nat) : List Byte :=
  let l := s.link
  let x := nodeOf l n
  let reach := if l.nodes = 0 then 0 else if !nodeValid l n then 2 else if n = l.self || (usablePath l n).isSome then 0 else 1
  let held := ((l.unacked ++ l.queueOut).filter (fun m => m.node == n)).length
  natLE 1 reach ++ natLE 3 0 ++ natLE 4 (min held 1024) ++ natLE 4 x.applied
    ++ natLE 4 x.txSeq ++ natLE 4 x.dup ++ natLE 4 x.late ++ natLE 4 x.outset ++ natLE 4 x.stray

def timeCode (t : TimeState) : Nat :=
  match t with
  | .locked => 0
  | .holdover => 1
  | .unsync => 2

/-- A byte of queue memory as it reads: the device's own fields over what has been written. -/
def queueByte (s : State) (a : Nat) : Byte :=
  if 0x2000 ≤ a ∧ a < 0x6000 then (queueDesc s ((a - 0x2000) / 64)).getD (a % 64) 0
  else if a = 0x1400 ∨ a = 0x1405 ∨ a = 0x140A ∨ a = 0x140B then 0
  else if a = 0x1406 then BitVec.ofNat 8 s.link.lastSt
  else if 0x8000 ≤ a ∧ a < 0x8480 then (portStatus s.link ((a - 0x8000) / 64)).getD (a % 64) 0
  else if a = 0x8480 then BitVec.ofNat 8 (timeCode s.link.time)
  else if 0x8800 ≤ a ∧ a < 0x9000 then (nodeStatus s ((a - 0x8800) / 32)).getD (a % 32) 0
  else memRead s.mem.qmem a

/-! ## Writes into queue memory (R80, R98, R247) -/

/-- Whether a range meets what only supervisor-mode and machine-mode accesses reach: the control ring and its
doorbell, the domain header and node table, the queue table. -/
def guardedArea (a n : Nat) : Bool :=
  let meets (lo hi : Nat) : Bool := decide (a < hi) && decide (lo < a + n)
  meets 0 0x1004 || meets 0x1400 0x1440 || meets 0x1800 0x2000 || meets 0x2000 0x6000

/-- Whether a write covers an address. -/
def covers (a n b : Nat) : Bool := decide (a ≤ b) && decide (b < a + n)

/-- The rows that a write of bytes at an address asks for: CTL and doorbells of queues, the control doorbell, APPLY and
the retraining bits of the domain header. -/
def writeRows (m : Memory) (a n : Nat) : List Instr :=
  let byte (b : Nat) : Nat := readLE m b 1
  let word (b : Nat) : Nat := readLE m b 4
  let queues := (List.range Config.numQueues).filter (fun q => covers a n (descAt q + 5))
  let bells := (List.range Config.numQueues).filter (fun q => covers a n (0x6000 + 4 * q))
  let ctl (q : Nat) : Option Instr := match byte (descAt q + 5) with
    | 1 => some (.queueEnable q)
    | 2 => some (.queueDisable q)
    | 3 => some (.queueResume q)
    | _ => none
  let ports := (if covers a n 0x140A then (List.range 8).filter (fun p => bitOf (byte 0x140A) p) else [])
    ++ (if covers a n 0x140B then ((List.range 8).filter (fun p => bitOf (byte 0x140B) p)).map (8 + ·) else [])
    ++ (if covers a n 0x1405 then ((List.range 2).filter (fun p => bitOf (byte 0x1405) p)).map (16 + ·) else [])
  queues.filterMap ctl ++ bells.map (fun q => .queueDoorbell q (word (0x6000 + 4 * q)))
    ++ (if covers a n 0x1000 then [.controlDoorbell (word 0x1000)] else [])
    ++ (if covers a n 0x1400 && byte 0x1400 == 1 then [.domainApply] else [])
    ++ ports.map .portRetrain

/-- Whether a row waits for the cycle's CTL and doorbell writes (R117). -/
def isDoor (i : Instr) : Bool :=
  match i with
  | .queueEnable _ | .queueDisable _ | .queueResume _ | .queueDoorbell _ _ => true
  | _ => false

/-- Writes queue memory and does what the written registers ask for; queue CTL and doorbell writes wait for their
place in the cycle, behind those of writes before it (log entry 137). Read-only fields read as they are (queueByte). -/
def storeQmem (s : State) (a : Nat) (data : List Byte) : State :=
  let s := { s with mem := { s.mem with qmem := writeBytes s.mem.qmem a data } }
  let rows := writeRows s.mem.qmem a data.length
  { s with
    inputs := s.inputs.takeWhile (fun x => decide (x.1 ≤ s.cyc)) ++ (rows.filter isDoor).map (fun i => (s.cyc, .row i))
      ++ s.inputs.dropWhile (fun x => decide (x.1 ≤ s.cyc))
    agenda := (rows.filter (fun i => !isDoor i)).map .row ++ s.agenda }

/-- A service core's write into queue memory; one that its mode does not allow is refused. -/
def writeQmem (s : State) (mode : SvcMode) (a : Nat) (data : List Byte) : State :=
  if a + data.length > Config.qmemSize || (mode == .user && guardedArea a data.length) then refuseAccess s a
  else storeQmem s a data

/-- A service core's read of queue memory; one that its mode does not allow is refused (R98, R247). -/
def readQmem (s : State) (mode : SvcMode) (a n : Nat) : State :=
  if a + n > Config.qmemSize || (mode == .user && guardedArea a n) then refuseAccess s a
  else { s with replies := s.replies ++ [(s.cyc, .readData a ((List.range n).map (fun i => queueByte s (a + i))))] }

/-! ## Heads of queues (R111, R115) -/

/-- The command at a queue's head. -/
def headCommand (s : State) (x : Queue) : List Byte := readBytes s.mem.qmem (commandAt x) 64

/-- Whether a queue's context lets it fetch. -/
def fetchable (s : State) (x : Queue) : Bool :=
  let c := ctxAt s x.ctx
  (c.st == .ready || c.st == .running) && c.gen == x.gen

/-- Kinds of queue that take a command (R104). -/
def kindsOf (op : Nat) : List Nat :=
  match op with
  | 0x01 | 0x05 | 0x07 => [0]
  | 0x02 => [1]
  | 0x03 | 0x04 => [0, 1, 2]
  | 0x06 => [2]
  | _ => []

/-- Whether a command breaks R103. -/
def badWord (cmd : List Byte) : Bool := decide (fieldLE cmd 3 1 > 1) || fieldLE cmd 1 1 != 0

/-- The launch at a queue's head, when it is one and passes every check. One that has passed them is not
checked again before its dispatch (R121). -/
def headLaunch (s : State) (x : Queue) : Option LaunchReq :=
  let cmd := headCommand s x
  if x.kind ≠ 0 || fieldLE cmd 0 1 != 1 || badWord cmd then none
  else
    match launchOf s x.ctx cmd with
    | none => none
    | some r => if !x.passed && (launchReject s r).isSome then none else some r

/-- Whether a queue has a command to fetch. -/
def pending (x : Queue) : Bool := x.head != x.tail && (x.st == .idle || x.st == .ready || x.st == .blocked)

/-- Whether a launch is not bindable beside the kernels that hold their clusters. -/
def unbindable (s : State) (x : Queue) : Bool :=
  match headLaunch s x with
  | none => false
  | some r => (launchBinding s r (rivals s none)).isNone

/-- The state of a queue between commands. -/
def settledState (s : State) (x : Queue) : QState :=
  if x.head = x.tail then .idle
  else if !fetchable s x || unbindable s x then .blocked
  else .ready

/-- Brings a queue between commands to its state; the aging timer starts when it leaves IDLE. -/
def settleQueue (s : State) (q : Nat) : State :=
  let x := queueAt s q
  if x.st = .idle || x.st == .ready || x.st == .blocked then
    let passed := x.passed || (x.head != x.tail && fetchable s x && (headLaunch s x).isSome)
    let st := settledState s { x with passed := passed }
    if st = x.st && passed == x.passed then s
    else updQueue s q (fun x =>
      { x with st := st, passed := passed, age := if x.st = .idle then s.link.elapsed else x.age })
  else s

/-- The enabled queues by number. -/
def enabledQueues (s : State) : List Nat :=
  (s.cp.queues.filter (fun p => decide (p.1 < Config.numQueues) && p.2.st != .disabled)).map (·.1)

def settleQueues (s : State) : State := (enabledQueues s).foldl settleQueue s

/-! ## Priority pre-emption and resumption (R111, R112) -/

/-- Whether a launch would be bindable once some kernels have left. -/
def wouldBind (s : State) (r : LaunchReq) (gone : List Nat) : Bool :=
  let others := (s.kernels.filter (fun p => p.2.holds && !gone.contains p.1)).map (·.2)
  (launchBinding (noSlices s) r others).isSome

/-- Whether one kernel is asked to leave before another: lowest PEFF, then highest KSEQ. -/
def leavesFirst (a b : Nat × Kernel) : Bool :=
  decide (a.2.peff < b.2.peff) || (a.2.peff == b.2.peff && decide (b.2.kseq ≤ a.2.kseq))

/-- Inserts into a list in the order of a test. -/
def insertBy {α : Type} (f : α → α → Bool) (x : α) : List α → List α
  | [] => [x]
  | y :: ys => if f x y then x :: y :: ys else y :: insertBy f x ys

def sortBy {α : Type} (f : α → α → Bool) (xs : List α) : List α := xs.foldl (fun acc x => insertBy f x acc) []

/-- The fewest kernels from the front of a list that make a launch bindable, none if all do not suffice. -/
def leavers (s : State) (r : LaunchReq) : List Nat → List Nat → Option (List Nat)
  | gone, [] => if wouldBind s r gone then some [] else none
  | gone, k :: ks =>
    if wouldBind s r gone then some [] else (leavers s r (gone ++ [k]) ks).map (k :: ·)

/-- The kernels of which a BLOCKED queue's launch requests pre-emption. -/
def requested (s : State) (x : Queue) : List Nat :=
  match headLaunch s x with
  | none => []
  | some r =>
    let mine := s.kernels.filter (fun p => p.2.ctx == x.ctx && p.2.holds)
    let leaving := (mine.filter (fun p => p.2.st == .draining)).map (·.1)
    let pool := mine.filter (fun p => p.2.st != .draining && decide (p.2.peff < x.peff) && hasPoints s p.2)
    ((leavers s r leaving ((sortBy leavesFirst pool).map (·.1)))).getD []

/-- The requests of every launch that is not bindable. -/
def priorityRequests (s : State) : List Nat :=
  ((enabledQueues s).flatMap (fun q =>
    let x := queueAt s q
    if x.st = .blocked ∧ fetchable s x then requested s x else [])).filter
      (fun i => match s.kernel? i with | none => false | some k => k.preq.isNone)

/-- Whether a kernel waits to resume. -/
def wantsResume (s : State) (k : Kernel) : Bool :=
  k.st == .suspended && !k.userHold
    && decide (k.ctx < Config.numContexts) && ((ctxAt s k.ctx).st == .ready || (ctxAt s k.ctx).st == .running)

/-- Whether a launch of the same context with a higher PEFF goes before a kernel's resumption. -/
def launchAhead (s : State) (k : Kernel) : Bool :=
  (enabledQueues s).any (fun q =>
    let x := queueAt s q
    x.ctx == k.ctx && decide (k.peff < x.peff) && pending x && fetchable s x
      && (match headLaunch s x with | none => false | some r => wouldBind s r []))

/-- Order of resumption: highest PEFF, then lowest KSEQ. -/
def resumesFirst (a b : Nat × Kernel) : Bool :=
  decide (b.2.peff < a.2.peff) || (a.2.peff == b.2.peff && decide (a.2.kseq ≤ b.2.kseq))

/-- One suspended kernel takes a binding if it can. -/
def tryResume (s : State) (x : Nat × Kernel) : State :=
  let (kid, k) := x
  if launchAhead s k then s
  else
    match rebind s kid k with
    | none => s
    | some bind =>
      let s := updCtx s k.ctx (fun c => { c with st := if c.st = .ready then .running else c.st })
      beginResume s kid k bind

/-- Suspended kernels resume ahead of launches of equal or lower PEFF. -/
def resumeKernels (s : State) : State :=
  (sortBy resumesFirst (s.kernels.filter (fun p => wantsResume s p.2))).foldl tryResume s

/-! ## Dispatch (R109) -/

/-- A LAUNCH that waits behind a launch of higher PEFF that is not bindable, or a suspended kernel. -/
def heldBack (s : State) (x : Queue) : Bool :=
  fieldLE (headCommand s x) 0 1 == 1 && x.kind == 0 &&
    ((enabledQueues s).any (fun q =>
        let y := queueAt s q
        y.ctx == x.ctx && y.st == .blocked && decide (x.peff < y.peff) && fetchable s y)
      || s.kernels.any (fun p => p.2.ctx == x.ctx && wantsResume s p.2 && decide (x.peff ≤ p.2.peff)))

/-- Whether a command that a queue dispatched before it was disabled is still in progress (R106). -/
def oldCommand (s : State) (q : Nat) : Bool := s.cp.queues.any (fun x => x.2.movedFrom == some q)

/-- The READY queues that may be dispatched. -/
def candidates (s : State) : List Nat :=
  (enabledQueues s).filter (fun q =>
    let x := queueAt s q
    x.st == .ready && !heldBack s x && !oldCommand s q && !unbindable s x)

/-- The queue that is dispatched: highest PEFF, then the first after the last dispatched there. -/
def nextQueue (s : State) : Option Nat :=
  let qs := candidates s
  let top := qs.foldl (fun m q => max m (queueAt s q).peff) 0
  let qs := qs.filter (fun q => (queueAt s q).peff == top)
  let last := tget 255 s.cp.lastDisp top
  match qs.find? (fun q => decide (last < q)) with
  | some q => some q
  | none => qs.head?

/-- The row of a command (R104); an OP that the queue does not allow comes before its other checks (log entry 144). -/
def commandItem (q kind : Nat) (cmd : List Byte) : Item :=
  if !(kindsOf (fieldLE cmd 0 1)).contains kind then .badCommand q
  else
    match fieldLE cmd 0 1 with
    | 0x01 => .row .launch
    | 0x02 => .row .copy
    | 0x03 => .row .waitv
    | 0x04 =>
      match fieldLE cmd 8 1 with
      | 1 => .row .signalAdd
      | 2 => .row .signalMailbox
      | _ => .row .signalStore
    | 0x05 => .row .receipt
    | 0x06 => .row .coll
    | _ => if fieldLE cmd 12 1 = 1 then .row .preemptRelease else .row .preemptSuspend

/-- A SIGNAL of form 0 or 1 takes its place among the Keystones' operations of the next cycle (R186, log entry 87). -/
def onWord (cmd : List Byte) : Bool := fieldLE cmd 0 1 == 4 && decide (fieldLE cmd 8 1 < 2)

/-- Whether a CTX.KILL of a context stands in the control ring: it comes before what the queues do (R77, R117). -/
def killPending (s : State) (ctx : Nat) : Bool :=
  s.cp.ctl.any (fun i => memRead s.mem.qmem (64 * i) == 0x0A && readLE s.mem.qmem (64 * i + 1) 1 == ctx)

/-- The command on a word that takes its place in this cycle, as an item of the agenda. -/
def wordItem (s : State) : List Item :=
  let x := queueAt s s.cp.cmdQ
  if x.st = .active && !x.begun && onWord x.cmd && (kindsOf 4).contains x.kind && !killPending s x.ctx then
    [commandItem s.cp.cmdQ x.kind x.cmd]
  else []

/-- DISPATCH: at most one command every 8 cycles. -/
def execDispatch (s : State) : Out :=
  if !serving s || decide (s.cyc < s.cp.nextDisp) then .next s
  else
    match nextQueue s with
    | none => .next s
    | some q =>
      let x := queueAt s q
      let cmd := headCommand s x
      let s := updQueue s q (fun x =>
        { x with
          st := .active, passed := false, peff := x.pbase, atPeff := x.peff, cmd := cmd, begun := false
          since := s.link.elapsed, stamp := s.link.clock })
      .next { s with
        cp := { s.cp with lastDisp := tset s.cp.lastDisp x.peff q, nextDisp := s.cyc + 8, cmdQ := q }
        agenda := (if onWord cmd && (kindsOf 4).contains x.kind then [] else [commandItem q x.kind cmd])
          ++ s.agenda }

/-- A command that its queue's kind does not take, or no command at all. -/
def badCommand (s : State) (q : Nat) : State :=
  let x := queueAt s q
  if x.st = .active && !x.begun then completeCommand s q 1 else s

/-- Executes the command dispatched last, once, after the checks of R103. -/
def queueRow (op : Nat) (s : State) (f : State → Nat → Queue → Out) : Out :=
  let q := s.cp.cmdQ
  let x := queueAt s q
  if x.st ≠ .active || x.begun || fieldLE x.cmd 0 1 != op then .next s
  else if badWord x.cmd then .next (if onWord x.cmd then finishCommand s q 3 else completeCommand s q 3)
  else f (updQueue s q (fun x => { x with begun := true })) q x

/-! ## LAUNCH -/

/-- LAUNCH: rejected at once, or accepted with its binding. One that is not bindable is not dispatched (R111); its queue
would be BLOCKED. -/
def execLaunch (s : State) : Out :=
  queueRow 0x01 s (fun s q x =>
    match launchOf s x.ctx x.cmd with
    | none => .next (completeCommand s q 0x0B)
    | some r =>
      match launchReject s r with
      | some st => .next (completeCommand s q st)
      | none =>
        match launchImage s r, launchBinding s r (rivals s none) with
        | some im, some bind =>
          let kseq := (ctxAt s r.ctx).nextKseq
          match reachFits s bind (setPages s r), placeAll bind s (setPages s r) with
          | true, some s => .next (writeResult (acceptLaunch s q x.atPeff r im bind) q 44 (natLE 4 kseq))
          | true, none | false, _ => .next (completeCommand s q 0x25)
        | none, _ | some _, none =>
          .next (updQueue s q (fun y => { y with st := .blocked, cmd := [], begun := false, peff := x.atPeff })))

/-! ## COPY (R104) -/

/-- COPY: its checks and its addresses; the transfer takes the network slots of R113. -/
def execCopy (s : State) : Out :=
  queueRow 0x02 s (fun s q x =>
    match copyReq s x with
    | .inl st => .next (completeCommand s q st)
    | .inr r => .next (updQueue s q (fun y => { y with copy := some r })))

/-- COPY_COMPLETE: every beat has passed, and in the Well every sector is durable; then the record. -/
def execCopyComplete (q : Nat) (s : State) : Out :=
  let x := queueAt s q
  match x.copy with
  | none => .next s
  | some c => if x.st = .active && copyDone s c then .next (endCopy s q c) else .next s

/-! ## WAITV (R107) -/

/-- Where a word of WAITV or SIGNAL lies. -/
inductive WordAt where
  | queue (a : Nat)
  | page (p : PageT) (a : Nat)
  deriving DecidableEq, Repr

/-- The word at a VA: Cistern, sync or Well pages, but no pool page (R230), and queue memory where no page maps the VA,
of which a command reaches what a user-mode access does (log entry 109). -/
def wordAt (s : State) (ctx va : Nat) (write : Bool) : Option WordAt :=
  match walk s ctx va with
  | none => if va + 8 ≤ Config.qmemSize && !guardedArea va 8 then some (.queue va) else none
  | some p =>
    let a := p.phys + (va - p.va)
    if p.kind = 1 || (write && !p.write) || inPool s a 8 then none else some (.page p a)

/-- The word itself. -/
def wordValue (s : State) (w : WordAt) : Nat :=
  match w with
  | .queue a => leNat ((List.range 8).map (fun i => queueByte s (a + i)))
  | .page p a => leNat (cpBytes s [(a, pageKey s.cp p, 8)])

/-- The 64-byte line of a word. -/
def wordLine (w : WordAt) : Nat :=
  match w with
  | .queue a => a / 64
  | .page _ a => 0x10000 + a / 64

/-- The condition of a WAITV on a word. -/
def waitTest (cond word value : Nat) : Bool :=
  match cond with
  | 0 => word == value
  | 1 => word != value
  | 2 => decide (value ≤ word)
  | _ => decide (word < value)

/-- The word of a command, if its VA still leads to one. -/
def waitWord (s : State) (x : Queue) : Option WordAt := wordAt s x.ctx (fieldLE x.cmd 8 8) false

/-- The state with the memories as they were when the cycle began. -/
def atCycleStart (s : State) : State :=
  let b := s.ks.before
  { s with mem := { s.mem with phys := b.phys, kmem := b.kmem, key := b.key }, ks := { s.ks with pages := b.pages } }

/-- Evaluates a WAITV on what writes of earlier cycles have left (R107, R183): the status with which it completes, none
while it waits. -/
def evaluateWait (s : State) (x : Queue) : Option Nat :=
  match waitWord s x with
  | none => some 0x0B
  | some w =>
    let v := Nat.land (wordValue (atCycleStart s) w) (fieldLE x.cmd 24 8)
    if waitTest (fieldLE x.cmd 32 1) v (fieldLE x.cmd 16 8) then some 0 else none

/-- WAITV: checks and first evaluation, at its dispatch. -/
def execWaitv (s : State) : Out :=
  queueRow 0x03 s (fun s q x =>
    if fieldLE x.cmd 32 1 > 3 || fieldLE x.cmd 8 8 % 8 != 0 then .next (completeCommand s q 3)
    else
      match evaluateWait s x with
      | some st => .next (completeCommand s q st)
      | none => .next (updQueue s q (fun x => { x with st := .waiting })))

/-- WAITV_EVALUATE: a later evaluation. -/
def execWaitvEvaluate (q : Nat) (s : State) : Out :=
  let x := queueAt s q
  match evaluateWait s x with
  | some st => if x.st = .waiting then .next (finishCommand s q st) else .next s
  | none => .next s

/-- When a WAITV times out, in 1/192 ns; none without a time-out. -/
def waitEnd (x : Queue) : Option Nat :=
  let us := fieldLE x.cmd 36 4
  if us = 0 then none else some (x.stamp + 192000 * us)

/-- WAIT_TIMEOUT. -/
def execWaitTimeout (q : Nat) (s : State) : Out :=
  let x := queueAt s q
  match waitEnd x with
  | none => .next s
  | some t => if x.st = .waiting && decide (t ≤ s.link.clock) then .next (completeCommand s q 0x0E) else .next s

/-- Whether the next of the evaluations every 250 ns, or one after a SIGNAL, falls in this cycle. -/
def waitDue (s : State) (x : Queue) : Bool :=
  let len := cycleLen s.mgmt
  x.st == .waiting &&
    (decide ((s.link.elapsed - len - x.since) / 48000 < (s.link.elapsed - x.since) / 48000)
      || (match waitWord s x with
          | none => true
          | some w => s.cp.lines.contains (s.cyc - 1, wordLine w)))

/-! ## SIGNAL (R108) -/

/-- Stores a word: queue memory, the home of a sync page, the Well's write path, or the Cistern at the end of the
cycle. -/
def storeWord (s : State) (w : WordAt) (v : Nat) : State :=
  match w with
  | .queue a => storeQmem s a (natLE 8 v)
  | .page p a =>
    if (tget {} s.ks.pages (a / 0x10000)).resident then
      { s with mem := { s.mem with kmem := writeBytes s.mem.kmem a (natLE 8 v) } }
    else { s with mem := putBytes s.mem false false (pageKey s.cp p) a (natLE 8 v) }

/-- Notes the line that a SIGNAL wrote, with the cycle in which it completes. -/
def noteLine (s : State) (w : WordAt) : State :=
  { s with cp := { s.cp with
      lines := (s.cyc + 1, wordLine w) :: s.cp.lines.filter (fun x => decide (s.cyc ≤ x.1 + 1)) } }

/-- SIGNAL forms 0 and 1, and the forms that there are not. The write is visible, and the command completes, in the cycle
after the one that performs it (R108, R183). -/
def signalWord (s : State) (add : Bool) : Out :=
  queueRow 0x04 s (fun s q x =>
    let va := fieldLE x.cmd 24 8
    let value := fieldLE x.cmd 16 8
    if fieldLE x.cmd 8 1 ≠ (if add then 1 else 0) then .next (completeCommand s q 3)
    else if va % 8 ≠ 0 then .next (finishCommand s q 3)
    else
      match wordAt s x.ctx va true with
      | none => .next (finishCommand s q 0x0B)
      | some w =>
        let v := if add then (wordValue s w + value) % 2 ^ 64 else value
        .next (finishLater (noteLine (storeWord s w v) w) q 0 (s.cyc + 1)))

/-- SIGNAL form 0. -/
def execSignalStore (s : State) : Out := signalWord s false

/-- SIGNAL form 1. -/
def execSignalAdd (s : State) : Out := signalWord s true

/-- The kernel of a context with a KSEQ, if it is not over. -/
def kernelBySeq (s : State) (ctx kseq : Nat) : Option (Nat × Kernel) :=
  (liveKernels s ctx).find? (fun p => p.2.kseq == kseq)

/-- Whether a kernel runs, holds and drains included, or is suspended, until it runs again (R108, log entry 145). -/
def Kernel.started (k : Kernel) : Bool := k.bound || k.st == .suspended || k.st == .resuming

/-- SIGNAL form 2: a mailbox of a role of a running or suspended kernel; it completes in the cycle after, at whose
end the value has landed. -/
def execSignalMailbox (s : State) : Out :=
  queueRow 0x04 s (fun s q x =>
    let role := fieldLE x.cmd 36 2
    let n := fieldLE x.cmd 38 1
    if fieldLE x.cmd 8 1 ≠ 2 || role ≥ 512 then .next (completeCommand s q 3)
    else
      match kernelBySeq s x.ctx (fieldLE x.cmd 32 4) with
      | none => .next (completeCommand s q 0x0F)
      | some (kid, k) =>
        if !k.started || decide (k.bind.length ≤ role) || decide (7 < n) then .next (completeCommand s q 0x0F)
        else
          let s := finishLater s q 0 (s.cyc + 1)
          let row : Instr := .mailboxWrite kid role n (BitVec.ofNat 64 (fieldLE x.cmd 16 8))
          .next { s with agenda := .row row :: s.agenda })

/-! ## RECEIPT (R93 to R96) -/

/-- The first 136 bytes of a receipt. -/
def receiptBody (s : State) (ctx : Nat) : List Byte :=
  let c := ctxAt s ctx
  natLE 4 0x52394A48 ++ natLE 2 1 ++ natLE 2 (if c.lossy then 1 else 0) ++ serialBytes ++ natLE 1 ctx
    ++ natLE 2 c.gen ++ natLE 1 s.cp.tree ++ natLE 4 0 ++ natLE 4 s.cp.leaf ++ natLE 4 0 ++ natLE 8 c.seq
    ++ natLE 8 (timeNs s) ++ natLE 16 c.cluUnion ++ chainHead c

/-- The buffers that a list in queue memory names; none when one of them is not wholly in Cistern or Well
pages. -/
def receiptBuffers (s : State) (ctx off count : Nat) : Option (List (Nat × Nat × List (Nat × Nat × Nat))) :=
  let one (i : Nat) : Option (Nat × Nat × List (Nat × Nat × Nat)) :=
    let va := readLE s.mem.qmem (off + 16 * i) 8
    let len := readLE s.mem.qmem (off + 16 * i + 8) 8
    (tableRange s ctx cpReadable va len).map (fun ps => (va, len, ps))
  let all_ := (List.range count).map one
  if all_.all (·.isSome) then some (all_.filterMap id) else none

/-- Steps 2 and 3 of R93: HEAD and SEQ are captured, and a leaf is reserved; the signing follows. -/
def reserveLeaf (s : State) (q : Nat) (dest : List (Nat × Nat × Nat)) : State :=
  let x := queueAt s q
  if leavesUsed s.cp ≥ leavesAll - 4096 then completeCommand s q 0x0C
  else
    let g : Signing :=
      { queue := some q, ctx := x.ctx, gen := x.gen, body := receiptBody s x.ctx, tree := s.cp.tree
        leaf := s.cp.leaf, dest := dest, addr := commandAt x, discard := none }
    let s := useLeaf (updCtx s x.ctx (fun c => { c with cluUnion := 0 }))
    { s with cp := { s.cp with signing := s.cp.signing ++ [g] } }

/-- Step 1 of R93 for the buffers left: the first is hashed. -/
def nextBuffer (s : State) (q : Nat) (bufs : List (Nat × Nat × List (Nat × Nat × Nat)))
    (dest : List (Nat × Nat × Nat)) : State :=
  let ctx := (queueAt s q).ctx
  match bufs with
  | [] => reserveLeaf s q dest
  | (va, len, ps) :: rest =>
    if measured s ctx then startHash s ctx (.result q va len rest dest) ps else nextBuffer s q rest dest

/-- The end of a digest: its record (R90), and for an image and a receipt the next step. A receipt's record comes after
those of earlier events (R92). -/
def endHash (s : State) (h : Hashing) : State :=
  match h.use with
  | .args kid attempt => fillArgs s kid attempt h.got h.lossy
  | .image i va len =>
    let r := registerImage s i h.ctx va len h.got h.lossy
    completeControl r.1 i r.2
  | .result q va len rest dest =>
    let s := appendRecord s h.ctx 5 (if h.lossy then 1 else 0) 0 (natLE 8 va ++ natLE 8 len ++ digest h.got)
    nextBuffer s q rest dest

/-- Whether a digest of which every line has been read has to wait: a receipt's, for the records of earlier events. -/
def hashWaits (s : State) (h : Hashing) : Bool :=
  match h.use with
  | .args .. | .image .. => false
  | .result .. => !(ctxAt s h.ctx).due.isEmpty

/-- The digests of which every line has been read. -/
def endHashes (s : State) : State :=
  (s.cp.hashing.filter (fun h => h.left.isEmpty)).foldl (fun s h =>
    if hashWaits s h then s
    else endHash { s with cp := { s.cp with hashing := s.cp.hashing.erase h } } h) s

/-- RECEIPT: its checks, and step 1 of R93; its count and the place of its list are log entry 127. -/
def execReceipt (s : State) : Out :=
  queueRow 0x05 s (fun s q x =>
    let off := fieldLE x.cmd 8 8
    let count := fieldLE x.cmd 16 1
    if !rcptOk s x.ctx then .next (completeCommand s q 2)
    else if count = 0 || decide (8 < count) || decide (Config.qmemSize < off + 16 * count) then .next (completeCommand s q 3)
    else
      match receiptBuffers s x.ctx off count,
          tableRange s x.ctx (fun p => cpReadable p && p.write) (fieldLE x.cmd 24 8) 2956 with
      | some bufs, some dest => .next (nextBuffer s q bufs dest)
      | none, _ | some _, none => .next (completeCommand s q 0x0B))

/-- RECEIPT_SIGNED: steps 4 to 6 of the first receipt that waits, or its end when it is to be thrown away. -/
def execReceiptSigned (s : State) : Out :=
  match s.cp.signing with
  | [] => .next s
  | g :: rest =>
    let s := { s with cp := { s.cp with signing := rest } }
    match g.discard with
    | some st =>
      .next { s with mem := { s.mem with
        qmem := writeBytes (writeBytes s.mem.qmem (g.addr + 2) (natLE 1 st)) g.addr [0] } }
    | none =>
      let bytes := g.body ++ signatureBytes g.tree g.leaf g.body
      let s := appendRecord s g.ctx 6 0 0 (natLE 1 g.tree ++ natLE 3 0 ++ natLE 4 g.leaf ++ digest bytes)
      let issued : Issued := { tree := g.tree, leaf := g.leaf, ctx := g.ctx, gen := g.gen, time := fieldLE g.body 48 8 }
      let s := { s with
        mem := putPieces s.mem true false g.dest bytes
        cp := { s.cp with issued := s.cp.issued ++ [issued] } }
      .next (match g.queue with | none => s | some q => completeCommand s q 0)

/-! ## COLL and PREEMPT -/

/-- COLL: the descriptor goes to the engine. -/
def execColl (s : State) : Out :=
  queueRow 0x06 s (fun s q x =>
    let va := fieldLE x.cmd 8 8
    if (tableRange s x.ctx (fun p => p.kind == 0) va 192).isNone then .next (completeCommand s q 0x0B)
    else .next { s with link := { s.link with colls := s.link.colls ++ [newColl va x.ctx none (some q) none] } })

/-- The status with which a collective's command completes. -/
def collEnd (c : Coll) : Option Nat :=
  match c.st with
  | .waiting | .running => none
  | .done => some 0
  | .aborted => some 0x13
  | .refused => some 3

/-- Completes the COLL commands whose collectives are over. -/
def finishColls (s : State) : State :=
  s.link.colls.foldl (fun (s : State) (c : Coll) =>
    match c.queue, collEnd c with
    | some q, some st =>
      let s := completeCommand s q st
      { s with link := { s.link with colls := s.link.colls.map (fun y =>
        if y.queue = some q then { y with queue := none } else y) } }
    | none, _ | some _, none => s) s

/-- PREEMPT with ACTION 0; ACTION 2 and up are turned away. -/
def execPreemptSuspend (s : State) : Out :=
  queueRow 0x07 s (fun s q x =>
    if fieldLE x.cmd 12 1 ≠ 0 then .next (completeCommand s q 3)
    else
      match kernelBySeq s x.ctx (fieldLE x.cmd 8 4) with
      | none => .next (completeCommand s q 0x0F)
      | some (kid, k) =>
        if k.st = .suspended || k.st == .relaunching then .next (completeCommand s q 0x0F)
        else if !hasPoints s k then .next (completeCommand s q 0x10)
        else
          let s := s.setKernel kid { k with preemptQ := k.preemptQ ++ [q] }
          .next { s with agenda := .row (.preemptLatch kid) :: s.agenda })

/-- PREEMPT with ACTION 1. -/
def execPreemptRelease (s : State) : Out :=
  queueRow 0x07 s (fun s q x =>
    if fieldLE x.cmd 12 1 ≠ 1 then .next (completeCommand s q 3)
    else
      match kernelBySeq s x.ctx (fieldLE x.cmd 8 4) with
      | none => .next (completeCommand s q 0x0F)
      | some (kid, k) =>
        if k.st = .suspended then .next (completeCommand (s.setKernel kid { k with userHold := false }) q 0)
        else .next (completeCommand s q 0x0F))

end Sys2Proof.Machine
end

