-- ==== Sys2Proof/Machine/Scalar.lean ====
section
/-!
DEFINITION. Moves, integer arithmetic, compares and predicate logic, moves between register files
(R314 to R321). Each meaning reads in its issue cycle and stages its write at the latency of R314.
-/
namespace Sys2Proof.Machine

/-! ## Arithmetic -/

/-- Quotient of S64 operands toward zero, with the corners of R317. -/
def divSigned (a b : Word64) : Word64 :=
  if b = 0 then 0xFFFFFFFFFFFFFFFF
  else if a = 0x8000000000000000 ∧ b = 0xFFFFFFFFFFFFFFFF then 0x8000000000000000
  else BitVec.ofInt 64 (Int.tdiv a.toInt b.toInt)

/-- Remainder of S64 operands, with the sign of the dividend (R317). -/
def remSigned (a b : Word64) : Word64 :=
  if b = 0 then a
  else if a = 0x8000000000000000 ∧ b = 0xFFFFFFFFFFFFFFFF then 0
  else BitVec.ofInt 64 (Int.tmod a.toInt b.toInt)

/-- Quotient of N64 operands (R317). -/
def divUnsigned (a b : Word64) : Word64 :=
  if b = 0 then 0xFFFFFFFFFFFFFFFF else BitVec.ofNat 64 (a.toNat / b.toNat)

/-- Remainder of N64 operands (R317). -/
def remUnsigned (a b : Word64) : Word64 :=
  if b = 0 then a else BitVec.ofNat 64 (a.toNat % b.toNat)

/-- High half of the product of S64 operands (R316). -/
def mulHigh (a b : Word64) : Word64 := BitVec.ofInt 64 (a.toInt * b.toInt / 2 ^ 64)

/-- High half of the product of N64 operands (R316). -/
def mulHighUnsigned (a b : Word64) : Word64 := BitVec.ofNat 64 (a.toNat * b.toNat / 2 ^ 64)

/-- A shift count: bits above bit 5 are ignored (R316). -/
def shiftCount (b : Word64) : Nat := b.toNat % 64

def shlWord (a b : Word64) : Word64 := a <<< shiftCount b
def shrWord (a b : Word64) : Word64 := a >>> shiftCount b
def sraWord (a b : Word64) : Word64 := a.sshiftRight (shiftCount b)

def minSigned (a b : Word64) : Word64 := if b.slt a then b else a
def maxSigned (a b : Word64) : Word64 := if a.slt b then b else a
def minUnsigned (a b : Word64) : Word64 := if b.ult a then b else a
def maxUnsigned (a b : Word64) : Word64 := if a.ult b then b else a

/-! ## Shared forms -/

/-- Writes a general register at a latency. -/
def putG (s : State) (c : Core) (h : Hd) (lat : Nat) (d : BitVec 6) (w : Word64) : Core :=
  stage s c h lat (.g d.toNat w)

/-- A G3 instruction: gd := f(a, b) (R316). -/
def scalar3 (lat : Nat) (f : Word64 → Word64 → Word64) (o : G3) (s : State) : Out :=
  runSlotReads o.hd (.g o.a.toNat :: opbReads o.b) s
    (fun c => .ok (putG s c o.hd lat o.d (f (gAt c o.a) (opbWord c o.b))))

/-- A GI instruction: gd := f(a, imm20) (R316). -/
def scalarImm (lat : Nat) (f : Word64 → Word64 → Word64) (o : GI) (s : State) : Out :=
  runSlotReads o.hd [.g o.a.toNat] s
    (fun c => .ok (putG s c o.hd lat o.d (f (gAt c o.a) (immWord o.imm))))

/-- A predicate instruction of R320 by its operation. -/
def predicate3 (op : Nat) (o : P3) (s : State) : Out :=
  runSlotReads o.hd [.p o.a.toNat, .p o.b.toNat] s
    (fun c => .ok (stagePair s c o.hd 1 o.d.toNat (predLogic op (pRead c o.a.toNat) (pRead c o.b.toNat))))

/-! ## Moves (R315) -/

/-- NOP ignores every field (R284). -/
def execNop (h : Hd) (s : State) : Out := runSlot h s (fun c => .ok c)

def execMovG (o : G2) (s : State) : Out :=
  runSlotReads o.hd (opbReads o.b) s (fun c => .ok (putG s c o.hd 1 o.d (opbWord c o.b)))

def execMovImm (o : GM) (s : State) : Out :=
  runSlotReads o.hd [] s (fun c => .ok (putG s c o.hd 1 o.d (immWord o.imm)))

def execMovFimm (o : GM) (s : State) : Out :=
  runSlotReads o.hd [] s (fun c => .ok (putG s c o.hd 1 o.d (immFloatWord o.imm)))

/-! ## Integer arithmetic (R316, R317) -/

def execAdd (o : G3) (s : State) : Out := scalar3 1 (· + ·) o s

def execAddImm (o : GI) (s : State) : Out := scalarImm 1 (· + ·) o s

def execSub (o : G3) (s : State) : Out := scalar3 1 (· - ·) o s

def execSubImm (o : GI) (s : State) : Out := scalarImm 1 (· - ·) o s

def execAnd (o : G3) (s : State) : Out := scalar3 1 (· &&& ·) o s

def execAndImm (o : GI) (s : State) : Out := scalarImm 1 (· &&& ·) o s

def execOr (o : G3) (s : State) : Out := scalar3 1 (· ||| ·) o s

def execOrImm (o : GI) (s : State) : Out := scalarImm 1 (· ||| ·) o s

def execXor (o : G3) (s : State) : Out := scalar3 1 (· ^^^ ·) o s

def execXorImm (o : GI) (s : State) : Out := scalarImm 1 (· ^^^ ·) o s

def execShl (o : G3) (s : State) : Out := scalar3 1 shlWord o s

def execShlImm (o : GI) (s : State) : Out := scalarImm 1 shlWord o s

def execShr (o : G3) (s : State) : Out := scalar3 1 shrWord o s

def execShrImm (o : GI) (s : State) : Out := scalarImm 1 shrWord o s

def execSra (o : G3) (s : State) : Out := scalar3 1 sraWord o s

def execSraImm (o : GI) (s : State) : Out := scalarImm 1 sraWord o s

def execMul (o : G3) (s : State) : Out := scalar3 3 (· * ·) o s

def execMulImm (o : GI) (s : State) : Out := scalarImm 3 (· * ·) o s

def execMulh (o : G3) (s : State) : Out := scalar3 3 mulHigh o s

def execMulhu (o : G3) (s : State) : Out := scalar3 3 mulHighUnsigned o s

def execDiv (o : G3) (s : State) : Out := scalar3 24 divSigned o s

def execDivu (o : G3) (s : State) : Out := scalar3 24 divUnsigned o s

def execRem (o : G3) (s : State) : Out := scalar3 24 remSigned o s

def execRemu (o : G3) (s : State) : Out := scalar3 24 remUnsigned o s

def execMin (o : G3) (s : State) : Out := scalar3 1 minSigned o s

def execMinu (o : G3) (s : State) : Out := scalar3 1 minUnsigned o s

def execMax (o : G3) (s : State) : Out := scalar3 1 maxSigned o s

def execMaxu (o : G3) (s : State) : Out := scalar3 1 maxUnsigned o s

/-- SEL: p[c] chooses a or b (R318). -/
def execSel (o : SelOps) (s : State) : Out :=
  runSlotReads o.hd (.g o.a.toNat :: .p o.c.toNat :: opbReads o.b) s
    (fun c => .ok (putG s c o.hd 1 o.d (if pRead c o.c.toNat then gAt c o.a else opbWord c o.b)))

/-! ## Compares (R319) and predicate logic (R320) -/

def execCmp (o : PC) (s : State) : Out :=
  runSlotReads o.hd (.g o.a.toNat :: opbReads o.b) s
    (fun c => .ok (stagePair s c o.hd 1 o.d.toNat (condHolds o.cc.toNat (gAt c o.a) (opbWord c o.b))))

def execCmpImm (o : PCI) (s : State) : Out :=
  runSlotReads o.hd [.g o.a.toNat] s
    (fun c => .ok (stagePair s c o.hd 1 o.d.toNat (condHolds o.cc.toNat (gAt c o.a) (immWord o.imm))))

/-- The immediate is sign-extended here too (R319). -/
def execCmpImmUnsigned (o : PCI) (s : State) : Out :=
  runSlotReads o.hd [.g o.a.toNat] s
    (fun c => .ok (stagePair s c o.hd 1 o.d.toNat (condHolds (o.cc.toNat + 4) (gAt c o.a) (immWord o.imm))))

def execPand (o : P3) (s : State) : Out := predicate3 0 o s

def execPor (o : P3) (s : State) : Out := predicate3 1 o s

def execPxor (o : P3) (s : State) : Out := predicate3 2 o s

def execPandn (o : P3) (s : State) : Out := predicate3 3 o s

/-! ## Moves between register files (R321) -/

def execMovToX (o : MovX) (s : State) : Out :=
  runSlotReads o.hd [.g o.a.toNat] s (fun c => .ok (stage s c o.hd 1 (.x o.d.toNat (gAt c o.a))))

def execMovFromX (o : MovGX) (s : State) : Out :=
  runSlotReads o.hd [.x o.a.toNat] s (fun c => .ok (putG s c o.hd 1 o.d (xRead c o.a.toNat)))

def execMovToM (o : MovM) (s : State) : Out :=
  runSlotReads o.hd [.g o.a.toNat] s
    (fun c => .ok (stage s c o.hd 1 (.m o.d.toNat allLanes (gAt c o.a))))

def execMovFromM (o : MovGM) (s : State) : Out :=
  runSlotReads o.hd [.m o.a.toNat] s (fun c => .ok (putG s c o.hd 1 o.d (mRead c o.a.toNat)))

def execMovToF (o : RR) (s : State) : Out :=
  runSlotReads o.hd [.g o.a.toNat] s
    (fun c => .ok (stage s c o.hd 1 (.f o.d.toNat ((gAt c o.a).setWidth 32))))

def execMovFromF (o : RR) (s : State) : Out :=
  runSlotReads o.hd [.f o.a.toNat] s
    (fun c => .ok (putG s c o.hd 1 o.d ((fRead c o.a.toNat).setWidth 64)))

/-- The iteration index of loop-stack level k counted from the outside; all ones when it is not active
(R321, R327). -/
def loopIndex (c : Core) (k : Nat) : Word64 :=
  match c.loops.reverse[k]? with
  | none => 0xFFFFFFFFFFFFFFFF
  | some l => BitVec.ofNat 64 l.j

def execMovFromLc (o : RR) (s : State) : Out :=
  runSlotReads o.hd [] s (fun c => .ok (putG s c o.hd 1 o.d (loopIndex c o.a.toNat)))

end Sys2Proof.Machine
end

