-- ==== Sys2Proof/Machine/Dispatch.lean ====
section
/-! DEFINITION. The dispatch of the steps of the part to their meanings, one arm per constructor. -/
namespace Sys2Proof.Machine

def exec (i : Instr) (s : State) : Host.Outcome State Fault Refusal :=
  match i with
  | .calibrationComplete a0 => Sys2Proof.Machine.execCalibrationComplete a0 s
  | .fatalLoss a0 => Sys2Proof.Machine.execFatalLoss a0 s
  | .criticalTemperature a0 => Sys2Proof.Machine.execCriticalTemperature a0 s
  | .limitSample a0 => Sys2Proof.Machine.execLimitSample a0 s
  | .limitHoldEnter a0 => Sys2Proof.Machine.execLimitHoldEnter a0 s
  | .firmwareUpdate a0 => Sys2Proof.Machine.execFirmwareUpdate a0 s
  | .faultLogRead a0 => Sys2Proof.Machine.execFaultLogRead a0 s
  | .setFailThresholds a0 a1 => Sys2Proof.Machine.execSetFailThresholds a0 a1 s
  | .clusterRetest a0 => Sys2Proof.Machine.execClusterRetest a0 s
  | .unitEventCount a0 => Sys2Proof.Machine.execUnitEventCount a0 s
  | .queueEnable a0 => Sys2Proof.Machine.execQueueEnable a0 s
  | .queueDisable a0 => Sys2Proof.Machine.execQueueDisable a0 s
  | .queueResume a0 => Sys2Proof.Machine.execQueueResume a0 s
  | .queueDoorbell a0 a1 => Sys2Proof.Machine.execQueueDoorbell a0 a1 s
  | .queueAging a0 => Sys2Proof.Machine.execQueueAging a0 s
  | .copyComplete a0 => Sys2Proof.Machine.execCopyComplete a0 s
  | .waitvEvaluate a0 => Sys2Proof.Machine.execWaitvEvaluate a0 s
  | .waitTimeout a0 => Sys2Proof.Machine.execWaitTimeout a0 s
  | .kernelStart a0 => Sys2Proof.Machine.execKernelStart a0 s
  | .mailboxWrite a0 a1 a2 a3 => Sys2Proof.Machine.execMailboxWrite a0 a1 a2 a3 s
  | .holdRelease a0 => Sys2Proof.Machine.execHoldRelease a0 s
  | .preemptLatch a0 => Sys2Proof.Machine.execPreemptLatch a0 s
  | .preemptPoint a0 => Sys2Proof.Machine.execPreemptPoint a0 s
  | .drainComplete a0 => Sys2Proof.Machine.execDrainComplete a0 s
  | .resumeCycle a0 => Sys2Proof.Machine.execResumeCycle a0 s
  | .kernelEnd a0 => Sys2Proof.Machine.execKernelEnd a0 s
  | .kernelFault a0 => Sys2Proof.Machine.execKernelFault a0 s
  | .relaunch a0 => Sys2Proof.Machine.execRelaunch a0 s
  | .timeLimit a0 => Sys2Proof.Machine.execTimeLimit a0 s
  | .laneSubstitution a0 => Sys2Proof.Machine.execLaneSubstitution a0 s
  | .testSliceStart a0 => Sys2Proof.Machine.execTestSliceStart a0 s
  | .testSliceEnd a0 => Sys2Proof.Machine.execTestSliceEnd a0 s
  | .regionUnwind a0 => Sys2Proof.Machine.execRegionUnwind a0 s
  | .engineStart a0 => Sys2Proof.Machine.execEngineStart a0 s
  | .engineComplete a0 => Sys2Proof.Machine.execEngineComplete a0 s
  | .resultLand a0 => Sys2Proof.Machine.execResultLand a0 s
  | .keystoneReturn a0 => Sys2Proof.Machine.execKeystoneReturn a0 s
  | .transformResult a0 => Sys2Proof.Machine.execTransformResult a0 s
  | .oloadComplete a0 => Sys2Proof.Machine.execOloadComplete a0 s
  | .wloadComplete a0 => Sys2Proof.Machine.execWloadComplete a0 s
  | .mploadWrite a0 => Sys2Proof.Machine.execMploadWrite a0 s
  | .mcallCommit a0 => Sys2Proof.Machine.execMcallCommit a0 s
  | .clipReexecuteDone a0 => Sys2Proof.Machine.execClipReexecuteDone a0 s
  | .epiPopComplete a0 => Sys2Proof.Machine.execEpiPopComplete a0 s
  | .ctabLdComplete a0 => Sys2Proof.Machine.execCtabLdComplete a0 s
  | .outboundSend a0 => Sys2Proof.Machine.execOutboundSend a0 s
  | .wellSectorAccept a0 => Sys2Proof.Machine.execWellSectorAccept a0 s
  | .wellSectorDurable a0 => Sys2Proof.Machine.execWellSectorDurable a0 s
  | .epochDurable a0 => Sys2Proof.Machine.execEpochDurable a0 s
  | .serviceWellWrite a0 a1 => Sys2Proof.Machine.execServiceWellWrite a0 a1 s
  | .wellReadSectorLand a0 => Sys2Proof.Machine.execWellReadSectorLand a0 s
  | .barrierTimeout a0 a1 => Sys2Proof.Machine.execBarrierTimeout a0 a1 s
  | .portSignalDetect a0 => Sys2Proof.Machine.execPortSignalDetect a0 s
  | .trainingComplete a0 a1 => Sys2Proof.Machine.execTrainingComplete a0 a1 s
  | .trainingFail a0 => Sys2Proof.Machine.execTrainingFail a0 s
  | .trainingRetry a0 => Sys2Proof.Machine.execTrainingRetry a0 s
  | .laneFail a0 a1 => Sys2Proof.Machine.execLaneFail a0 a1 s
  | .alignmentLossTimeout a0 => Sys2Proof.Machine.execAlignmentLossTimeout a0 s
  | .flitReceive a0 a1 => Sys2Proof.Machine.execFlitReceive a0 a1 s
  | .flitReplay a0 a1 => Sys2Proof.Machine.execFlitReplay a0 a1 s
  | .ident a0 a1 => Sys2Proof.Machine.execIdent a0 a1 s
  | .time a0 a1 => Sys2Proof.Machine.execTime a0 a1 s
  | .data a0 a1 => Sys2Proof.Machine.execData a0 a1 s
  | .arrive a0 => Sys2Proof.Machine.execArrive a0 s
  | .store a0 => Sys2Proof.Machine.execStore a0 s
  | .mbox a0 => Sys2Proof.Machine.execMbox a0 s
  | .ack a0 => Sys2Proof.Machine.execAck a0 s
  | .abort a0 => Sys2Proof.Machine.execAbort a0 s
  | .notice a0 => Sys2Proof.Machine.execNotice a0 s
  | .ackTimeout a0 => Sys2Proof.Machine.execAckTimeout a0 s
  | .portRetrain a0 => Sys2Proof.Machine.execPortRetrain a0 s
  | .swrRmode a0 => Sys2Proof.Machine.execSwrRmode a0 s
  | .swrBfmt a0 => Sys2Proof.Machine.execSwrBfmt a0 s
  | .nop a0 => Sys2Proof.Machine.execNop a0 s
  | .movG a0 => Sys2Proof.Machine.execMovG a0 s
  | .movImm a0 => Sys2Proof.Machine.execMovImm a0 s
  | .movFimm a0 => Sys2Proof.Machine.execMovFimm a0 s
  | .add a0 => Sys2Proof.Machine.execAdd a0 s
  | .addImm a0 => Sys2Proof.Machine.execAddImm a0 s
  | .sub a0 => Sys2Proof.Machine.execSub a0 s
  | .subImm a0 => Sys2Proof.Machine.execSubImm a0 s
  | .and a0 => Sys2Proof.Machine.execAnd a0 s
  | .andImm a0 => Sys2Proof.Machine.execAndImm a0 s
  | .or a0 => Sys2Proof.Machine.execOr a0 s
  | .orImm a0 => Sys2Proof.Machine.execOrImm a0 s
  | .xor a0 => Sys2Proof.Machine.execXor a0 s
  | .xorImm a0 => Sys2Proof.Machine.execXorImm a0 s
  | .shl a0 => Sys2Proof.Machine.execShl a0 s
  | .shlImm a0 => Sys2Proof.Machine.execShlImm a0 s
  | .shr a0 => Sys2Proof.Machine.execShr a0 s
  | .shrImm a0 => Sys2Proof.Machine.execShrImm a0 s
  | .sra a0 => Sys2Proof.Machine.execSra a0 s
  | .sraImm a0 => Sys2Proof.Machine.execSraImm a0 s
  | .mul a0 => Sys2Proof.Machine.execMul a0 s
  | .mulImm a0 => Sys2Proof.Machine.execMulImm a0 s
  | .mulh a0 => Sys2Proof.Machine.execMulh a0 s
  | .mulhu a0 => Sys2Proof.Machine.execMulhu a0 s
  | .div a0 => Sys2Proof.Machine.execDiv a0 s
  | .divu a0 => Sys2Proof.Machine.execDivu a0 s
  | .rem a0 => Sys2Proof.Machine.execRem a0 s
  | .remu a0 => Sys2Proof.Machine.execRemu a0 s
  | .min a0 => Sys2Proof.Machine.execMin a0 s
  | .minu a0 => Sys2Proof.Machine.execMinu a0 s
  | .max a0 => Sys2Proof.Machine.execMax a0 s
  | .maxu a0 => Sys2Proof.Machine.execMaxu a0 s
  | .sel a0 => Sys2Proof.Machine.execSel a0 s
  | .cmp a0 => Sys2Proof.Machine.execCmp a0 s
  | .cmpImm a0 => Sys2Proof.Machine.execCmpImm a0 s
  | .cmpImmUnsigned a0 => Sys2Proof.Machine.execCmpImmUnsigned a0 s
  | .pand a0 => Sys2Proof.Machine.execPand a0 s
  | .por a0 => Sys2Proof.Machine.execPor a0 s
  | .pxor a0 => Sys2Proof.Machine.execPxor a0 s
  | .pandn a0 => Sys2Proof.Machine.execPandn a0 s
  | .movToX a0 => Sys2Proof.Machine.execMovToX a0 s
  | .movFromX a0 => Sys2Proof.Machine.execMovFromX a0 s
  | .movToM a0 => Sys2Proof.Machine.execMovToM a0 s
  | .movFromM a0 => Sys2Proof.Machine.execMovFromM a0 s
  | .movToF a0 => Sys2Proof.Machine.execMovToF a0 s
  | .movFromF a0 => Sys2Proof.Machine.execMovFromF a0 s
  | .movFromLc a0 => Sys2Proof.Machine.execMovFromLc a0 s
  | .br a0 => Sys2Proof.Machine.execBr a0 s
  | .call a0 => Sys2Proof.Machine.execCall a0 s
  | .ret a0 => Sys2Proof.Machine.execRet a0 s
  | .jmpi a0 => Sys2Proof.Machine.execJmpi a0 s
  | .loop a0 => Sys2Proof.Machine.execLoop a0 s
  | .loopn a0 => Sys2Proof.Machine.execLoopn a0 s
  | .nopn a0 => Sys2Proof.Machine.execNopn a0 s
  | .srd a0 => Sys2Proof.Machine.execSrd a0 s
  | .swr a0 => Sys2Proof.Machine.execSwr a0 s
  | .ld a0 => Sys2Proof.Machine.execLd a0 s
  | .ldIndexed a0 => Sys2Proof.Machine.execLdIndexed a0 s
  | .ldRaw a0 => Sys2Proof.Machine.execLdRaw a0 s
  | .ldRawIndexed a0 => Sys2Proof.Machine.execLdRawIndexed a0 s
  | .st a0 => Sys2Proof.Machine.execSt a0 s
  | .stIndexed a0 => Sys2Proof.Machine.execStIndexed a0 s
  | .stRaw a0 => Sys2Proof.Machine.execStRaw a0 s
  | .stRawIndexed a0 => Sys2Proof.Machine.execStRawIndexed a0 s
  | .vld a0 => Sys2Proof.Machine.execVld a0 s
  | .vldIndexed a0 => Sys2Proof.Machine.execVldIndexed a0 s
  | .vst a0 => Sys2Proof.Machine.execVst a0 s
  | .vstIndexed a0 => Sys2Proof.Machine.execVstIndexed a0 s
  | .vmov a0 => Sys2Proof.Machine.execVmov a0 s
  | .vmovImm a0 => Sys2Proof.Machine.execVmovImm a0 s
  | .vmovFimm a0 => Sys2Proof.Machine.execVmovFimm a0 s
  | .vbcast a0 => Sys2Proof.Machine.execVbcast a0 s
  | .vext a0 => Sys2Proof.Machine.execVext a0 s
  | .vaddF32 a0 => Sys2Proof.Machine.execVaddF32 a0 s
  | .vaddI32 a0 => Sys2Proof.Machine.execVaddI32 a0 s
  | .vaddF32Imm a0 => Sys2Proof.Machine.execVaddF32Imm a0 s
  | .vaddI32Imm a0 => Sys2Proof.Machine.execVaddI32Imm a0 s
  | .vmulF32 a0 => Sys2Proof.Machine.execVmulF32 a0 s
  | .vmulI32 a0 => Sys2Proof.Machine.execVmulI32 a0 s
  | .vmulF32Imm a0 => Sys2Proof.Machine.execVmulF32Imm a0 s
  | .vmulI32Imm a0 => Sys2Proof.Machine.execVmulI32Imm a0 s
  | .vsubF32 a0 => Sys2Proof.Machine.execVsubF32 a0 s
  | .vsubI32 a0 => Sys2Proof.Machine.execVsubI32 a0 s
  | .vfma a0 => Sys2Proof.Machine.execVfma a0 s
  | .vminF32 a0 => Sys2Proof.Machine.execVminF32 a0 s
  | .vminI32 a0 => Sys2Proof.Machine.execVminI32 a0 s
  | .vminN32 a0 => Sys2Proof.Machine.execVminN32 a0 s
  | .vmaxF32 a0 => Sys2Proof.Machine.execVmaxF32 a0 s
  | .vmaxI32 a0 => Sys2Proof.Machine.execVmaxI32 a0 s
  | .vmaxN32 a0 => Sys2Proof.Machine.execVmaxN32 a0 s
  | .vabs a0 => Sys2Proof.Machine.execVabs a0 s
  | .vneg a0 => Sys2Proof.Machine.execVneg a0 s
  | .vand a0 => Sys2Proof.Machine.execVand a0 s
  | .vor a0 => Sys2Proof.Machine.execVor a0 s
  | .vxor a0 => Sys2Proof.Machine.execVxor a0 s
  | .vshl a0 => Sys2Proof.Machine.execVshl a0 s
  | .vshr a0 => Sys2Proof.Machine.execVshr a0 s
  | .vsra a0 => Sys2Proof.Machine.execVsra a0 s
  | .vcmpF32 a0 => Sys2Proof.Machine.execVcmpF32 a0 s
  | .vcmpI32 a0 => Sys2Proof.Machine.execVcmpI32 a0 s
  | .vcmpN32 a0 => Sys2Proof.Machine.execVcmpN32 a0 s
  | .vsel a0 => Sys2Proof.Machine.execVsel a0 s
  | .vperm a0 => Sys2Proof.Machine.execVperm a0 s
  | .vredF32 a0 => Sys2Proof.Machine.execVredF32 a0 s
  | .vredI32 a0 => Sys2Proof.Machine.execVredI32 a0 s
  | .vredN32 a0 => Sys2Proof.Machine.execVredN32 a0 s
  | .vcvt a0 => Sys2Proof.Machine.execVcvt a0 s
  | .xmovStart a0 => Sys2Proof.Machine.execXmovStart a0 s
  | .xmovCollect a0 => Sys2Proof.Machine.execXmovCollect a0 s
  | .wclaim a0 => Sys2Proof.Machine.execWclaim a0 s
  | .wrel a0 => Sys2Proof.Machine.execWrel a0 s
  | .oclaim a0 => Sys2Proof.Machine.execOclaim a0 s
  | .orel a0 => Sys2Proof.Machine.execOrel a0 s
  | .oload a0 => Sys2Proof.Machine.execOload a0 s
  | .wload a0 => Sys2Proof.Machine.execWload a0 s
  | .mpload a0 => Sys2Proof.Machine.execMpload a0 s
  | .mcall a0 => Sys2Proof.Machine.execMcall a0 s
  | .mcallSplit a0 => Sys2Proof.Machine.execMcallSplit a0 s
  | .mcallSparse a0 => Sys2Proof.Machine.execMcallSparse a0 s
  | .epiCfg a0 => Sys2Proof.Machine.execEpiCfg a0 s
  | .epiPop a0 => Sys2Proof.Machine.execEpiPop a0 s
  | .epiSt a0 => Sys2Proof.Machine.execEpiSt a0 s
  | .calRd a0 => Sys2Proof.Machine.execCalRd a0 s
  | .calWr a0 => Sys2Proof.Machine.execCalWr a0 s
  | .pmpCp a0 => Sys2Proof.Machine.execPmpCp a0 s
  | .pmpGth a0 => Sys2Proof.Machine.execPmpGth a0 s
  | .pmpSct a0 => Sys2Proof.Machine.execPmpSct a0 s
  | .pmpDec a0 => Sys2Proof.Machine.execPmpDec a0 s
  | .pmpCmp a0 => Sys2Proof.Machine.execPmpCmp a0 s
  | .ctabLd a0 => Sys2Proof.Machine.execCtabLd a0 s
  | .ownGive a0 => Sys2Proof.Machine.execOwnGive a0 s
  | .ownTake a0 => Sys2Proof.Machine.execOwnTake a0 s
  | .txbInit a0 => Sys2Proof.Machine.execTxbInit a0 s
  | .txbExpect a0 => Sys2Proof.Machine.execTxbExpect a0 s
  | .txbArrive a0 => Sys2Proof.Machine.execTxbArrive a0 s
  | .txbArriveRemote a0 => Sys2Proof.Machine.execTxbArriveRemote a0 s
  | .txbWait a0 => Sys2Proof.Machine.execTxbWait a0 s
  | .aadd a0 => Sys2Proof.Machine.execAadd a0 s
  | .aincw a0 => Sys2Proof.Machine.execAincw a0 s
  | .afaddb a0 => Sys2Proof.Machine.execAfaddb a0 s
  | .acas a0 => Sys2Proof.Machine.execAcas a0 s
  | .axchg a0 => Sys2Proof.Machine.execAxchg a0 s
  | .amin a0 => Sys2Proof.Machine.execAmin a0 s
  | .amax a0 => Sys2Proof.Machine.execAmax a0 s
  | .aand a0 => Sys2Proof.Machine.execAand a0 s
  | .aor a0 => Sys2Proof.Machine.execAor a0 s
  | .axor a0 => Sys2Proof.Machine.execAxor a0 s
  | .redAdd a0 => Sys2Proof.Machine.execRedAdd a0 s
  | .redComb a0 => Sys2Proof.Machine.execRedComb a0 s
  | .collStart a0 => Sys2Proof.Machine.execCollStart a0 s
  | .collSt a0 => Sys2Proof.Machine.execCollSt a0 s
  | .blkAlloc a0 => Sys2Proof.Machine.execBlkAlloc a0 s
  | .blkXlat a0 => Sys2Proof.Machine.execBlkXlat a0 s
  | .blkShare a0 => Sys2Proof.Machine.execBlkShare a0 s
  | .blkFree a0 => Sys2Proof.Machine.execBlkFree a0 s
  | .pbarDur a0 => Sys2Proof.Machine.execPbarDur a0 s
  | .pbarDurBarrier a0 => Sys2Proof.Machine.execPbarDurBarrier a0 s
  | .fence a0 => Sys2Proof.Machine.execFence a0 s
  | .tsync a0 => Sys2Proof.Machine.execTsync a0 s
  | .crgnOpen a0 => Sys2Proof.Machine.execCrgnOpen a0 s
  | .crgnClose a0 => Sys2Proof.Machine.execCrgnClose a0 s
  | .trap a0 => Sys2Proof.Machine.execTrap a0 s
  | .eret a0 => Sys2Proof.Machine.execEret a0 s
  | .done a0 => Sys2Proof.Machine.execDone a0 s
  | .testRd a0 => Sys2Proof.Machine.execTestRd a0 s
  | .mhead a0 => Sys2Proof.Machine.execMhead a0 s
  | .fetchBundle a0 => Sys2Proof.Machine.execFetchBundle a0 s
  | .controlDoorbell a0 => Sys2Proof.Machine.execControlDoorbell a0 s
  | .periodBoundary a0 => Sys2Proof.Machine.execPeriodBoundary a0 s
  | .serviceCisternWrite a0 a1 => Sys2Proof.Machine.execServiceCisternWrite a0 a1 s
  | .ptpManagementMessage a0 => Sys2Proof.Machine.execPtpManagementMessage a0 s
  | .supplyGood => Sys2Proof.Machine.execSupplyGood s
  | .firmwareVerified => Sys2Proof.Machine.execFirmwareVerified s
  | .preserve => Sys2Proof.Machine.execPreserve s
  | .supplyLoss => Sys2Proof.Machine.execSupplyLoss s
  | .stretchApply => Sys2Proof.Machine.execStretchApply s
  | .telemetrySample => Sys2Proof.Machine.execTelemetrySample s
  | .dispatch => Sys2Proof.Machine.execDispatch s
  | .receiptSigned => Sys2Proof.Machine.execReceiptSigned s
  | .keystonePerform => Sys2Proof.Machine.execKeystonePerform s
  | .holdover => Sys2Proof.Machine.execHoldover s
  | .unsync => Sys2Proof.Machine.execUnsync s
  | .domainApply => Sys2Proof.Machine.execDomainApply s
  | .ctxNew => Sys2Proof.Machine.execCtxNew s
  | .ctxSet => Sys2Proof.Machine.execCtxSet s
  | .ctxKey => Sys2Proof.Machine.execCtxKey s
  | .ctxImg => Sys2Proof.Machine.execCtxImg s
  | .ctxYield => Sys2Proof.Machine.execCtxYield s
  | .ctxResume => Sys2Proof.Machine.execCtxResume s
  | .ctxSeal => Sys2Proof.Machine.execCtxSeal s
  | .ctxUnseal => Sys2Proof.Machine.execCtxUnseal s
  | .ctxClear => Sys2Proof.Machine.execCtxClear s
  | .ctxKill => Sys2Proof.Machine.execCtxKill s
  | .ctxRead => Sys2Proof.Machine.execCtxRead s
  | .contextSwitched => Sys2Proof.Machine.execContextSwitched s
  | .launch => Sys2Proof.Machine.execLaunch s
  | .copy => Sys2Proof.Machine.execCopy s
  | .waitv => Sys2Proof.Machine.execWaitv s
  | .signalStore => Sys2Proof.Machine.execSignalStore s
  | .signalAdd => Sys2Proof.Machine.execSignalAdd s
  | .signalMailbox => Sys2Proof.Machine.execSignalMailbox s
  | .receipt => Sys2Proof.Machine.execReceipt s
  | .coll => Sys2Proof.Machine.execColl s
  | .preemptSuspend => Sys2Proof.Machine.execPreemptSuspend s
  | .preemptRelease => Sys2Proof.Machine.execPreemptRelease s
  | .dataApply => Sys2Proof.Machine.execDataApply s
  | .flagApply => Sys2Proof.Machine.execFlagApply s
  | .collEngineStart => Sys2Proof.Machine.execCollEngineStart s
  | .collRoundLocalDone => Sys2Proof.Machine.execCollRoundLocalDone s

end Sys2Proof.Machine
end

