-- ==== Sys2Proof/Machine/Schedule.lean ====
section
/-!
DEFINITION. The package cycle: which rows are due in each of its phases (R77, R117, R129, R168, R172, R181,
R186), what lands at its end, and what the inputs bring. Machine/Step.lean runs the agenda made here.
-/
namespace Sys2Proof.Machine

/-! ## Cores by kernel -/

/-- The cores that a kernel's group occupies, in ascending role. -/
def Kernel.cores (k : Kernel) : List Nat := if k.bound || k.st == .preparing then k.bind else []

/-- Every occupied core, by kernel and ascending role (R181). -/
def groupCores (s : State) : List Nat := s.kernels.flatMap (fun p => p.2.cores)

/-- Every occupied core in ascending cluster and core position (R168). -/
def coresInOrder (s : State) : List Nat := sortBy (fun a b => decide (a < b)) (groupCores s)

/-- Whether a core has a pump command, a load, an MCALL or a pop under way. -/
def enginesBusy (c : Core) : Bool :=
  !c.runs.isEmpty || c.oload.isSome || c.wload.isSome || c.mcall.isSome || c.pop.isSome

/-- Whether this is the first cycle of a period (R125). -/
def atBoundary (s : State) : Bool := s.cyc % Config.period = 0

/-! ## The start of a cycle -/

/-- sr.ttc of a running kernel, and the cycles of a drain, advance (R124, R138). -/
def Kernel.tick (k : Kernel) : Kernel :=
  match k.st with
  | .running => { k with ttc := k.ttc + 1 }
  | .draining => { k with drained := k.drained + 1 }
  | .preparing | .held | .suspended | .resuming | .ended | .faulted | .relaunching => k

/-- A test slice goes on, but not under a limit hold (R275). -/
def Cluster.tick (limhold : Bool) (x : Cluster) : Cluster :=
  match x.slice with
  | none | some 0 => x
  | some (n + 1) => if limhold then x else { x with slice := some n }

/-- The management controller's counts of a cycle: its stretch (R46), the test slices. -/
def Mgmt.tick (m : Mgmt) : Mgmt :=
  { m with
    residency := tset m.residency m.stretch (tget 0 m.residency m.stretch + 1)
    clusters := m.clusters.map (fun p => (p.1, p.2.tick m.limhold)) }

/-- The next package cycle begins. -/
def tick (s : State) : State :=
  takeRows (enterFull { s with
    cyc := s.cyc + 1
    mgmt := s.mgmt.tick
    ks := { s.ks with before := { phys := s.mem.phys, kmem := s.mem.kmem, key := s.mem.key, pages := s.ks.pages } }
    link := { s.link with clock := s.link.clock + cycleLen s.mgmt, elapsed := s.link.elapsed + cycleLen s.mgmt, busy := [] }
    kernels := s.kernels.map (fun p => (p.1, p.2.tick)) })

/-! ## Inputs -/

/-- Where in a cycle an input is taken: at its start; a service core's read among the Keystones' operations (R186); in the
last phase, in the order of R117, CTL writes and doorbell writes, the ends of commands, a dispatch. A relaunch comes
there too, since its claims come after the releases of the cycle (R159). -/
inductive Turn where
  | start | reads | doors | completions | dispatch
  deriving DecidableEq, Repr

def Input.turn (x : Input) : Turn :=
  match x with
  | .row (.queueEnable _) | .row (.queueDisable _) | .row (.queueResume _) | .row (.queueDoorbell _ _)
  | .row (.relaunch _) => .doors
  | .row (.copyComplete _) | .row .receiptSigned => .completions
  | .row .dispatch => .dispatch
  | .serviceRead _ _ => .reads
  | .row _ | .qmemWrite _ _ _ | .ueCore _ _ _ | .ueMem _ _ | .glitch _ _ | .saveError _ _
  | .wellRefused _ | .defect _ | .fec _ _ _ | .remoteData _ _ | .remoteRequest _ _ _ | .qmemRead _ _ _ | .port _ _
  | .sensors _ | .scrub _ _ _ | .mend _ => .start

/-- CTL writes come before doorbell writes (R117). -/
def Input.isDoorbell (x : Input) : Bool :=
  match x with
  | .row (.queueDoorbell _ _) => true
  | .row _ | .qmemWrite _ _ _ | .serviceRead _ _ | .ueCore _ _ _ | .ueMem _ _ | .glitch _ _ | .saveError _ _
  | .wellRefused _ | .defect _ | .fec _ _ _ | .remoteData _ _ | .remoteRequest _ _ _ | .qmemRead _ _ _ | .port _ _ | .sensors _ | .scrub _ _ _ | .mend _ => false

/-- The inputs that have arrived. -/
def arrived (s : State) : List (Nat × Input) := s.inputs.takeWhile (fun x => decide (x.1 ≤ s.cyc))

/-- Takes the arrived inputs of a turn onto the agenda. -/
def takeInputs (s : State) (n : Turn) : List Item × State :=
  let now := (arrived s).filter (fun x => x.2.turn == n)
  let later := (arrived s).filter (fun x => x.2.turn != n)
  (now.map (fun x => Item.input x.2), { s with inputs := later ++ s.inputs.drop (arrived s).length })

/-- The rows that come from outside the module, or at a time the spec leaves open. -/
def fromOutside (i : Instr) : Bool :=
  match i with
  | .supplyGood | .firmwareVerified | .calibrationComplete _ | .fatalLoss _ | .criticalTemperature _ | .preserve
  | .supplyLoss | .unitEventCount _ | .controlDoorbell _ | .queueEnable _ | .queueDisable _ | .queueResume _
  | .queueDoorbell _ _ | .dispatch | .copyComplete _ | .receiptSigned | .kernelStart _ | .mailboxWrite _ _ _ _
  | .drainComplete _ | .resumeCycle _ | .relaunch _ | .outboundSend _ | .wellSectorAccept _ | .wellSectorDurable _
  | .epochDurable _ | .wellReadSectorLand _ | .serviceWellWrite _ _ | .serviceCisternWrite _ _ | .dataApply
  | .collEngineStart | .collRoundLocalDone | .portSignalDetect _ | .trainingComplete _ _ | .trainingFail _
  | .trainingRetry _ | .laneFail _ _ | .alignmentLossTimeout _ | .portRetrain _ | .flitReceive _ _ | .flitReplay _ _
  | .time _ _ | .unsync | .domainApply => true
  | _ => false

/-- The commands of the management port (R45, R46). -/
def portCommand (i : Instr) : Bool :=
  match i with
  | .firmwareUpdate _ | .faultLogRead _ | .telemetrySample | .setFailThresholds _ _ | .clusterRetest _
  | .ptpManagementMessage _ => true
  | _ => false

/-- Whether a row may come as an input now. KERNEL_START keeps to its boundary; a command at the management port that
is not authentic does nothing (R46). -/
def Input.row? (x : Input) : Option Instr :=
  match x with
  | .row i => if fromOutside i then some i else none
  | .port authentic i => if authentic && portCommand i then some i else none
  | .qmemWrite _ _ _ | .serviceRead _ _ | .ueCore _ _ _ | .ueMem _ _ | .glitch _ _ | .saveError _ _ | .wellRefused _
  | .defect _ | .fec _ _ _ | .remoteData _ _ | .remoteRequest _ _ _ | .qmemRead _ _ _ | .sensors _ | .scrub _ _ _ | .mend _ => none

/-- The physical column of a macro that an error in a sector of its bit-cells counts against, one of the 64 that the
sector spans; `n` counts the free values taken (log entry 135). -/
def ueColumn (c : Core) (n sector : Nat) : Nat × Nat :=
  let mac := sector / 256
  let col := 64 * (sector % 2) + Config.ueColumn n % 64
  (mac, tget col c.colMap (mac * 128 + col))

/-- The units that an event counts against (R268), of those that the table has: a core for SHADOW and for errors at
levels 1 to 4 and 9, and for level 3 a macro column too; the granule of a cluster SRAM or of the weight store; a row of
Keystone SRAM, named by the sector's address. Events of a shaft lane are the shaft's own (log entry 102). -/
def eventUnits (s : State) (n p : Nat) (e : Nat × Nat) : List UnitId :=
  match e.1 with
  | 3 =>
    let col := ueColumn (s.core p) n (e.2 / 64)
    [.core p, .column p col.1 col.2]
  | 5 => [.csramGranule (clusterOf p) (e.2 / 0x10000)]
  | 6 => []
  | 7 => [.weightGranule ((e.2 - 0x4000000000) / 0x80000000) (e.2 % 0x80000000 / 0x10000)]
  | 8 => [.keyRow (homeOf s e.2) (e.2 / 64)]
  | _ => [.core p]

/-- The rows of some events, each with its core; an event takes one free value. -/
def eventRows (s : State) (es : List (Nat × Nat × Nat)) : List Item × State :=
  (es.zipIdx.flatMap (fun (e, i) => (eventUnits s (s.free + i) e.1 e.2).map (fun u => Item.row (.unitEventCount u))),
   { s with free := s.free + es.length })

/-- What an input other than a row changes. -/
def applyInput (s : State) (x : Input) : State :=
  match x with
  | .row _ | .port _ _ => s
  | .sensors m => { s with mgmt := { s.mgmt with sensors := m } }
  | .scrub p level sector =>
    let s := { s with mgmt := { s.mgmt with scrubs := s.mgmt.scrubs ++ [(level, sector)] } }
    let (rows, s) := eventRows s [(p, level, 64 * sector)]
    { s with agenda := rows ++ s.agenda }
  | .mend cluster =>
    let x : Cluster := { tget {} s.mgmt.clusters cluster with defect := false }
    { s with mgmt := { s.mgmt with clusters := tset s.mgmt.clusters cluster x } }
  | .qmemWrite mode a data => writeQmem s mode a data
  | .serviceRead a n => serviceRead s a n
  | .ueCore p level unit => s.updCore p (fun c => { c with ue := c.ue ++ [(level, unit)] })
  | .ueMem level a => { s with mem := { s.mem with ue := s.mem.ue ++ [(level, a / 64)] } }
  | .glitch p x => s.updCore p (fun c => { c with glitch := some x })
  | .saveError kid n => failFrame s kid n
  | .wellRefused core => refuseSector s core
  | .defect cluster =>
    let x : Cluster := { tget {} s.mgmt.clusters cluster with defect := true }
    { s with mgmt := { s.mgmt with clusters := tset s.mgmt.clusters cluster x } }
  | .fec p corr unc => updPort s p (fun q => { q with fecCorr := q.fecCorr + corr, fecUnc := q.fecUnc + unc })
  | .remoteRequest node ctx addrs => serveRemote s node ctx addrs
  | .qmemRead mode a n => readQmem s mode a n
  | .remoteData i data =>
    { s with mem := { s.mem with reads := s.mem.reads.zipIdx.map (fun (r, j) =>
        if j = i ∧ r.node.isSome ∧ r.data.isNone ∧ data.length = 64 then { r with data := some data } else r) } }

/-! ## Rows due at the start -/

/-- Rows of the package as a whole: service states, the stretch, lane substitution, period boundaries. -/
def startRows (s : State) : List Item :=
  let m := s.mgmt
  (if s.eager && m.service == .boot then [.row .firmwareVerified] else [])
    ++ (if s.eager && m.service == .preserve then [.row .preserve] else [])
    ++ (if sampleDue s then [.row (.limitSample m.sensors)] else [])
    ++ (if atBoundary s then
          (if m.stretch != m.target then [.row .stretchApply] else [])
            ++ ((m.shafts.filter (fun p => !p.2.waiting.isEmpty && !p.2.gone)).map
                  (fun p => Item.row (.laneSubstitution p.1)))
        else [])

/-- A kernel that starts, resumes or is released in this cycle (R123, R131, R140, R141). -/
def kernelRow (s : State) (kid : Nat) (k : Kernel) : List Item :=
  match k.st with
  | .preparing =>
    if atBoundary s && !argsDue s kid k && (s.eager || decide (k.lastT0 < s.cyc + Config.period)) then [.row (.kernelStart kid)] else []
  | .held =>
    if holdCauses s k = 0 && s.cyc % Config.period = k.resumeTtc % Config.period then [.row (.holdRelease kid)]
    else []
  | .resuming =>
    if s.eager && s.cyc % Config.period = k.point % Config.period then [.row (.resumeCycle kid)] else []
  | .running | .draining | .suspended | .ended | .faulted | .relaunching => []

/-- Whether a kernel that runs in this cycle stands at a listed point with a request latched (R135). -/
def pointHere (s : State) (k : Kernel) : Bool :=
  k.st == .running && (match k.preq with | none => false | some first => decide (first ≤ k.ttc))
    && (pointsOf (imageOf s k)).contains k.ttc

/-- Whether a running kernel has reached TLIMIT (R134). -/
def limitReached (k : Kernel) : Bool :=
  let limit := fieldLE k.record 0x18 8
  k.st == .running && limit != 0 && decide (limit ≤ k.ttc)

/-- The rows of the kernels that run in this cycle, once those that start or are released in it do: period boundaries,
limit holds (R44), listed points (R129), the timetable limit. -/
def pointRows (s : State) : List Item :=
  (s.kernels.filter (fun p => atPeriodStart p.2)).map (fun p => Item.row (.periodBoundary p.1))
    ++ (s.kernels.filter (fun p => s.mgmt.limhold && atBoundary s && p.2.st == .running)).map
        (fun p => Item.row (.limitHoldEnter p.1))
    ++ (s.kernels.filter (fun p => pointHere s p.2)).map (fun p => Item.row (.preemptPoint p.1))
    ++ (s.kernels.filter (fun p => limitReached p.2)).map (fun p => Item.row (.timeLimit p.1))

/-! ## Engines, beats, Keystones, issue -/

/-- ENGINE_COMPLETE of every core, then ENGINE_START (R168). -/
def engineRows (s : State) : List Item :=
  let cs := coresInOrder s
  (cs.filter (fun p => (s.core p).runs.any PumpRun.over)).map (fun p => Item.row (.engineComplete p))
    ++ (cs.filter (fun p => (s.core p).buf.any (fun x => decide (x.start ≤ s.ttcOf (s.core p))))).map
        (fun p => Item.row (.engineStart p))

/-- The cores whose engines work, in the order in which their beats land (R181). -/
def beatItems (s : State) : List Item :=
  ((groupCores s).filter (fun p => enginesBusy (s.core p))).map Item.beats

/-- The Keystones' operations in the order of R186, the command processor's and the service cores' accesses before
RED.COMB; then what waits at the variable boundary. -/
def keystoneItems (s : State) : List Item :=
  let due := s.ks.ops.filter (KOp.dueNow s.cyc)
  let row (_ : KOp) : Item := .row .keystonePerform
  let qs := s.cp.queues.map (·.1)
  (due.filter (fun o => !o.kind.isComb)).map row ++ wordItem s
    ++ (qs.filter (fun q => waitDue s (queueAt s q))).map (fun q => Item.row (.waitvEvaluate q))
    ++ [.poll .reads] ++ (due.filter (fun o => o.kind.isComb)).map row ++ [.poll .boundary]

/-- The cores that issue a bundle or take an engine's trap. -/
def issueItems (s : State) : List Item :=
  ((groupCores s).filter (fun p => issuesNow s p || (s.core p).engTrap.isSome)).map Item.issue

/-! ## The variable boundary -/

/-- The core of a stream's role. -/
def streamCore (s : State) (t : Stream) : Option Nat :=
  match s.kernel? t.kid with
  | none => none
  | some k => k.bind[t.role % oldAttempt]?

/-- The first of a list that a test accepts, as a row of its core. -/
def streamRow (s : State) (ok : Stream → Bool) (row : Nat → Instr) : Option Instr :=
  match s.streams.find? (fun t => ok t && (streamCore s t).isSome) with
  | none => none
  | some t => (streamCore s t).map row

/-- The first place of a list whose element passes a test. -/
def firstPlace {α : Type} (xs : List α) (ok : Nat → α → Bool) : Option Nat :=
  (xs.zipIdx.find? (fun x => ok x.2 x.1)).map (·.2)

/-- The next row at the variable boundary whose time has come: overdue acknowledgements, data before due flags (R253), and
with `eager` every other step that can be taken. -/
def boundaryRow (s : State) : Option Instr :=
  let nodes := (s.link.unacked.map (·.node)).eraseDups
  let timed : List (Option Instr) :=
    [ (nodes.find? (ackOverdue s)).map Instr.ackTimeout
    , if holdoverDue s.link then some .holdover else none
    , ((s.link.ports.find? (fun p => trainingLate s p.2)).map (·.1)).map Instr.trainingFail
    , ((s.link.ports.find? (fun p => retryDue s p.2 && portEnabled s p.1)).map (·.1)).map Instr.trainingRetry
    , if s.eager && s.link.inbound.any (dataReady s) then some .dataApply else none
    , if s.link.flags.any (flagDue s) then some .flagApply else none ]
  let free : List (Option Instr) :=
    if !s.eager then []
    else
      [ streamRow s (fun t => (nextWell t.cmds).isSome) .wellSectorAccept
      , (firstPlace s.mem.pend (mayPersist s)).map Instr.wellSectorDurable
      , streamRow s (epochReady s) .epochDurable
      , streamRow s (sendReady s) .outboundSend
      , (firstPlace s.mem.reads (fun _ r => readReady s r)).map Instr.wellReadSectorLand
      , if s.link.colls.any (fun c => c.st == .waiting) then some .collEngineStart else none
      , if s.link.colls.any Coll.localReady then some .collRoundLocalDone else none ]
  (timed ++ free).findSome? id

/-- The control message that is taken next, after the data and the flags: by ascending sender, then SEQ (R253). -/
def firstControl (fs : List Flit) : Option Flit :=
  fs.foldl (fun b f => match b with
    | none => some f
    | some x =>
      if flitNode f < flitNode x ∨ (flitNode f = flitNode x ∧ f.type = typeNotice ∧ x.type = typeNotice
          ∧ seqAfter x.seq f.seq) then some f else b) none

/-! ## Landing -/

/-- A wait in a trap handler or a stub, evaluated on the record as it stands after the cycle before (R208). -/
def systemWait (s : State) (c : Core) : Core :=
  match c.wait with
  | none => c
  | some w =>
    let b := coreBar c w.addr
    if c.mode = .task || !satisfied b w.phase then c
    else
      let l (r : Nat) (t : Bool) : Landing :=
        { write := .p r t, due := .cyc s.cyc, rank := 1, issue := s.cyc, slot := 6, long := false }
      { c with
        wait := none
        hNextAt := some (s.cyc + 1)
        inflight := c.inflight ++ [l (2 * w.pair) (!b.abort), l (2 * w.pair + 1) b.abort] }

/-- The rows of what lands in a core at the end of this cycle. -/
def landRows (s : State) (p : Nat) : List Item :=
  let c := s.core p
  let due := c.inflight.filter (fun l => l.due.reached s c)
  let when_ (b : Bool) (i : Instr) : List Item := if b then [.row i] else []
  when_ (due.any isReturn) (.keystoneReturn p)
    ++ when_ (due.any (fun l => !isReturn l && !isXres l)) (.resultLand p)
    ++ when_ (due.any isXres) (.transformResult p)
    ++ when_ (match c.oload with | none => false | some o => decide (oloadLatency o ≤ o.k)) (.oloadComplete p)
    ++ when_ (match c.wload with | none => false | some w => decide (wloadLatency w.src ≤ w.k)) (.wloadComplete p)
    ++ when_ (c.mploads.any (fun m => m.due.reached s c)) (.mploadWrite p)
    ++ when_ (match c.mcall with | none => false | some m => decide (m.len ≤ m.k) && m.reexec.isNone) (.mcallCommit p)
    ++ when_ (match c.mcall with | none => false | some m => m.reexec == some 0) (.clipReexecuteDone p)
    ++ when_ (match c.pop with | none => false | some o => decide (20 + o.beats ≤ o.k)) (.epiPopComplete p)
    ++ when_ (c.runs.any (fun x => x.cmd.op == opCtab && x.k == 24 && !x.stopped)) (.ctabLdComplete p)
    ++ ((c.dir.filter (fun a => barExpired (windowNow s) (coreBar c a))).map
          (fun a => Item.row (.barrierTimeout p a)))

/-- The changes of a cycle to one barrier of a core are applied (R204, R205); TXB.INIT arms it (R203). -/
def landBar (window : Nat) (c : Core) (a : Nat) : Core :=
  let ups := (c.barUps.filter (fun u => u.1 == a)).map (·.2)
  let arms := ups.any (fun u => match u with
    | .init _ _ _ => true
    | .add _ _ | .collExpect _ _ _ | .abort _ => false)
  { c with
    priv := writeBytes c.priv a (barBytes (barApply window (coreBar c a) ups))
    dir := if arms && !c.dir.contains a then c.dir ++ [a] else c.dir }

/-- The changes of a cycle to the barriers of a core. -/
def landBars (window : Nat) (c : Core) : Core :=
  if c.barUps.isEmpty then c
  else { (((c.barUps.map (·.1)).eraseDups).foldl (landBar window) c) with barUps := [] }

/-- OWN.GIVE and OWN.TAKE of the cycle's bundle (R168). -/
def landOwns (c : Core) : Core :=
  { (c.owns.foldl (fun c (give, t) =>
      { c with tiles := tset c.tiles t (if give then tileGive (tileOf c t) else tileTake (tileOf c t)) }) c) with
    owns := [] }

/-- The time-outs of the barriers of a suspended role (R210). -/
def savedTimeouts (window : Nat) (c : Core) : Core :=
  (c.dir.filter (fun a => barExpired window (coreBar c a))).foldl (fun c a => c.bar a (.abort 1)) c

/-- Barrier changes in every core and in every saved record of a suspended kernel (R210). -/
def landAllBars (s : State) : State :=
  let w := windowNow s
  let s := (groupCores s).foldl (fun s p => s.updCore p (landBars w)) s
  { s with kernels := s.kernels.map (fun (i, k) =>
      (i, { k with saved := k.saved.map (fun (r, c) => (r, landBars w (savedTimeouts w c))) })) }

/-- What has come of a task's wait at the end of a cycle (R208). -/
def taskWait (c : Core) : Core :=
  match c.wait with
  | none => c
  | some w =>
    let b := coreBar c w.addr
    if c.mode = .task && w.out.isNone && satisfied b w.phase then { c with wait := some { w with out := some (!b.abort) } }
    else c

/-- The end of a cycle for every memory: beats and stores, owner bits, barriers, collectives. -/
def landAll (s : State) : State :=
  let s := { s with mem := landMemory s.mem }
  let s := (groupCores s).foldl (fun s p => s.updCore p (fun c => landOwns (landPrivate c))) s
  landAllBars (landColls (landAllBars s))

/-! ## Outbound streams and regions (R187, R188, R270 to R273) -/

/-- Puts a FENCE behind every command whose start cycle is before its own (R188). -/
def insertFence (xs : List OutCmd) (f : OutCmd) : List OutCmd :=
  let later (o : OutCmd) : Bool := !o.kind.isFence && !startsBefore o f
  (xs.reverse.dropWhile later).reverse ++ f :: (xs.reverse.takeWhile later).reverse

/-- Adds commands to a list in the order of R188. -/
def joinStream (xs new : List OutCmd) : List OutCmd :=
  new.foldl (fun xs o => if o.kind.isFence then insertFence xs o else xs ++ [o]) xs

/-- Puts a command that a region has held into the stream, in the order of start cycles (R187, R272). -/
def insertHeld (xs : List OutCmd) (o : OutCmd) : List OutCmd :=
  xs.takeWhile (fun x => !startsBefore o x) ++ o :: xs.dropWhile (fun x => !startsBefore o x)

/-- The commands that a core has started in this cycle go to its stream, or to the hold of its innermost
region; reads are not held (R271), and a FENCE takes its place in the stream, where it waits for what is held and
earlier (log entry 85). -/
def sendOut (s : State) (p : Nat) : State :=
  let c := s.core p
  match c.kid with
  | none => s
  | some kid =>
    let (direct, held) := match c.regions with
      | [] => (c.outNew, [])
      | _ :: _ =>
        (c.outNew.filter (fun o => o.kind.isRead || o.kind.isFence),
         c.outNew.filter (fun o => !(o.kind.isRead || o.kind.isFence)))
    let c2 : Core := { c with
      outNew := [], pbarNew := []
      regions := match c.regions with
        | [] => []
        | r :: rs => { r with hold := joinStream r.hold held } :: rs }
    updStream (s.setCore p c2) kid c.role (fun t =>
      { t with cmds := joinStream t.cmds direct, pbars := t.pbars ++ c.pbarNew, epoch := c.epoch })

/-- The Keystone operations that a core has issued are under way. -/
def sendOps (s : State) (p : Nat) : State :=
  let c := s.core p
  if c.kNew.isEmpty then s
  else { (s.setCore p { c with kNew := [] }) with ks := { s.ks with ops := s.ks.ops ++ c.kNew } }

/-- A UE consumed inside a region: the trap record of R273, and a pending unwind in every member of the
innermost region. A second one in the same region changes nothing. -/
def noteUe (ttc : Nat) (s : State) (p : Nat) : State :=
  let c := s.core p
  match c.ueHit with
  | none => s
  | some h =>
    let depth := c.regions.length
    if c.upend.any (fun u => u.2.1 == depth) then s.setCore p { c with ueHit := none }
    else
      let members := match c.regions with | [] => [] | r :: _ => r.members
      let rec_ : TrapRecord := { c.trap with
        supp := 0, nest := false, eng := h.eng, slot := BitVec.ofNat 3 h.slot, code := BitVec.ofNat 8 codeUe
        info := h.info, iter := h.iter }
      members.foldl (fun s q => s.updCore q (fun c => { c with upend := c.upend ++ [(ttc + 16, depth, h.level)] }))
        (s.setCore p { c with ueHit := none, trap := rec_ })

/-- A region by its opening and its members. -/
def Region.id (r : Region) : Nat × List Nat := (r.opened, r.members)

/-- The innermost region of a core. -/
def regionId (c : Core) : Option (Nat × List Nat) := c.regions.head?.map Region.id

/-- The cores of a kernel that open a region in this package cycle. -/
def openers (s : State) (k : Kernel) : List Nat := k.bind.filter (fun p => (s.core p).staged.opened.isSome)

/-- The cores that have opened a region in this timetable cycle, in package cycles before a hold in it. -/
def openedHere (s : State) (k : Kernel) : List Nat :=
  k.bind.filter (fun p => match (s.core p).regions with | [] => false | r :: _ => r.opened == k.ttc)

/-- CRGN.OPEN takes effect: the cores that open in one timetable cycle are the members, and a core that a trap
has kept from its bundle joins them when it re-executes it. A member outside the region that the deepest of them
is in raises subcode 5 (R270). -/
def openRegions (s : State) (k : Kernel) : State :=
  let ps := openers s k
  if ps.isEmpty then s
  else
    let old := openedHere s k
    let all := k.bind.filter (fun p => ps.contains p || old.contains p)
    let outerOf (p : Nat) : List Region :=
      if old.contains p then (s.core p).regions.drop 1 else (s.core p).regions
    let deepest := all.foldl (fun (m : Option Nat) p => match m with
      | none => some p
      | some q => if (outerOf q).length < (outerOf p).length then some p else some q) none
    let outer := match deepest with | none => none | some q => (outerOf q).head?.map Region.id
    all.foldl (fun s p =>
      let c := s.core p
      if old.contains p then
        s.setCore p { c with regions := match c.regions with
          | [] => []
          | r :: rs => { r with members := all } :: rs }
      else if regionId c != outer then s.setCore p (endFault c codeRegion 5)
      else
        let r : Region := { target := c.staged.opened.getD 0, opened := k.ttc, members := all, hold := [] }
        s.setCore p { c with regions := r :: c.regions, unw := false }) s

/-- The cores of a kernel that close their innermost region in this cycle; a close beside a UE of the same
cycle is suppressed with it (R272). -/
def closers (s : State) (k : Kernel) : List Nat :=
  k.bind.filter (fun p => (s.core p).staged.closed && (s.core p).upend.isEmpty)

/-- The hold of a closed region goes to the region around it, or to the stream (R272). -/
def releaseHold (s : State) (p : Nat) : State :=
  let c := s.core p
  match c.regions, c.kid with
  | r :: x :: xs, _ => s.setCore p { c with regions := { x with hold := x.hold ++ r.hold } :: xs }
  | [r], some kid =>
    let out := r.hold.map (fun o => { o with epoch := c.epoch })
    updStream (s.setCore p { c with regions := [] }) kid c.role (fun t => { t with cmds := out.foldl insertHeld t.cmds })
  | [_], none | [], _ => s

/-- CRGN.CLOSE takes effect: every member closes in one timetable cycle, a core that a trap has kept from its
bundle when it re-executes it. A member whose bundle of that cycle has not closed the region raises subcode 1
(R270). -/
def closeRegions (s : State) (kid : Nat) (k : Kernel) : State :=
  let cs := closers s k
  if cs.isEmpty && k.closed.1 != k.ttc then s else
  let before := if k.closed.1 = k.ttc then k.closed.2 else []
  let ids := (before ++ cs.filterMap (fun p => regionId (s.core p))).eraseDups
  let s := (cs.foldl releaseHold s).updKernel kid (fun k => { k with closed := (k.ttc, ids) })
  let open_ (id : Nat × List Nat) (q : Nat) : Bool :=
    let c := s.core q
    (c.regions.map Region.id).contains id && c.upend.isEmpty && !reissues c k
  let missing := (ids.flatMap (fun id => id.2.filter (open_ id))).eraseDups
  missing.foldl (fun s q => s.updCore q (fun c => endFault c codeRegion 1)) s

/-- The events found in this cycle, as rows; the cores have them no more. -/
def takeFound (s : State) : List Item × State :=
  let ps := (s.cores.filter (fun p => !p.2.found.isEmpty)).map (·.1)
  let (rows, s) := eventRows s (ps.flatMap (fun p => (s.core p).found.map (fun e => (p, e))))
  (rows, ps.foldl (fun s p => s.updCore p (fun c => { c with found := [] })) s)

/-- The end of a cycle for one kernel's group. -/
def settleGroup (s : State) (kid : Nat) : State :=
  match s.kernel? kid with
  | none => s
  | some k =>
    if !k.bound then s
    else
      let s := k.bind.foldl sendOps s
      let s := k.bind.foldl (noteUe k.time) s
      let s := k.bind.foldl sendOut s
      let s := closeRegions s kid k
      let s := openRegions s k
      k.bind.foldl (fun s p => s.updCore p (fun c => { c with staged := {} })) s

/-! ## Faults, ends, holds -/

/-- Every CTX.KILL of the control ring comes before everything else of its cycle (R77). -/
def killFirst (s : State) : List Item :=
  (s.cp.ctl.filter (fun i => memRead s.mem.qmem (64 * i) == 0x0A)).map (fun _ => Item.row .ctxKill)

/-- Faults, unwinds and ends of kernels in this cycle, after CTX.KILL and PKG_FATAL (R129). -/
def outcomeRows (s : State) : List Item :=
  (s.kernels.filter (fun p => p.2.holds && (recordedFault s p.2).isSome)).map
        (fun p => Item.row (.kernelFault p.1))
    ++ (s.kernels.filter (fun p => p.2.st == .running
          && p.2.bind.any (fun q => (dueUnwind p.2.ttc (s.core q)).isSome))).map
        (fun p => Item.row (.regionUnwind p.1))
    ++ (s.kernels.filter (fun p => p.2.st == .running && endReached s p.2)).map (fun p => Item.row (.kernelEnd p.1))

/-- Whether a core has operations of its handler under way in a Keystone. -/
def handlerOps (s : State) (p : Nat) : Bool :=
  s.ks.ops.any (fun o => o.phys == p && (match o.due with | .cyc _ => true | .ttc _ => false))

/-- An ERET takes effect once everything its handler issued is complete (R132). -/
def finishHandler (s : State) (p : Nat) : State :=
  let c := s.core p
  if c.eretWait && c.mode == .handler && !handlerBusy c && !handlerOps s p then s.setCore p (returnFromTrap c) else s

/-- The timetable cycle of the bundle that a hold keeps back: this one again where a core has not committed
its bundle of it, else the next. -/
def heldCycle (s : State) (k : Kernel) : Nat :=
  if k.bind.any (fun p => let c := s.core p; !c.done && decide (c.nextAt ≤ k.ttc)) then k.ttc else k.ttc + 1

/-- A limit hold ends with the cycle in which LIMHOLD clears (R44, R131). -/
def endLimit (s : State) (kid : Nat) : State :=
  if s.mgmt.limhold then s else s.updKernel kid (fun k => { k with limit := false })

/-- The end of a cycle for the holds of a kernel: handlers return, waits that are over without a hold
settle, a hold begins (R130, R208). -/
def settleHolds (s : State) (kid : Nat) : State :=
  match s.kernel? kid with
  | none => s
  | some k =>
    if !k.bound then s
    else
      let s := k.bind.foldl (fun s p => s.updCore p (fun c => taskWait (landBars (windowNow s) c))) s
      let s := k.bind.foldl finishHandler s
      match k.st with
      | .running =>
        if holdCauses s k = 0 then
          (k.bind.foldl (fun s p => s.updCore p settleWait) s).setKernel kid { k with ran := k.time + 1 }
        else s.setKernel kid { k with st := .held, resumeTtc := heldCycle s k, ran := k.time + 1 }
      | .draining => s.setKernel kid { k with ran := k.time + 1 }
      | .preparing | .held | .suspended | .resuming | .ended | .faulted | .relaunching => s

/-- Whether a drain is complete (R138). -/
def drainOver (s : State) (kid : Nat) (k : Kernel) : Bool :=
  k.st == .draining && k.bind.all (fun p => drainedCore (s.core p)) && !beyondOpen s kid
    && !s.ks.ops.any (fun o => o.kid == kid)

/-- Drains that are complete, then relaunches, which claim what this cycle has released (R159), test slices that end
or begin (R138, R275). -/
def closingRows (s : State) : List Item :=
  (if s.eager then
      (s.kernels.filter (fun p => drainOver s p.1 p.2)).map (fun p => Item.row (.drainComplete p.1))
        ++ (s.kernels.filter (fun p => p.2.st == .relaunching && !p.2.deferred)).map
            (fun p => Item.row (.relaunch p.1))
    else [])
    ++ (s.mgmt.clusters.filter (fun p => p.2.slice == some 0)).map (fun p => Item.row (.testSliceEnd p.1))
    ++ (if serving s then
          ((List.range Config.numClusters).filter (fun c =>
            let x := tget {} s.mgmt.clusters c
            x.slice.isNone && !s.mgmt.clustersOut.contains c && decide (x.idleAt + idleLimit ≤ s.link.elapsed)
              && !s.kernels.any (fun k => k.2.holds && k.2.clusters.contains c))).map
            (fun c => Item.row (.testSliceStart c))
        else [])

/-! ## The command processor (R77, R117) -/

/-- The next control-ring entry, and after the last of them the contexts whose kernels are all away. -/
def controlItems (s : State) : List Item :=
  let switched := (s.cp.ctxs.filter (fun x => x.2.st == .yielding)).map (fun _ => Item.row .contextSwitched)
  match controlEntry s with
  | some (_, e) =>
    if imaging s && fieldLE e 0 1 != 0x0A then switched else [controlItem (fieldLE e 0 1), .poll .control]
  | none => switched

/-- Whether a COPY has written everything. -/
def copyOver (s : State) (q : Nat) : Bool :=
  let x := queueAt s q
  x.st == .active && (match x.copy with | none => false | some c => copyDone s c)

/-- Whether a WAITV has timed out. -/
def waitOver (s : State) (x : Queue) : Bool :=
  x.st == .waiting && (match waitEnd x with | none => false | some t => decide (t ≤ s.link.clock))

/-- The commands that have ended earlier in the cycle complete (R117). -/
def takeFinished (s : State) : State :=
  let now := s.cp.finished.filter (fun f => decide (f.2.2 ≤ s.cyc))
  let s := { s with cp := { s.cp with finished := s.cp.finished.filter (fun f => !decide (f.2.2 ≤ s.cyc)) } }
  now.foldl (fun s f =>
    let x := queueAt s f.1
    if x.st = .active || x.st == .waiting then completeCommand s f.1 f.2.1 else s) s

/-- The completions of a cycle (R117). -/
def completionItems (s : State) : List Item :=
  let qs := s.cp.queues.map (·.1)
  (if s.eager then
      (qs.filter (copyOver s)).map (fun q => Item.row (.copyComplete q))
        ++ (if s.cp.signing.isEmpty then [] else [.row .receiptSigned])
    else [])
    ++ (qs.filter (fun q => waitOver s (queueAt s q))).map (fun q => Item.row (.waitTimeout q))

/-- Pre-emption requests, dispatch, aging (R109 to R111). -/
def dispatchItems (s : State) : List Item :=
  (priorityRequests s).map (fun kid => Item.row (.preemptLatch kid))
    ++ (if s.eager && decide (s.cp.nextDisp ≤ s.cyc) && (nextQueue s).isSome then [.row .dispatch] else [])
    ++ ((enabledQueues s).filter (fun q =>
          (queueAt s q).st == .ready && decide ((queueAt s q).age + agingTime ≤ s.link.elapsed))).map
        (fun q => Item.row (.queueAging q))

/-! ## Polls and phases -/

/-- A poll puts the rows that are now due in front of the agenda. -/
def runPoll (p : Poll) (s : State) : State :=
  match p with
  | .kernels => { s with agenda := s.kernels.flatMap (fun p => kernelRow s p.1 p.2) ++ s.agenda }
  | .points => { s with agenda := pointRows s ++ s.agenda }
  | .reads =>
    let (xs, s) := takeInputs s .reads
    { s with agenda := xs ++ s.agenda }
  | .boundary =>
    match boundaryRow s with
    | some i => { s with agenda := .row i :: .poll .boundary :: s.agenda }
    | none =>
      match firstControl s.link.controls with
      | none => s
      | some f => { s with
          link := { s.link with controls := s.link.controls.erase f }
          agenda := ((controlRowOf f).toList.map Item.row) ++ .poll .boundary :: s.agenda }
  | .outcomes => { s with agenda := killFirst s ++ .poll .ends :: s.agenda }
  | .ends =>
    let s := stopGroups s
    { s with agenda := outcomeRows s ++ s.agenda }
  | .holds =>
    let s := (s.kernels.map (·.1)).foldl (fun s kid => endLimit (settleHolds s kid) kid) s
    { s with agenda := closingRows s ++ s.agenda }
  | .control => if serving s then { s with agenda := controlItems s ++ s.agenda } else s
  | .doors =>
    let (xs, s) := takeInputs s .doors
    let items := xs.filter (fun i => match i with | .input x => !x.isDoorbell | _ => true)
      ++ xs.filter (fun i => match i with | .input x => x.isDoorbell | _ => false)
    { s with agenda := items ++ s.agenda }
  | .completions =>
    let (xs, s) := takeInputs s .completions
    if serving s then
      let s := endHashes (finishColls (takeFinished s))
      { s with agenda := xs ++ completionItems s ++ s.agenda }
    else s
  | .dispatch =>
    let (xs, s) := takeInputs s .dispatch
    if serving s then
      let s := settleQueues (resumeKernels (settleQueues (settleCtxs s)))
      { s with agenda := dispatchItems s ++ xs ++ s.agenda }
    else s

/-- The phase after a phase; the next cycle starts after the last. -/
def Phase.next (p : Phase) : Phase :=
  match p with
  | .start => .engine
  | .engine => .beats
  | .beats => .keystone
  | .keystone => .issue
  | .issue => .land
  | .land => .finish
  | .finish => .command
  | .command => .start

/-- Enters a phase: what happens at its beginning, and its agenda. -/
def enterPhase (p : Phase) (s : State) : State :=
  let s := { s with phase := p }
  match p with
  | .start =>
    let (xs, s) := takeInputs (tick s) .start
    { s with agenda := startRows s ++ xs ++ [.poll .kernels, .poll .points] }
  | .engine =>
    let s := settleFailures s
    { s with agenda := engineRows s }
  | .beats => { s with agenda := beatItems s }
  | .keystone =>
    let s := sendTimes (flushMessages s)
    let s := if serving s then moveHashes (moveCopies s) else s
    { s with agenda := keystoneItems s }
  | .issue => { s with agenda := issueItems s }
  | .land =>
    let s := (groupCores s).foldl (fun s p => s.updCore p (systemWait s)) s
    { s with agenda := (groupCores s).flatMap (landRows s) }
  | .finish =>
    let s := landAll s
    let (rows, s) := takeFound ((s.kernels.map (·.1)).foldl settleGroup s)
    { s with agenda := rows ++ [.poll .outcomes, .poll .holds] }
  | .command => { s with agenda := [.poll .control, .poll .doors, .poll .completions, .poll .dispatch] }

/-- The agenda is empty: the next phase begins. -/
def advance (s : State) : State := enterPhase s.phase.next s

/-- One item of the agenda, with the meaning of a row given. -/
def runItemWith (ex : Instr → State → Out) (it : Item) (s : State) : Out :=
  match it with
  | .row i => ex i s
  | .issue p => runBundleWith ex p s
  | .beats p => .next (runBeats p s)
  | .input x =>
    match x.row? with
    | some i => ex i s
    | none => .next (applyInput s x)
  | .badCommand q => .next (badCommand s q)
  | .badControl => .next (badControl s)
  | .poll p => .next (runPoll p s)

/-! ## Placing one instruction (log entry 12) -/

/-- A kernel of one role on core 0, running in its first timetable cycle. -/
def fetchKernel : Kernel where
  ctx := 0
  slot := 0
  gen := 0
  sctx := 0
  kseq := 0
  queue := none
  st := .running
  record := []
  decl := []
  image := 0
  argVa := 0
  argLen := 0
  argMap := []
  pages := []
  pools := []
  peff := 0
  bind := [0]
  relaunches := 0
  ttc := 0
  ran := 0
  t0 := none
  lastT0 := 0
  resumeTtc := 0
  preq := none
  pskip := 0
  limit := false
  point := 0
  drained := 0
  lastPoint := -1
  userHold := false
  preemptQ := []
  deferred := false
  saved := []
  savedSram := []
  mhead := []
  recSlot := none
  faultWord := 0
  kfault := none
  lossy := false
  closed := (0, [])

/-- Core 0 bound to that kernel, its next bundle at code address 0 of a code section of one fetch line. -/
def fetchCore (kid : Nat) (c : Core) : Core :=
  { c with
    kid := some kid, role := 0, mode := .task, done := false, pc := 0, nextAt := 0, dly := 0, brFrom := none
    callAt := none, loops := [], cur := {}, staged := {}, trapped := false, suppNow := 0, wait := none
    cbase := 0x700000, codeSize := 64, kfault := none, engTrap := none }

/-- A state about to issue, on core 0, the bundle whose bytes are given. -/
def placeBundle (s : State) (bs : List Byte) : State :=
  let kid := s.nextKid
  { s with
    phase := .issue
    agenda := [.issue 0]
    nextKid := kid + 1
    mem := { s.mem with csram := writeBytes s.mem.csram (csramAddr 0 0x700000) bs }
    kernels := tset s.kernels kid fetchKernel
    cores := tset s.cores 0 (fetchCore kid (s.core 0)) }

end Sys2Proof.Machine
end

