-- ==== Sys2Proof/Machine/Step.lean ====
section
/-!
DEFINITION. One step of the module: the next item of the agenda, or the next phase of the package cycle.
-/
namespace Sys2Proof.Machine

/-- One step. An item `issue` runs a core's whole bundle; an item `row` one row of the table. -/
def step (s : State) : Host.Outcome State Fault Refusal :=
  match s.agenda with
  | [] => .next (advance s)
  | it :: rest => runItemWith exec it { s with agenda := rest }

/-- The state with an instruction's bundle placed as the next one to issue: a program comes into the module
only through a launch from outside, for which this stands (log entry 12). -/
def State.withFetchWord (s : State) (nbits w : Nat) : State := placeBundle s (lineOf nbits w)

end Sys2Proof.Machine
end

