-- ==== Sys2Proof/Safety.lean ====
section
/-!
DEFINITION. What counts as a safe step, and the terms that the statements use.
-/
namespace Sys2Proof.Machine

/-- A step that answers a next state: no fault, no refusal. -/
def goesOn (o : Out) : Bool :=
  match o with
  | .next _ => true
  | .fault _ | .refused _ => false

/-! ## Canonical memories -/

/-- Every memory of the package outside the cores is in canonical form. -/
def Mem.wf (m : Mem) : Bool :=
  Memory.wf m.phys && Memory.wf m.csram && Memory.wf m.kmem && Memory.wf m.qmem

/-! ## Slots -/

/-- The slot and guard of a bundle operation; none for an event of the package. -/
def headOf? (i : Instr) : Option Hd :=
  match i with
  | .swrRmode o | .jmpi o | .epiCfg o | .epiPop o | .txbArrive o | .txbArriveRemote o
  | .collStart o | .pbarDurBarrier o => some o.hd
  | .swrBfmt o => some o.hd
  | .movG o => some o.hd
  | .movImm o | .movFimm o | .vmovImm o | .vmovFimm o => some o.hd
  | .add o | .sub o | .and o | .or o | .xor o | .shl o | .shr o | .sra o | .mul o | .mulh o
  | .mulhu o | .div o | .divu o | .rem o | .remu o | .min o | .minu o | .max o | .maxu o
  | .ldIndexed o | .stIndexed o => some o.hd
  | .addImm o | .subImm o | .andImm o | .orImm o | .xorImm o | .shlImm o | .shrImm o
  | .sraImm o | .mulImm o | .ld o | .st o | .vld o | .vst o | .vaddF32Imm o | .vaddI32Imm o
  | .vmulF32Imm o | .vmulI32Imm o => some o.hd
  | .sel o => some o.hd
  | .cmp o => some o.hd
  | .cmpImm o | .cmpImmUnsigned o => some o.hd
  | .pand o | .por o | .pxor o | .pandn o => some o.hd
  | .movToX o => some o.hd
  | .movFromX o => some o.hd
  | .movToM o => some o.hd
  | .movFromM o => some o.hd
  | .movToF o | .movFromF o | .movFromLc o | .calRd o | .collSt o => some o.hd
  | .br o | .call o | .nopn o | .ownGive o | .ownTake o | .trap o => some o.hd
  | .loop o => some o.hd
  | .loopn o => some o.hd
  | .srd o => some o.hd
  | .swr o => some o.hd
  | .ldRaw o | .stRaw o => some o.hd
  | .ldRawIndexed o | .stRawIndexed o => some o.hd
  | .vldIndexed o | .vstIndexed o | .vaddF32 o | .vaddI32 o | .vmulF32 o | .vmulI32 o
  | .vsubF32 o | .vsubI32 o | .vminF32 o | .vminI32 o | .vminN32 o | .vmaxF32 o | .vmaxI32 o
  | .vmaxN32 o | .vand o | .vor o | .vxor o | .vshl o | .vshr o | .vsra o | .vperm o => some o.hd
  | .vmov o => some o.hd
  | .vbcast o | .vabs o | .vneg o => some o.hd
  | .vext o => some o.hd
  | .vfma o => some o.hd
  | .vcmpF32 o | .vcmpI32 o | .vcmpN32 o => some o.hd
  | .vsel o => some o.hd
  | .vredF32 o | .vredI32 o | .vredN32 o => some o.hd
  | .vcvt o => some o.hd
  | .xmovStart o => some o.hd
  | .xmovCollect o => some o.hd
  | .wclaim o | .wrel o | .oclaim o | .orel o => some o.hd
  | .oload o => some o.hd
  | .wload o => some o.hd
  | .mpload o | .calWr o | .txbInit o | .txbExpect o => some o.hd
  | .mcall o => some o.hd
  | .mcallSplit o => some o.hd
  | .mcallSparse o => some o.hd
  | .epiSt o => some o.hd
  | .pmpCp o | .pmpGth o | .pmpSct o | .pmpDec o | .pmpCmp o => some o.hd
  | .ctabLd o => some o.hd
  | .txbWait o => some o.hd
  | .aadd o | .aincw o | .axchg o | .amin o | .amax o | .aand o | .aor o | .axor o => some o.hd
  | .afaddb o => some o.hd
  | .acas o => some o.hd
  | .redAdd o => some o.hd
  | .redComb o => some o.hd
  | .blkAlloc o | .blkXlat o | .blkFree o => some o.hd
  | .blkShare o => some o.hd
  | .fence o => some o.hd
  | .tsync o => some o.hd
  | .crgnOpen o => some o.hd
  | .testRd o => some o.hd
  | .mhead o => some o.hd
  | .nop hd | .ret hd | .pbarDur hd | .crgnClose hd | .eret hd | .done hd => some hd
  | .calibrationComplete _ | .fatalLoss _ | .criticalTemperature _ | .limitSample _
  | .limitHoldEnter _ | .firmwareUpdate _ | .faultLogRead _ | .setFailThresholds _ _
  | .clusterRetest _ | .unitEventCount _ | .queueEnable _ | .queueDisable _ | .queueResume _
  | .queueDoorbell _ _ | .queueAging _ | .copyComplete _ | .waitvEvaluate _ | .waitTimeout _
  | .kernelStart _ | .mailboxWrite _ _ _ _ | .holdRelease _ | .preemptLatch _ | .preemptPoint _
  | .drainComplete _ | .resumeCycle _ | .kernelEnd _ | .kernelFault _ | .relaunch _
  | .timeLimit _ | .laneSubstitution _ | .testSliceStart _ | .testSliceEnd _ | .regionUnwind _
  | .engineStart _ | .engineComplete _ | .resultLand _ | .keystoneReturn _ | .transformResult _
  | .oloadComplete _ | .wloadComplete _ | .mploadWrite _ | .mcallCommit _
  | .clipReexecuteDone _ | .epiPopComplete _ | .ctabLdComplete _ | .outboundSend _
  | .wellSectorAccept _ | .wellSectorDurable _ | .epochDurable _ | .serviceWellWrite _ _
  | .wellReadSectorLand _ | .barrierTimeout _ _ | .portSignalDetect _ | .trainingComplete _ _
  | .trainingFail _ | .trainingRetry _ | .laneFail _ _ | .alignmentLossTimeout _
  | .flitReceive _ _ | .flitReplay _ _ | .ident _ _ | .time _ _ | .data _ _ | .arrive _
  | .store _ | .mbox _ | .ack _ | .abort _ | .notice _ | .ackTimeout _ | .portRetrain _
  | .fetchBundle _ | .controlDoorbell _ | .periodBoundary _ | .serviceCisternWrite _ _
  | .ptpManagementMessage _ | .supplyGood | .firmwareVerified | .preserve | .supplyLoss
  | .stretchApply | .telemetrySample | .dispatch | .receiptSigned | .keystonePerform
  | .holdover | .unsync | .domainApply | .ctxNew | .ctxSet | .ctxKey | .ctxImg | .ctxYield
  | .ctxResume | .ctxSeal | .ctxUnseal | .ctxClear | .ctxKill | .ctxRead | .contextSwitched
  | .launch | .copy | .waitv | .signalStore | .signalAdd | .signalMailbox | .receipt | .coll
  | .preemptSuspend | .preemptRelease | .dataApply | .flagApply | .collEngineStart
  | .collRoundLocalDone => none

/-- The conditions on which a slot has its effect: its guard enables it (R288), SUPP does not suppress it
(R264), and no register it reads, its guard among them, holds an uncorrectable error (R269) or, in the
pending-bit debug mode, a set pending bit (R173). -/
def slotRuns (s : State) (h : Hd) (reads : List RegName) : Prop :=
  enabled s.me h = true ∧ s.me.suppNow.getLsbD h.slot.num = false
    ∧ hasUe s.me (.p h.pred.toNat) = false ∧ firstUe s.me reads = none
    ∧ firstPending s s.me (.p h.pred.toNat :: reads) = none

/-- The state in which the core in progress has put one result of a slot on its way: it lands at the end of
its issue cycle + `lat` − 1, in the order of R172. -/
def staged (s : State) (h : Hd) (lat : Nat) (w : RegWrite) : State := s.setMe (stage s s.me h lat w)

/-- The same once the core has read private memory at some addresses: data that a value of an MCALL with s > 0 has
reached are data still (R89). -/
def loaded (s : State) (h : Hd) (addrs : List Nat) (lat : Nat) (w : RegWrite) : State :=
  s.setMe (stage s (noteRead s.me addrs) h lat w)

/-- The same for the lanes of a floating-point unit in a format, given by rounding mode: the sampled mode's lanes; with
a fault in the unit, one enabled lane of them is wrong, and goes with what the shadow, which rounds toward zero, says
of it in that format (R266, R267). -/
def stagedIn (f : FloatFmt) (bits : Word32 → Nat) (s : State) (h : Hd) (lat d : Nat) (mask : Word64) (w : Nat → Lanes) :
    State :=
  match struck s.me (vectorUnit h) with
  | none => staged s h lat (.v d mask (w s.me.rmode.toNat))
  | some x =>
    let r := shadowedLanesIn f bits (some x) mask (w s.me.rmode.toNat) (w 1)
    s.setMe (stageShadowed s s.me h lat (vectorUnit h) (.v d mask r.1) r.2)

/-- The same for lanes that are F32. -/
def stagedF (s : State) (h : Hd) (lat d : Nat) (mask : Word64) (w : Nat → Lanes) : State :=
  stagedIn fmtF32 (·.toNat) s h lat d mask w

/-- The state in which the core in progress has taken a trap of a slot (R264), or ended its kernel where
R261 says so. -/
def trapped (s : State) (h : Hd) (code : Nat) (info : Word64) : State :=
  s.setMe (takeTrap s s.me ⟨code, info, 0, h.slot.num, false⟩ s.me.cur.addr)

/-- The state in which the core in progress has asked its sequencer for something (R324 to R331). -/
def asked (s : State) (f : Staged → Staged) : State := s.setMe (s.me.ask f)

/-! ## Private memory -/

/-- A span of private memory that passes the range check of R163 and whose touched bytes lie in tiles that
the core owns. -/
def reaches (c : Core) (ea : Word64) (n : Nat) (addrs : List Nat) : Prop :=
  ea.toNat < 2 ^ 20 ∧ ea.toNat % 0x10000 + n ≤ 0x10000 ∧ ∀ a ∈ addrs, engineOwned c (a / 0x1000) = false

/-- No byte of these holds an uncorrectable error (R269). -/
def errorFree (c : Core) (addrs : List Nat) : Prop := ∀ a ∈ addrs, c.ue.contains (1, a / 64) = false

/-- Under a Q code, the bytes of a range lie in whole records of their banks (R54). -/
def inRecords (code a n : Nat) : Prop :=
  isQ code = true → ∀ x, a ≤ x → x < a + n → x % 0x10000 < 0x10000 / qRecord code * qRecord code

/-- No armed barrier has its record in one of these ranges (R203). -/
def unarmedIn (c : Core) (rs : List (Nat × Nat)) : Prop :=
  ∀ b ∈ c.dir, ∀ r ∈ rs, ¬(b < r.1 + r.2 ∧ r.1 < b + 16)

/-- No armed barrier has its record on one of these bytes (R203). -/
def unarmed (c : Core) (addrs : List Nat) : Prop := ∀ b ∈ c.dir, ∀ a ∈ addrs, ¬(b ≤ a ∧ a < b + 16)

/-- The state in which the core in progress has added stores that land at the end of its cycle (R164). -/
def stored (s : State) (cells : List (Nat × Byte)) : State := s.setMe (addStores s.me cells)

/-- The byte that a list of writes leaves at an address: the last one's, else the old one. -/
def lastWrite (cells : List (Nat × Byte)) (old : Byte) (a : Nat) : Byte :=
  match cells.reverse.find? (fun p => p.1 == a) with
  | none => old
  | some p => p.2

/-! ## The command processor -/

/-- The entry of the control ring that is next (R77), which keeps R80: its index, its bytes, its OP and its slot. -/
def controlHead (s : State) (i op ctx : Nat) (e : List Byte) : Prop :=
  controlEntry s = some (i, e) ∧ fieldLE e 0 1 = op ∧ fieldLE e 1 1 = ctx ∧ fieldLE e 3 1 = 0 ∧ (op = 3 ∨ ctx ≤ 63)

/-- The command dispatched last, which has not begun and keeps R103: its queue and its OP. -/
def commandHead (s : State) (op q : Nat) (x : Queue) : Prop :=
  s.cp.cmdQ = q ∧ queueAt s q = x ∧ x.st = .active ∧ x.begun = false ∧ fieldLE x.cmd 0 1 = op
    ∧ badWord x.cmd = false

/-- The state in which a queue's command has begun. -/
def begun (s : State) (q : Nat) : State := updQueue s q (fun x => { x with begun := true })

end Sys2Proof.Machine
end

