-- ==== Sys2Proof/Certificates/Slice0/Obligations.lean ====
section
/-!
DEFINITION. The statements for the provers, from the numbered rules of spec/. `slotRuns` says when a slot has
its effect; `staged` puts one result on its way, `trapped` takes a slot's trap, `asked` asks the sequencer.
-/
section
open Sys2Proof Sys2Proof.Machine

/-! ## Encoding -/

/-- Words written out bit by bit from R281, R284, R286, R287 and the code tables R305 to R312, of every family,
decode to the instructions they stand for. -/
def Obligations.WrittenWordsDecode : Prop :=
  decodeTableWord 56 0x9820A30E000001 = some (.add ⟨⟨.s, true, 3⟩, 5, 6, .reg 7⟩)
  ∧ decodeTableWord 88 0x8000000100DFE080000101 = some (.remu ⟨⟨.s, false, 0⟩, 63, 1, .lit 0x80000001⟩)
  ∧ decodeTableWord 56 0x140830A060801 = some (.cmp ⟨⟨.s, false, 0⟩, 2, 6, .const 0x85, 4⟩)
  ∧ decodeTableWord 56 0x200007FFE0001 = some (.br ⟨⟨.s, false, 0⟩, 0xFFFC0⟩)
  ∧ decodeTableWord 88 0x4000800220048000FF01 = some (.loop ⟨⟨.s, false, 0⟩, 9, 0x00400080, 127⟩)
  ∧ decodeTableWord 56 0x240A000028001 = some (.srd ⟨⟨.s, false, 0⟩, 5, 0x050⟩)
  ∧ decodeTableWord 56 0x1904FFFFC404 = some (.ldRaw ⟨⟨.m, false, 0⟩, 8, 9, 0xFFFF8, 2⟩)
  ∧ decodeTableWord 56 0x628AAC003004 = some (.vstIndexed ⟨⟨.m, false, 0⟩, 20, 21, .reg 22, 3⟩)
  ∧ decodeTableWord 56 0x1302106205408 = some (.vfma ⟨⟨.v0, false, 0⟩, 1, 2, .reg 3, 4, false, true, 5⟩)
  ∧ decodeTableWord 56 0x300028C280A10 = some (.xmovStart ⟨⟨.v1, false, 0⟩, 5, 6, 5, 5, 0⟩)
  ∧ decodeTableWord 56 0x700152A002C20 = some (.mcallSplit ⟨⟨.x, false, 0⟩, 0xA95, 6, 2⟩)
  ∧ decodeTableWord 56 0x20008418B840 = some (.pmpDec ⟨⟨.e, false, 0⟩, 1, 2, 3, 12, true, 2⟩)
  ∧ decodeTableWord 56 0x110210621B840 = some (.afaddb ⟨⟨.e, false, 0⟩, 1, 2, 3, 4, 4, 3, 3⟩)
  ∧ decodeTableWord 56 0x7000880000240 = some (.pbarDurBarrier ⟨⟨.e, false, 0⟩, 17⟩)
  ∧ decodeTableWord 56 0x80000006080 = some (.fence ⟨⟨.y, false, 0⟩, 6⟩)

/-- R281 to R287, R302 to R312: the bytes the encoder writes for a well-formed bundle operation decode to that
operation, with every operand at every value its encoding admits; and every bundle operation has such bytes. -/
def Obligations.EncodedBundlesDecode : Prop :=
  ∀ i : Instr, i.wf = true →
    (∀ bs, encode i = some bs → decodeAlone bs = some i)
    ∧ ((headOf? i).isSome = true → (encode i).isSome = true)

/-- R284: opcode 0x00 is NOP in every slot whatever the other fields hold; R302: an opcode without a row is
unassigned below 0xE0 and EMULATE from 0xE0 up. -/
def Obligations.OpcodesWithoutRow : Prop :=
  ∀ (sl : Slot) (w : BitVec 48) (lit : Word32),
    ((unpackFields w).op = 0 →
      decodeSyllable sl w lit = .instr (.nop ⟨sl, (unpackFields w).neg, (unpackFields w).pred⟩))
    ∧ ((unpackFields w).op ≠ 0 → findRow sl (unpackFields w).op = none → (unpackFields w).op.toNat < 0xE0 →
      decodeSyllable sl w lit = .unassigned)
    ∧ ((unpackFields w).op ≠ 0 → findRow sl (unpackFields w).op = none → 0xE0 ≤ (unpackFields w).op.toNat →
      decodeSyllable sl w lit = .emulate)

/-! ## Every slot -/

/-- R264: a slot that SUPP suppresses has no effect; R288: no more has one whose guard disables it. R288, R269: the
guard is read whatever its value, but by NOP; where its word holds an uncorrectable error, UE ends the kernel outside every
region, and inside one the error is noted and the slot has no effect. R288: a guard of register p0 enables its slot
and its negation disables it, whatever p0 was last given. -/
def Obligations.SlotGuards : Prop :=
  (∀ (i : Instr) (h : Hd) (s : State), headOf? i = some h →
     (s.me.suppNow.getLsbD h.slot.num = true → exec i s = .next s)
     ∧ (enabled s.me h = false → hasUe s.me (.p h.pred.toNat) = false → exec i s = .next s)
     ∧ (i ≠ .nop h → enabled s.me h = false → s.me.suppNow.getLsbD h.slot.num = false →
       hasUe s.me (.p h.pred.toNat) = true →
       (s.me.regions = [] → exec i s = .next (trapped s h 0x60 (RegName.p h.pred.toNat).ueWord))
       ∧ (s.me.regions ≠ [] → ∃ t, exec i s = .next t ∧ t = s.setMe t.me ∧ t.me.inflight = s.me.inflight
         ∧ t.me.kfault = s.me.kfault ∧ t.me.ueHit.isSome = true)))
  ∧
  (∀ (c : Core) (sl : Slot), enabled c ⟨sl, false, 0⟩ = true ∧ enabled c ⟨sl, true, 0⟩ = false
     ∧ enabled c ⟨sl, false, 1⟩ = false ∧ enabled c ⟨sl, true, 1⟩ = true)

/-- A bundle operation always answers a next state, and changes no more than the core whose bundle is in progress:
no other core, no kernel, no memory of the package, no queue, no context, no link. Results land later: issuing a
bundle operation leaves every register file, the constant bank, private memory, the transform results, the bank
formats and the rounding mode of its core as they are; so does a trap that it takes. -/
def Obligations.SlotsTouchTheirOwnCore : Prop :=
  (∀ (i : Instr) (h : Hd) (s : State), headOf? i = some h →
     ∃ t, exec i s = .next t ∧ (t = s ∨ t = s.setMe t.me))
  ∧
  (∀ (i : Instr) (h : Hd) (s t : State), headOf? i = some h → exec i s = .next t →
     t.me.g = s.me.g ∧ t.me.p = s.me.p ∧ t.me.v = s.me.v ∧ t.me.m = s.me.m ∧ t.me.x = s.me.x
       ∧ t.me.f = s.me.f ∧ t.me.c = s.me.c ∧ t.me.priv = s.me.priv ∧ t.me.xres = s.me.xres
       ∧ t.me.bfmt = s.me.bfmt ∧ t.me.rmode = s.me.rmode ∧ t.me.shsel = s.me.shsel
       ∧ t.me.mbox = s.me.mbox ∧ t.me.tvb = s.me.tvb)

/-! ## Scalar instructions (17) -/

/-- R316, latency of R314: ADD to SRA and the four selections, on register, constant and literal operands. R287,
R316: the imm20 twins, the immediate sign-extended to 64 bits. R316: the low and the high halves of the 128-bit
products, at latency 3. -/
def Obligations.ScalarArithmetic : Prop :=
  (∀ (s : State) (o : G3), slotRuns s o.hd (.g o.a.toNat :: opbReads o.b) →
     let a := gAt s.me o.a
     let b := opbWord s.me o.b
     let put := fun w => Host.Outcome.next (φ := Fault) (ρ := Refusal) (staged s o.hd 1 (.g o.d.toNat w))
     exec (.add o) s = put (a + b) ∧ exec (.sub o) s = put (a - b)
     ∧ exec (.and o) s = put (a &&& b) ∧ exec (.or o) s = put (a ||| b) ∧ exec (.xor o) s = put (a ^^^ b)
     ∧ exec (.shl o) s = put (a <<< (b.toNat % 64)) ∧ exec (.shr o) s = put (a >>> (b.toNat % 64))
     ∧ exec (.sra o) s = put (a.sshiftRight (b.toNat % 64))
     ∧ exec (.min o) s = put (if a.toInt ≤ b.toInt then a else b)
     ∧ exec (.max o) s = put (if a.toInt ≤ b.toInt then b else a)
     ∧ exec (.minu o) s = put (if a.toNat ≤ b.toNat then a else b)
     ∧ exec (.maxu o) s = put (if a.toNat ≤ b.toNat then b else a))
  ∧
  (∀ (s : State) (o : GI), slotRuns s o.hd [.g o.a.toNat] →
     let a := gAt s.me o.a
     let b := o.imm.signExtend 64
     let put := fun lat w => Host.Outcome.next (φ := Fault) (ρ := Refusal) (staged s o.hd lat (.g o.d.toNat w))
     exec (.addImm o) s = put 1 (a + b) ∧ exec (.subImm o) s = put 1 (a - b)
     ∧ exec (.andImm o) s = put 1 (a &&& b) ∧ exec (.orImm o) s = put 1 (a ||| b)
     ∧ exec (.xorImm o) s = put 1 (a ^^^ b)
     ∧ exec (.shlImm o) s = put 1 (a <<< (b.toNat % 64)) ∧ exec (.shrImm o) s = put 1 (a >>> (b.toNat % 64))
     ∧ exec (.sraImm o) s = put 1 (a.sshiftRight (b.toNat % 64)) ∧ exec (.mulImm o) s = put 3 (a * b))
  ∧
  (∀ (s : State) (o : G3), slotRuns s o.hd (.g o.a.toNat :: opbReads o.b) →
     let a := gAt s.me o.a
     let b := opbWord s.me o.b
     let put := fun w => Host.Outcome.next (φ := Fault) (ρ := Refusal) (staged s o.hd 3 (.g o.d.toNat w))
     exec (.mul o) s = put ((a.setWidth 128 * b.setWidth 128).extractLsb' 0 64)
     ∧ exec (.mulh o) s = put ((a.signExtend 128 * b.signExtend 128).extractLsb' 64 64)
     ∧ exec (.mulhu o) s = put ((a.setWidth 128 * b.setWidth 128).extractLsb' 64 64))

/-- R317: quotients toward zero and remainders, their corners included; none traps. -/
def Obligations.DivisionAndRemainder : Prop :=
  ∀ (s : State) (o : G3), slotRuns s o.hd (.g o.a.toNat :: opbReads o.b) →
    let a := gAt s.me o.a
    let b := opbWord s.me o.b
    let put := fun w => Host.Outcome.next (φ := Fault) (ρ := Refusal) (staged s o.hd 24 (.g o.d.toNat w))
    exec (.div o) s = put (if b = 0 then -1 else if a.toInt = -2 ^ 63 ∧ b.toInt = -1 then a else a.sdiv b)
    ∧ exec (.rem o) s = put (if b = 0 then a else if a.toInt = -2 ^ 63 ∧ b.toInt = -1 then 0 else a.srem b)
    ∧ exec (.divu o) s = put (if b = 0 then -1 else a / b)
    ∧ exec (.remu o) s = put (if b = 0 then a else a % b)
    ∧ (∃ r, exec (.rem o) s = put r ∧ (r.toInt ≠ 0 → (r.toInt < 0 ↔ a.toInt < 0)))

/-- R315, R318: moves and SEL. -/
def Obligations.MovesAndSelection : Prop :=
  (∀ (s : State) (o : G2), slotRuns s o.hd (opbReads o.b) →
    exec (.movG o) s = .next (staged s o.hd 1 (.g o.d.toNat (opbWord s.me o.b))))
  ∧ (∀ (s : State) (o : GM), slotRuns s o.hd [] →
    exec (.movImm o) s = .next (staged s o.hd 1 (.g o.d.toNat (o.imm.signExtend 64)))
    ∧ exec (.movFimm o) s = .next (staged s o.hd 1 (.g o.d.toNat (0#32 ++ o.imm ++ 0#12))))
  ∧ (∀ (s : State) (o : SelOps), slotRuns s o.hd (.g o.a.toNat :: .p o.c.toNat :: opbReads o.b) →
    exec (.sel o) s = .next (staged s o.hd 1 (.g o.d.toNat
      (if pRead s.me o.c.toNat then gAt s.me o.a else opbWord s.me o.b))))

/-- R321: moves between register files, of slot A alone; slot S has no such opcodes, and a loop-stack level of 6 or
above raises subcode 1. -/
def Obligations.MovesBetweenFiles : Prop :=
  (∀ (s : State) (o : MovX), slotRuns s o.hd [.g o.a.toNat] →
    exec (.movToX o) s = .next (staged s o.hd 1 (.x o.d.toNat (gAt s.me o.a))))
  ∧ (∀ (s : State) (o : MovGX), slotRuns s o.hd [.x o.a.toNat] →
    exec (.movFromX o) s = .next (staged s o.hd 1 (.g o.d.toNat (xRead s.me o.a.toNat))))
  ∧ (∀ (s : State) (o : MovM), slotRuns s o.hd [.g o.a.toNat] →
    exec (.movToM o) s = .next (staged s o.hd 1 (.m o.d.toNat 0xFFFFFFFFFFFFFFFF (gAt s.me o.a))))
  ∧ (∀ (s : State) (o : MovGM), slotRuns s o.hd [.m o.a.toNat] →
    exec (.movFromM o) s = .next (staged s o.hd 1 (.g o.d.toNat (mRead s.me o.a.toNat))))
  ∧ (∀ (s : State) (o : RR), slotRuns s o.hd [.g o.a.toNat] →
    exec (.movToF o) s = .next (staged s o.hd 1 (.f o.d.toNat ((gAt s.me o.a).setWidth 32))))
  ∧ (∀ (s : State) (o : RR), slotRuns s o.hd [.f o.a.toNat] →
    exec (.movFromF o) s = .next (staged s o.hd 1 (.g o.d.toNat ((fRead s.me o.a.toNat).setWidth 64))))
  ∧ (∀ (s : State) (o : RR), slotRuns s o.hd [] →
    exec (.movFromLc o) s = .next (staged s o.hd 1 (.g o.d.toNat
      (match s.me.loops.reverse[o.a.toNat]? with
        | none => 0xFFFFFFFFFFFFFFFF
        | some l => BitVec.ofNat 64 l.j))))
  ∧ (∀ (c : Core) (mask w : Word64), mRead c 0 = 0xFFFFFFFFFFFFFFFF
    ∧ ∀ q, mRead (applyWrite c (.m 0 mask w)) q = mRead c q)
  ∧ (∀ (x : MovX) (y : MovGX) (z : MovM) (t : MovGM) (o : RR),
    encodeSyllable (.movToX x) = some (encR x.hd 0x30 (widen x.d) x.a 0 0 0)
    ∧ encodeSyllable (.movFromX y) = some (encR y.hd 0x31 y.d (widen y.a) 0 0 0)
    ∧ encodeSyllable (.movToM z) = some (encR z.hd 0x32 (widen z.d) z.a 0 0 0)
    ∧ encodeSyllable (.movFromM t) = some (encR t.hd 0x33 t.d (widen t.a) 0 0 0)
    ∧ encodeSyllable (.movToF o) = some (encR o.hd 0x34 o.d o.a 0 0 0)
    ∧ encodeSyllable (.movFromF o) = some (encR o.hd 0x35 o.d o.a 0 0 0)
    ∧ encodeSyllable (.movFromLc o) = some (encR o.hd 0x36 o.d o.a 0 0 0))
  ∧ (∀ (w : BitVec 48) (lit : Word32), 0x30 ≤ (unpackFields w).op.toNat → (unpackFields w).op.toNat ≤ 0x36 →
    decodeSyllable .s w lit = .unassigned)
  ∧ (∀ (w : BitVec 48) (lit : Word32), (unpackFields w).op = 0x36 → 6 ≤ (unpackFields w).a.toNat →
    decodeSyllable .a w lit = .fieldFault 1)

/-- R320: predicate logic writes a pair; p0 reads as 1 and p1 as 0. -/
def Obligations.PredicateLogic : Prop :=
  (∀ (s : State) (o : P3), slotRuns s o.hd [.p o.a.toNat, .p o.b.toNat] →
    let a := pRead s.me o.a.toNat
    let b := pRead s.me o.b.toNat
    let put := fun t => Host.Outcome.next (φ := Fault) (ρ := Refusal)
      (s.setMe (stage s (stage s s.me o.hd 1 (.p (2 * o.d.toNat) t)) o.hd 1 (.p (2 * o.d.toNat + 1) (!t))))
    exec (.pand o) s = put (a && b) ∧ exec (.por o) s = put (a || b)
    ∧ exec (.pxor o) s = put (a ^^ b) ∧ exec (.pandn o) s = put (a && !b))
  ∧ (∀ c : Core, pRead c 0 = true ∧ pRead c 1 = false)
  ∧ (∀ o : P3, encodeSyllable (.pand o) = some (encP3 0x2C o) ∧ encodeSyllable (.por o) = some (encP3 0x2D o)
    ∧ encodeSyllable (.pxor o) = some (encP3 0x2E o) ∧ encodeSyllable (.pandn o) = some (encP3 0x2F o))

/-- R304, R319: compares write a pair; lt and ge compare as S64, ltu and geu as N64, and the immediate is sign-
extended for these too. -/
def Obligations.Compares : Prop :=
  let put := fun (s : State) (h : Hd) (d : BitVec 3) (t : Bool) => Host.Outcome.next (φ := Fault) (ρ := Refusal)
      (s.setMe (stage s (stage s s.me h 1 (.p (2 * d.toNat) t)) h 1 (.p (2 * d.toNat + 1) (!t))))
  let test := fun (code : Nat) (a b : Word64) =>
    if code = 0 then decide (a = b) else if code = 1 then decide (a ≠ b)
    else if code = 2 then decide (a.toInt < b.toInt) else if code = 3 then decide (b.toInt ≤ a.toInt)
    else if code = 4 then decide (a.toNat < b.toNat) else decide (b.toNat ≤ a.toNat)
  (∀ (s : State) (o : PC), slotRuns s o.hd (.g o.a.toNat :: opbReads o.b) →
    exec (.cmp o) s = put s o.hd o.d (test o.cc.toNat (gAt s.me o.a) (opbWord s.me o.b)))
  ∧ (∀ (s : State) (o : PCI), slotRuns s o.hd [.g o.a.toNat] →
    exec (.cmpImm o) s = put s o.hd o.d (test o.cc.toNat (gAt s.me o.a) (o.imm.signExtend 64))
    ∧ exec (.cmpImmUnsigned o) s = put s o.hd o.d (test (o.cc.toNat + 4) (gAt s.me o.a) (o.imm.signExtend 64)))

/-! ## Control (17) -/

/-- R324, R325: a taken branch gives the sequencer its target; BR and CALL add a sign-extended byte offset to the
bundle address, RET reads g63 at issue and JMPI its register. R323: NOPN gives its count. R326: in a delay
bundle an enabled branch raises DELAY_BRANCH with reason 1. What the sequencer does with what a bundle has asked when
it commits: the cycle of the next bundle, after NOPN, a zero trip (R328) or TSYNC (R427); after a taken branch two
delay bundles and then the target, and the link of CALL with the second of them; DONE, ERET and the regions are noted;
no register, no memory and no other core changes. R326: reason 2 for a taken branch, or a delay bundle, that ends the
innermost loop body. -/
def Obligations.ControlTransfers : Prop :=
  ((∀ (s : State) (phys : Nat),
    let c := s.core phys
    let q := c.staged
    let d := (commitBundle s phys).core phys
    let at_ := if c.mode = .task then s.ttcOf c else s.cyc
    let ready := if q.zeroTrip.isSome then at_ + 3 else at_ + q.nopn
    let start := match q.tsync with | none => ready | some t => max ready t.toNat
    let next := bundleAt s phys (match q.zeroTrip with | none => c.cur.next | some stop => stop)
    commitBundle s phys = s.setCore phys d
    ∧ (c.mode = .task → d.nextAt = start ∧ d.hNextAt = c.hNextAt)
    ∧ (c.mode ≠ .task → d.nextAt = c.nextAt ∧ d.hNextAt = if q.tsync.isSome then none else some start)
    ∧ (c.dly = 2 → d.pc = next ∧ d.dly = 1 ∧ d.br = c.br ∧ d.inflight = c.inflight)
    ∧ (c.dly = 1 → d.pc = c.br ∧ d.dly = 0 ∧ d.callAt = none
      ∧ (c.callAt = none → d.inflight = c.inflight)
      ∧ ∀ a, c.callAt = some a → d.inflight = c.inflight ++ [{
          write := .g 63 (BitVec.ofNat 64 c.cur.next), due := dueAt s c 1, rank := 1, issue := a, slot := 0, long := false }])
    ∧ (∀ t, c.dly = 0 → q.branch = some t → d.pc = next ∧ d.dly = 2 ∧ d.br = t.toNat ∧ d.inflight = c.inflight
      ∧ d.callAt = (if q.call then some at_ else none) ∧ d.brFrom = if q.leave then some c.cur.addr else none)
    ∧ d.done = (c.done || q.done) ∧ d.eretWait = (c.eretWait || (q.eret && c.mode == .handler))
    ∧ d.stubEnd = (c.stubEnd || (q.eret && c.mode == .stub)) ∧ d.staged.opened = q.opened ∧ d.staged.closed = q.closed
    ∧ d.suppNow = 0 ∧ d.mode = c.mode ∧ d.regions = c.regions ∧ d.g = c.g ∧ d.p = c.p ∧ d.v = c.v ∧ d.m = c.m
    ∧ d.x = c.x ∧ d.f = c.f ∧ d.c = c.c ∧ d.priv = c.priv ∧ d.trap = c.trap)
  ∧ (∀ (s : State) (phys : Nat) (l : LoopLevel) (ls : List LoopLevel),
    let c := s.core phys
    c.staged.push = none → c.loops = l :: ls → c.staged.branch.isSome = true ∨ 0 < c.dly → l.start ≤ c.cur.addr →
    c.cur.addr < l.stop → bundleAt s phys (c.staged.zeroTrip.getD c.cur.next) = l.stop →
    sequencerTrap s phys = some ⟨0x05, 2, 0, 0, false⟩))
  ∧ (∀ (s : State) (o : ImmOps), slotRuns s o.hd [] → s.me.dly = 0 →
    exec (.br o) s = .next (asked s (fun q => { q with
      branch := some (BitVec.ofNat 64 s.me.cur.addr + o.imm.signExtend 64), call := false, leave := true }))
    ∧ exec (.call o) s = .next (asked s (fun q => { q with
      branch := some (BitVec.ofNat 64 s.me.cur.addr + o.imm.signExtend 64), call := true, leave := false })))
  ∧ (∀ (s : State) (h : Hd), slotRuns s h [.g 63] → s.me.dly = 0 →
    exec (.ret h) s = .next (asked s (fun q => { q with branch := some (gRead s.me 63), call := false, leave := true })))
  ∧ (∀ (s : State) (o : RA), slotRuns s o.hd [.g o.a.toNat] → s.me.dly = 0 →
    exec (.jmpi o) s = .next (asked s (fun q => { q with branch := some (gAt s.me o.a), call := false, leave := true })))
  ∧ (∀ (s : State) (o : ImmOps), slotRuns s o.hd [] →
    exec (.nopn o) s = .next (asked s (fun q => { q with nopn := o.imm.toNat })))
  ∧ (∀ (s : State) (o : ImmOps), slotRuns s o.hd [] → 0 < s.me.dly →
    exec (.br o) s = .next (trapped s o.hd 0x05 1) ∧ exec (.call o) s = .next (trapped s o.hd 0x05 1))
  ∧ (∀ (s : State) (o : RA), slotRuns s o.hd [.g o.a.toNat] → 0 < s.me.dly →
    exec (.jmpi o) s = .next (trapped s o.hd 0x05 1))
  ∧ (∀ (s : State) (h : Hd), slotRuns s h [.g 63] → 0 < s.me.dly → exec (.ret h) s = .next (trapped s h 0x05 1))

/-- R328, R329: LOOP and LOOPN check trip count, literal word, nesting and loop-stack room in that order, then push
a level, or note a zero trip; LOOP writes the stage predicates of pass 0 too; R326: in a delay bundle either raises
DELAY_BRANCH. R330: a bundle that ends the body of a level begins the level's next pass, its stage predicates written, or
ends the loop and tests the level outside it. R332: a pass of LOOP that does not take II cycles raises subcode 4. R331:
when the target of a branch issues, the innermost levels that the branch has left are popped. -/
def Obligations.LoopsPushALevel : Prop :=
  ((∀ (s : State) (phys : Nat),
    let c := s.core phys
    let q := c.staged
    let d := (commitBundle s phys).core phys
    let start := nextStamp (if c.mode = .task then s.ttcOf c else s.cyc) q
    let next := bundleAt s phys (match q.zeroTrip with | none => c.cur.next | some stop => stop)
    let levels := match q.push with | none => c.loops | some l => { l with passStart := start } :: c.loops
    (c.dly = 1 ∨ c.dly = 2 ∨ q.branch.isSome = true → d.loops = levels)
    ∧ (c.dly = 0 → q.branch = none →
      d.loops = (endTest c.cur.addr next start levels).1
      ∧ ((endTest c.cur.addr next start levels).2 = none → d.pc = next ∧ d.inflight = c.inflight)
      ∧ ∀ l, (endTest c.cur.addr next start levels).2 = some l → d.pc = l.start
        ∧ (l.modulo = false → d.inflight = c.inflight)
        ∧ (l.modulo = true → d.inflight = c.inflight ++ (List.range l.stages).map (fun k => {
            write := .p (8 + k) (decide (k ≤ l.j ∧ l.j - k < l.n)), rank := 2, slot := 0, long := false,
            due := (if c.mode = .task then .ttc (start - 1) else .cyc (start - 1)),
            issue := if c.mode = .task then s.ttcOf c else s.cyc : Landing }))))
  ∧ (∀ (addr next start : Nat) (l : LoopLevel) (ls : List LoopLevel),
    let passes := if l.modulo then l.n + l.stages - 1 else l.n
    let ends := l.start ≤ addr ∧ addr < l.stop ∧ next = l.stop
    let again := { l with j := l.j + 1, passStart := start }
    endTest addr next start [] = ([], none)
    ∧ (¬ends → endTest addr next start (l :: ls) = (l :: ls, none))
    ∧ (ends → l.j + 1 < passes → endTest addr next start (l :: ls) = (again :: ls, some again))
    ∧ (ends → passes ≤ l.j + 1 → endTest addr next start (l :: ls) = endTest addr next start ls))
  ∧ (∀ (s : State) (phys : Nat) (l : LoopLevel) (ls : List LoopLevel),
    let c := s.core phys
    c.staged.push = none → c.staged.branch = none → c.dly = 0 → c.loops = l :: ls → l.modulo = true →
    l.start ≤ c.cur.addr → c.cur.addr < l.stop → bundleAt s phys (c.staged.zeroTrip.getD c.cur.next) = l.stop →
    nextStamp (if c.mode = .task then s.ttcOf c else s.cyc) c.staged - l.passStart ≠ l.ii →
    sequencerTrap s phys = some ⟨0x03, 0x94, 0, 0, false⟩)
  ∧ (∀ c : Core,
    (∀ a, c.dly = 0 → c.brFrom = some a → leaveBodies c = { c with
      brFrom := none
      loops := c.loops.dropWhile (fun l => decide ((l.start ≤ a ∧ a < l.stop) ∧ ¬(l.start ≤ c.pc ∧ c.pc < l.stop))) })
    ∧ (0 < c.dly ∨ c.brFrom = none → leaveBodies c = c)))
  ∧
  ((∀ (s : State) (o : LoopnOps), slotRuns s o.hd [.g o.a.toNat] → 0 < s.me.dly →
    (gAt s.me o.a).toNat < 2 ^ 32 → o.lit.toNat < 2 ^ 20 → s.me.cur.next < o.lit.toNat →
    gAt s.me o.a = 0 ∨ s.me.loops.length < 6 → exec (.loopn o) s = .next (trapped s o.hd 0x05 1))
  ∧ (∀ (s : State) (o : LoopOps), slotRuns s o.hd [.g o.a.toNat] → 0 < s.me.dly →
    (gAt s.me o.a).toNat < 2 ^ 32 → o.lit.toNat < 2 ^ 23 → s.me.cur.next < o.lit.toNat % 2 ^ 20 →
    s.me.loops.any (·.modulo) = false → gAt s.me o.a = 0 ∨ s.me.loops.length < 6 →
    exec (.loop o) s = .next (trapped s o.hd 0x05 1)))
  ∧
  (∀ (s : State) (o : LoopnOps), slotRuns s o.hd [.g o.a.toNat] → s.me.dly = 0 →
    (gAt s.me o.a).toNat < 2 ^ 32 → o.lit.toNat < 2 ^ 20 → s.me.cur.next < o.lit.toNat →
    (gAt s.me o.a = 0 → exec (.loopn o) s = .next (asked s (fun q => { q with zeroTrip := some o.lit.toNat })))
    ∧ (gAt s.me o.a ≠ 0 → s.me.loops.length < 6 →
      exec (.loopn o) s = .next (asked s (fun q => { q with
        push := some (newLevel s s.me false o.lit.toNat (gAt s.me o.a).toNat 0 0) })))
    ∧ (gAt s.me o.a ≠ 0 → 6 ≤ s.me.loops.length → exec (.loopn o) s = .next (trapped s o.hd 0x03 0x92)))
  ∧ (∀ (s : State) (o : LoopnOps), slotRuns s o.hd [.g o.a.toNat] →
    (2 ^ 32 ≤ (gAt s.me o.a).toNat → exec (.loopn o) s = .next (trapped s o.hd 0x03 0x91))
    ∧ ((gAt s.me o.a).toNat < 2 ^ 32 → (2 ^ 20 ≤ o.lit.toNat ∨ o.lit.toNat ≤ s.me.cur.next) →
      exec (.loopn o) s = .next (trapped s o.hd 0x03 0x93)))
  ∧ (∀ (s : State) (o : LoopOps), slotRuns s o.hd [.g o.a.toNat] →
    (2 ^ 32 ≤ (gAt s.me o.a).toNat → exec (.loop o) s = .next (trapped s o.hd 0x03 0x91))
    ∧ ((gAt s.me o.a).toNat < 2 ^ 32 → (2 ^ 23 ≤ o.lit.toNat ∨ o.lit.toNat % 2 ^ 20 ≤ s.me.cur.next) →
      exec (.loop o) s = .next (trapped s o.hd 0x03 0x93))
    ∧ ((gAt s.me o.a).toNat < 2 ^ 32 → o.lit.toNat < 2 ^ 23 → s.me.cur.next < o.lit.toNat % 2 ^ 20 →
      (s.me.loops.any (·.modulo) = true → exec (.loop o) s = .next (trapped s o.hd 0x03 0x95))
      ∧ (s.me.loops.any (·.modulo) = false → gAt s.me o.a ≠ 0 → 6 ≤ s.me.loops.length →
        exec (.loop o) s = .next (trapped s o.hd 0x03 0x92))))
  ∧ (∀ (s : State) (o : LoopOps), slotRuns s o.hd [.g o.a.toNat] → s.me.dly = 0 →
    (gAt s.me o.a).toNat < 2 ^ 32 → o.lit.toNat < 2 ^ 23 → s.me.cur.next < o.lit.toNat % 2 ^ 20 →
    s.me.loops.any (·.modulo) = false →
    (gAt s.me o.a = 0 →
      exec (.loop o) s = .next (asked s (fun q => { q with zeroTrip := some (o.lit.toNat % 2 ^ 20) })))
    ∧ (gAt s.me o.a ≠ 0 → s.me.loops.length < 6 →
      ∃ t, exec (.loop o) s = .next t
        ∧ t.me.staged.push = some (newLevel s s.me true (o.lit.toNat % 2 ^ 20) (gAt s.me o.a).toNat
          o.ii.toNat (o.lit.toNat / 2 ^ 20 + 1))
        ∧ t.me.inflight = s.me.inflight ++ (List.range (o.lit.toNat / 2 ^ 20 + 1)).map (fun k =>
          { write := .p (8 + k) (k == 0), due := dueAt s s.me 1, rank := 1, issue := issueStamp s s.me,
            slot := o.hd.slot.num, long := false })))

/-! ## Special registers (17, 26) -/

/-- R322, R434: SRD of an assigned number that the mode may read gives the value of the issue cycle; an unassigned
number raises subcode 0x81 and a system-only one PRIVILEGE in task mode. The values of R434 that are fields of
the core are those fields. R322, R434: SWR lands at the end of its issue cycle, and a field without write access
keeps its value; R49, R55: a reserved bank code or rounding mode traps and changes no register; sr.epicfg is
written by EPI.CFG alone (R436). -/
def Obligations.SpecialRegisters : Prop :=
  ((∀ (s : State) (o : SrdOps), slotRuns s o.hd [] →
     ((o.num.toNat ≤ 0x15 ∨ (0x20 ≤ o.num.toNat ∧ o.num.toNat ≤ 0x37)
         ∨ (0x100 ≤ o.num.toNat ∧ o.num.toNat ≤ 0x109 ∧ s.me.mode ≠ .task)) →
       exec (.srd o) s = .next (s.setMe
         (stage s (noteLossy s.me (s.me.lossyClip && (o.num.toNat == 0x014 || o.num.toNat == 0x015))) o.hd 1
           (.g o.d.toNat (srValue s s.me o.num.toNat)))))
     ∧ (¬(o.num.toNat ≤ 0x15 ∨ (0x20 ≤ o.num.toNat ∧ o.num.toNat ≤ 0x37)
         ∨ (0x100 ≤ o.num.toNat ∧ o.num.toNat ≤ 0x109)) →
       exec (.srd o) s = .next (trapped s o.hd 0x03 (BitVec.ofNat 64 (o.num.toNat * 0x100 + 0x81))))
     ∧ (0x100 ≤ o.num.toNat ∧ o.num.toNat ≤ 0x109 ∧ s.me.mode = .task →
       exec (.srd o) s = .next (trapped s o.hd 0x04 (BitVec.ofNat 64 o.num.toNat))))
   ∧ (∀ (s : State) (c : Core), srValue s c 0x000 = BitVec.ofNat 64 (s.ttcOf c)
     ∧ srValue s c 0x001 = BitVec.ofNat 64 s.cyc ∧ srValue s c 0x00A = c.shsel.setWidth 64
     ∧ srValue s c 0x00D = c.rmode.setWidth 64 ∧ srValue s c 0x00F = c.epicfg.setWidth 64
     ∧ srValue s c 0x014 = c.mclip0 ∧ srValue s c 0x015 = c.mclip1
     ∧ srValue s c 0x101 = c.trap.info ∧ srValue s c 0x102 = c.trap.iter ∧ srValue s c 0x103 = c.trap.pc
     ∧ srValue s c 0x104 = c.trap.br
     ∧ (c.mode = .handler → srValue s c 0x105 = c.trap.dly.setWidth 64)
     ∧ (c.mode ≠ .handler → srValue s c 0x105 = BitVec.ofNat 64 c.dly)
     ∧ srValue s c 0x106 = c.tvb ∧ srValue s c 0x107 = c.trap.lit.setWidth 64
     ∧ (∀ n, n < 16 → srValue s c (0x020 + n) = (c.bfmt.extractLsb' (4 * n) 4).setWidth 64)
     ∧ ∀ n, n < 8 → srValue s c (0x030 + n) = tget 0 c.mbox n))
  ∧
  ((∀ (s : State) (o : SwrOps), slotRuns s o.hd [.g o.a.toNat] → o.num ≠ 0x00F →
     ((o.num.toNat ≤ 0x15 ∨ (0x20 ≤ o.num.toNat ∧ o.num.toNat ≤ 0x37)
         ∨ (0x100 ≤ o.num.toNat ∧ o.num.toNat ≤ 0x109 ∧ s.me.mode ≠ .task)) →
       exec (.swr o) s = .next (staged s o.hd 1 (.sr o.num.toNat (gAt s.me o.a))))
     ∧ (¬(o.num.toNat ≤ 0x15 ∨ (0x20 ≤ o.num.toNat ∧ o.num.toNat ≤ 0x37)
         ∨ (0x100 ≤ o.num.toNat ∧ o.num.toNat ≤ 0x109)) →
       exec (.swr o) s = .next (trapped s o.hd 0x03 (BitVec.ofNat 64 (o.num.toNat * 0x100 + 0x81))))
     ∧ (0x100 ≤ o.num.toNat ∧ o.num.toNat ≤ 0x109 ∧ s.me.mode = .task →
       exec (.swr o) s = .next (trapped s o.hd 0x04 (BitVec.ofNat 64 o.num.toNat))))
   ∧ (∀ (s : State) (o : SwrOps), slotRuns s o.hd [.g o.a.toNat] → o.num = 0x00F →
     exec (.swr o) s = .next (s.setMe s.me))
   ∧ (∀ (s : State) (o : RA) (k : Kernel), slotRuns s o.hd [.g o.a.toNat] → s.kernelOf s.me = some k →
     let mode := (gAt s.me o.a).toNat % 8
     (mode < 4 ∨ (mode = 4 ∧ ctxConfig s k.ctx % 2 = 1) →
       exec (.swrRmode o) s = .next (staged s o.hd 1 (.sr 0x00D (gAt s.me o.a))))
     ∧ (¬(mode < 4 ∨ (mode = 4 ∧ ctxConfig s k.ctx % 2 = 1)) →
       exec (.swrRmode o) s = .next (trapped s o.hd 0x03 (BitVec.ofNat 64 (0x100 + mode)))))
   ∧ (∀ (s : State) (o : SwrBfmtOps), slotRuns s o.hd [.g o.a.toNat] →
     (codeReserved ((gAt s.me o.a).toNat % 16) = false →
       exec (.swrBfmt o) s = .next (staged s o.hd 1 (.sr (0x020 + o.bank.toNat) (gAt s.me o.a))))
     ∧ (codeReserved ((gAt s.me o.a).toNat % 16) = true →
       exec (.swrBfmt o) s = .next (trapped s o.hd 0x03
         (BitVec.ofNat 64 ((gAt s.me o.a).toNat % 16 * 0x100 + 0x30 + o.bank.toNat)))))
   ∧ (∀ (c : Core) (w : Word64),
     applyWrite c (.sr 0x00D w) = { c with rmode := w.setWidth 3 }
     ∧ applyWrite c (.sr 0x00A w) = { c with shsel := w.setWidth 7 }
     ∧ applyWrite c (.sr 0x103 w) = { c with trap := { c.trap with pc := w } }
     ∧ applyWrite c (.sr 0x104 w) = { c with trap := { c.trap with br := w } }
     ∧ applyWrite c (.sr 0x106 w) = { c with tvb := w &&& 0xFFFFFFFFFFFFFFC0 }
     ∧ (∀ n, n < 16 → applyWrite c (.sr (0x020 + n) w) = { c with
         bfmt := (c.bfmt &&& ~~~(0xF#64 <<< (4 * n))) ||| ((w &&& 0xF) <<< (4 * n)) })
     ∧ ∀ n, n ≤ 0x15 → n ≠ 0x00A → n ≠ 0x00D → n ≠ 0x00F → applyWrite c (.sr n w) = c))

/-! ## Private memory (07, 20) -/

/-- R384, R386: LD by the format code of its bank and LD.raw by its width; I32 and I8 are sign-extended, the rest
zero-extended; the result lands at latency 4, and nothing but the load's register write is staged. R163, R385: out of
alignment, under a Q code (LD), out of range, or in a tile of the engines they trap; R269: where the bytes hold an
uncorrectable error, UE ends the kernel outside every region, and inside one the error is noted and the load's
write is lost. -/
def Obligations.Loads : Prop :=
  let word := fun (c : Core) (ea : Word64) =>
    let code := bankCode c (bankOf ea)
    let x := decodeElem code (readLE c.priv ea.toNat (elemBytes code))
    if code = codeI32 ∨ code = codeI8 then x.signExtend 64 else x.setWidth 64
  let ok := fun (c : Core) (ea : Word64) =>
    let code := bankCode c (bankOf ea)
    isQ code = false ∧ ea.toNat % elemBytes code = 0
      ∧ reaches c ea (elemBytes code) (span ea.toNat (elemBytes code))
      ∧ errorFree c (span ea.toNat (elemBytes code))
  let okRaw := fun (c : Core) (ea : Word64) (n : Nat) =>
    ea.toNat % n = 0 ∧ reaches c ea n (span ea.toNat n) ∧ errorFree c (span ea.toNat n)
  let traps := fun (s : State) (i : Instr) (h : Hd) (ea : Word64) (n : Nat) =>
    (ea.toNat % n ≠ 0 → exec i s = .next (trapped s h 0x03 0x71))
    ∧ (ea.toNat % n = 0 → 2 ^ 20 ≤ ea.toNat → exec i s = .next (trapped s h 0x09 ea))
    ∧ (ea.toNat % n = 0 → ea.toNat < 2 ^ 20 → engineOwned s.me (ea.toNat / 0x1000) = true →
      exec i s = .next (trapped s h 0x08 (BitVec.ofNat 64 (ea.toNat / 0x1000))))
    ∧ (ea.toNat % n = 0 → reaches s.me ea n (span ea.toNat n) → s.me.ue.contains (1, ea.toNat / 64) = true →
      (s.me.regions = [] → exec i s = .next (trapped s h 0x60 (BitVec.ofNat 64 (ea.toNat / 64 * 64 + 1))))
      ∧ (s.me.regions ≠ [] → ∃ t, exec i s = .next t ∧ t = s.setMe t.me ∧ t.me.ueHit.isSome = true
        ∧ t.me.kfault = s.me.kfault ∧ ∀ l ∈ t.me.inflight.drop s.me.inflight.length, l.lost = true))
  let turned := fun (s : State) (i : Instr) (h : Hd) (ea : Word64) =>
    (isQ (bankCode s.me (bankOf ea)) = true → exec i s = .next (trapped s h 0x03 0x72))
    ∧ (isQ (bankCode s.me (bankOf ea)) = false → traps s i h ea (elemBytes (bankCode s.me (bankOf ea))))
  (∀ (s : State) (o : GI), slotRuns s o.hd [.g o.a.toNat] →
    let ea := gAt s.me o.a + o.imm.signExtend 64
    let addrs := span ea.toNat (elemBytes (bankCode s.me (bankOf ea)))
    (ok s.me ea → exec (.ld o) s = .next (loaded s o.hd addrs 4 (.g o.d.toNat (word s.me ea))))
    ∧ turned s (.ld o) o.hd ea)
  ∧ (∀ (s : State) (o : G3), slotRuns s o.hd (.g o.a.toNat :: opbReads o.b) →
    let ea := gAt s.me o.a + opbWord s.me o.b
    let addrs := span ea.toNat (elemBytes (bankCode s.me (bankOf ea)))
    (ok s.me ea → exec (.ldIndexed o) s = .next (loaded s o.hd addrs 4 (.g o.d.toNat (word s.me ea))))
    ∧ turned s (.ldIndexed o) o.hd ea)
  ∧ (∀ (s : State) (o : MIW), slotRuns s o.hd [.g o.a.toNat] →
    let ea := gAt s.me o.a + o.imm.signExtend 64
    let n := 2 ^ o.w.toNat
    (okRaw s.me ea n → exec (.ldRaw o) s
      = .next (loaded s o.hd (span ea.toNat n) 4 (.g o.d.toNat (BitVec.ofNat 64 (readLE s.me.priv ea.toNat n)))))
    ∧ traps s (.ldRaw o) o.hd ea n)
  ∧ (∀ (s : State) (o : MRW), slotRuns s o.hd (.g o.a.toNat :: opbReads o.b) →
    let ea := gAt s.me o.a + opbWord s.me o.b
    let n := 2 ^ o.w.toNat
    (okRaw s.me ea n → exec (.ldRawIndexed o) s
      = .next (loaded s o.hd (span ea.toNat n) 4 (.g o.d.toNat (BitVec.ofNat 64 (readLE s.me.priv ea.toNat n)))))
    ∧ traps s (.ldRawIndexed o) o.hd ea n)

/-- R163, R387, R203: ST and ST.raw put their bytes, little-endian from the address up, among the stores of the
cycle; out of alignment, under a Q code (ST), out of range, in a tile of the engines, or on an armed barrier they
trap and store nothing. R164, R181:
at the end of a cycle engine beats land first, then the bundle's stores; every byte takes its last write, every
other byte keeps its value, and the canonical form of private memory is kept. -/
def Obligations.Stores : Prop :=
  (let bytes := fun (c : Core) (d : BitVec 6) (ea : Word64) =>
     let code := bankCode c (bankOf ea)
     natLE (elemBytes code) (encodeElem code c.rmode.toNat ((gAt c d).setWidth 32) .zero).1
   let ok := fun (c : Core) (ea : Word64) (n : Nat) =>
     ea.toNat % n = 0 ∧ reaches c ea n (span ea.toNat n) ∧ unarmed c (span ea.toNat n)
   let plain := fun (c : Core) (ea : Word64) =>
     isQ (bankCode c (bankOf ea)) = false ∧ ok c ea (elemBytes (bankCode c (bankOf ea)))
   let traps := fun (s : State) (i : Instr) (h : Hd) (ea : Word64) (n : Nat) =>
     (ea.toNat % n ≠ 0 → exec i s = .next (trapped s h 0x03 0x71))
     ∧ (ea.toNat % n = 0 → 2 ^ 20 ≤ ea.toNat → exec i s = .next (trapped s h 0x09 ea))
     ∧ (ea.toNat % n = 0 → ea.toNat < 2 ^ 20 → engineOwned s.me (ea.toNat / 0x1000) = true →
       exec i s = .next (trapped s h 0x08 (BitVec.ofNat 64 (ea.toNat / 0x1000 + 0x100))))
     ∧ (∀ b, ea.toNat % n = 0 → reaches s.me ea n (span ea.toNat n) → armedHit s.me (span ea.toNat n) = some b →
       exec i s = .next (trapped s h 0x0B (BitVec.ofNat 64 b)))
   let turned := fun (s : State) (i : Instr) (h : Hd) (ea : Word64) =>
     (isQ (bankCode s.me (bankOf ea)) = true → exec i s = .next (trapped s h 0x03 0x72))
     ∧ (isQ (bankCode s.me (bankOf ea)) = false → traps s i h ea (elemBytes (bankCode s.me (bankOf ea))))
   (∀ (s : State) (o : GI), slotRuns s o.hd [.g o.d.toNat, .g o.a.toNat] →
     let ea := gAt s.me o.a + o.imm.signExtend 64
     (plain s.me ea → exec (.st o) s = .next (stored s (cellsFrom ea.toNat (bytes s.me o.d ea))))
     ∧ turned s (.st o) o.hd ea)
   ∧ (∀ (s : State) (o : G3), slotRuns s o.hd (.g o.d.toNat :: .g o.a.toNat :: opbReads o.b) →
     let ea := gAt s.me o.a + opbWord s.me o.b
     (plain s.me ea → exec (.stIndexed o) s = .next (stored s (cellsFrom ea.toNat (bytes s.me o.d ea))))
     ∧ turned s (.stIndexed o) o.hd ea)
   ∧ (∀ (s : State) (o : MIW), slotRuns s o.hd [.g o.d.toNat, .g o.a.toNat] →
     let ea := gAt s.me o.a + o.imm.signExtend 64
     let n := 2 ^ o.w.toNat
     (ok s.me ea n →
       exec (.stRaw o) s = .next (stored s (cellsFrom ea.toNat (natLE n (gAt s.me o.d).toNat))))
     ∧ traps s (.stRaw o) o.hd ea n)
   ∧ (∀ (s : State) (o : MRW), slotRuns s o.hd (.g o.d.toNat :: .g o.a.toNat :: opbReads o.b) →
     let ea := gAt s.me o.a + opbWord s.me o.b
     let n := 2 ^ o.w.toNat
     (ok s.me ea n →
       exec (.stRawIndexed o) s = .next (stored s (cellsFrom ea.toNat (natLE n (gAt s.me o.d).toNat))))
     ∧ traps s (.stRawIndexed o) o.hd ea n)
   ∧ (∀ (c : Core) (addrs : List Nat) (b : Nat), armedHit c addrs = some b → b ∈ c.dir
     ∧ (∃ a ∈ addrs, b ≤ a ∧ a < b + 16) ∧ ∀ x ∈ c.dir, (∃ a ∈ addrs, x ≤ a ∧ a < x + 16) → b ≤ x))
  ∧
  (∀ c : Core, Memory.wf c.priv = true →
     (∀ a, memRead (landPrivate c).priv a = lastWrite (c.engWrites ++ c.stores) (memRead c.priv a) a)
     ∧ Memory.wf (landPrivate c).priv = true ∧ (landPrivate c).stores = [] ∧ (landPrivate c).engWrites = []
     ∧ (landPrivate c).g = c.g ∧ (landPrivate c).p = c.p ∧ (landPrivate c).v = c.v ∧ (landPrivate c).m = c.m
     ∧ (landPrivate c).x = c.x ∧ (landPrivate c).f = c.f ∧ (landPrivate c).c = c.c)

/-- R54, R385, R388: VLD decodes 64 elements, or whole Q records, and lands its enabled lanes at latency 6; VST
stores the encoded elements of its enabled lanes, and no other byte: outside the Q formats each lane's element in its
place, R58: in mode 4 with the residual of the enabled lanes before it in its group of 16; in a Q format each record
that holds an enabled lane, whose other lanes take part as NaN. R337: moves of vector registers; VEXT
leaves gd where the mask bit of its lane is 0. -/
def Obligations.VectorMemoryAndMoves : Prop :=
  (let formed := fun (c : Core) (ea : Word64) =>
     let code := bankCode c (bankOf ea)
     if isQ code then qGroup code ≠ 128 ∧ ea.toNat % 0x10000 % qRecord code = 0
       ∧ ea.toNat % 0x10000 + 64 / qGroup code * qRecord code ≤ 0x10000 / qRecord code * qRecord code
     else ea.toNat % elemBytes code = 0
   let ok := fun (c : Core) (ea : Word64) (mask : Word64) =>
     let code := bankCode c (bankOf ea)
     formed c ea ∧ reaches c ea (vectorSpan code) (touched code mask ea.toNat)
   let lanes := fun (c : Core) (ea : Word64) =>
     let code := bankCode c (bankOf ea)
     mkLanes (fun i => if isQ code then
         qDecode code (readBytes c.priv (ea.toNat + i / qGroup code * qRecord code) (qRecord code)) (i % qGroup code)
       else decodeElem code (readLE c.priv (ea.toNat + i * elemBytes code) (elemBytes code)))
   (∀ (s : State) (o : GI), slotRuns s o.hd [.g o.a.toNat] →
     let ea := gAt s.me o.a + o.imm.signExtend 64
     ok s.me ea allLanes → errorFree s.me (touched (bankCode s.me (bankOf ea)) allLanes ea.toNat) →
     exec (.vld o) s = .next (loaded s o.hd (touched (bankCode s.me (bankOf ea)) allLanes ea.toNat) 6
       (.v o.d.toNat allLanes (lanes s.me ea))))
   ∧ (∀ (s : State) (o : V3), slotRuns s o.hd (.g o.a.toNat :: .m o.lm.toNat :: opbReads o.b) →
     let ea := gAt s.me o.a + opbWord s.me o.b
     let mask := mRead s.me o.lm.toNat
     ok s.me ea mask → errorFree s.me (touched (bankCode s.me (bankOf ea)) mask ea.toNat) →
     (mask ≠ 0 → exec (.vldIndexed o) s = .next (loaded s o.hd (touched (bankCode s.me (bankOf ea)) mask ea.toNat) 6
       (.v o.d.toNat mask (lanes s.me ea))))
     ∧ (mask = 0 → exec (.vldIndexed o) s = .next (s.setMe s.me)))
   ∧ (∀ (s : State) (o : GI), slotRuns s o.hd [.v o.d.toNat, .g o.a.toNat] →
     let ea := gAt s.me o.a + o.imm.signExtend 64
     let code := bankCode s.me (bankOf ea)
     ok s.me ea allLanes → unarmed s.me (touched code allLanes ea.toNat) →
     exec (.vst o) s = .next (stored s (vstoreCells code s.me.rmode.toNat allLanes (vAt s.me o.d) ea.toNat)))
   ∧ (∀ (s : State) (o : V3), slotRuns s o.hd (.v o.d.toNat :: .g o.a.toNat :: .m o.lm.toNat :: opbReads o.b) →
     let ea := gAt s.me o.a + opbWord s.me o.b
     let code := bankCode s.me (bankOf ea)
     let mask := mRead s.me o.lm.toNat
     ok s.me ea mask → unarmed s.me (touched code mask ea.toNat) →
     exec (.vstIndexed o) s = .next (stored s (vstoreCells code s.me.rmode.toNat mask (vAt s.me o.d) ea.toNat)))
   ∧ (∀ (code mode : Nat) (mask : Word64) (v : Lanes) (a : Nat),
     ∀ x ∈ vstoreCells code mode mask v a, x.1 ∈ touched code mask a)
   ∧ (∀ (code mode : Nat) (mask : Word64) (v : Lanes) (a i k : Nat) (old : Byte) (res : Nat → Machine.Num), isQ code = false →
     (∀ j, j % 16 = 0 → res j = .zero) →
     (∀ j, j % 16 ≠ 15 →
       res (j + 1) = if mask.getLsbD j then (encodeElem code mode (lane v j) (res j)).2 else res j) →
     i < 64 → mask.getLsbD i = true → k < elemBytes code →
     lastWrite (vstoreCells code mode mask v a) old (a + i * elemBytes code + k)
       = BitVec.ofNat 8 ((encodeElem code mode (lane v i) (res i)).1 / 256 ^ k))
   ∧ (∀ (code mode : Nat) (v : Word32) (e : Machine.Num), mode ≠ 4 →
     encodeElem code mode v e = (if code = 1 then fmtBF16.round mode (f32Val v) else if code = 2 then
       fmtF16.round mode (f32Val v) else if code = 11 then (BitVec.ofInt 8 (clampInt v.toInt (-127) 127)).toNat
       else v.toNat, e))
   ∧ (∀ (code mode : Nat) (mask : Word64) (v : Lanes) (a j k : Nat) (old : Byte), isQ code = true → qGroup code ≠ 128 →
     let g := qGroup code
     j < 64 / g → (∃ i, j * g ≤ i ∧ i < j * g + g ∧ mask.getLsbD i = true) → k < qRecord code →
     lastWrite (vstoreCells code mode mask v a) old (a + j * qRecord code + k)
       = (qEncode code mode ((List.range g).map (fun n =>
           if mask.getLsbD (j * g + n) then lane v (j * g + n) else f32NaN))).getD k old))
  ∧
  ((∀ (s : State) (o : VB), slotRuns s o.hd (.m o.lm.toNat :: opbLaneReads o.b) →
     exec (.vmov o) s = .next (staged s o.hd 1 (.v o.d.toNat (mRead s.me o.lm.toNat) (opbLanes s.me o.b))))
   ∧ (∀ (s : State) (o : GM), slotRuns s o.hd [] →
     exec (.vmovImm o) s = .next (staged s o.hd 1 (.v o.d.toNat 0xFFFFFFFFFFFFFFFF
       (Vector.replicate 64 (o.imm.signExtend 32))))
     ∧ exec (.vmovFimm o) s = .next (staged s o.hd 1 (.v o.d.toNat 0xFFFFFFFFFFFFFFFF
       (Vector.replicate 64 (o.imm ++ 0#12)))))
   ∧ (∀ (s : State) (o : V2), slotRuns s o.hd [.g o.a.toNat, .m o.lm.toNat] →
     exec (.vbcast o) s = .next (staged s o.hd 1 (.v o.d.toNat (mRead s.me o.lm.toNat)
       (Vector.replicate 64 ((gAt s.me o.a).setWidth 32)))))
   ∧ (∀ (s : State) (o : VExtOps), slotRuns s o.hd [.v o.a.toNat, .m o.lm.toNat] →
     ((mRead s.me o.lm.toNat).getLsbD o.lane.toNat = true →
       exec (.vext o) s = .next (staged s o.hd 2 (.g o.d.toNat ((lane (vAt s.me o.a) o.lane.toNat).setWidth 64))))
     ∧ ((mRead s.me o.lm.toNat).getLsbD o.lane.toNat = false → exec (.vext o) s = .next (s.setMe s.me)))
   ∧ (∀ (old new : Lanes) (mask : Word64) (i : Nat), i < 64 →
     lane (mergeLanes mask old new) i = if mask.getLsbD i then lane new i else lane old i))

/-! ## Vector instructions (18) -/

/-- R338, R340, R341: integer arithmetic, minimum and maximum, logic and shifts, lane by lane; imm20 forms act on
every lane with the immediate sign-extended to 32 bits. R336, R338 to R340: one exact result, rounded once by
the sampled mode, for VADD, VSUB, VMUL and VFMA (R266: the same rounded toward zero is its shadow's); minimum and maximum by R52, shadowed too; VABS and VNEG by their sign bit,
and a NaN lane canonical. -/
def Obligations.VectorArithmetic : Prop :=
  ((∀ (s : State) (o : V3), slotRuns s o.hd (.v o.a.toNat :: .m o.lm.toNat :: opbLaneReads o.b) →
     let put := fun lat (f : Word32 → Word32 → Word32) => Host.Outcome.next (φ := Fault) (ρ := Refusal)
       (staged s o.hd lat (.v o.d.toNat (mRead s.me o.lm.toNat)
         (mkLanes (fun i => f (lane (vAt s.me o.a) i) (lane (opbLanes s.me o.b) i)))))
     exec (.vaddI32 o) s = put 3 (fun a b => a + b) ∧ exec (.vsubI32 o) s = put 3 (fun a b => a - b)
     ∧ exec (.vmulI32 o) s = put 3 (fun a b => a * b)
     ∧ exec (.vand o) s = put 1 (fun a b => a &&& b) ∧ exec (.vor o) s = put 1 (fun a b => a ||| b)
     ∧ exec (.vxor o) s = put 1 (fun a b => a ^^^ b)
     ∧ exec (.vshl o) s = put 1 (fun a b => a <<< (b.toNat % 32))
     ∧ exec (.vshr o) s = put 1 (fun a b => a >>> (b.toNat % 32))
     ∧ exec (.vsra o) s = put 1 (fun a b => a.sshiftRight (b.toNat % 32))
     ∧ exec (.vminI32 o) s = put 2 (fun a b => if a.toInt ≤ b.toInt then a else b)
     ∧ exec (.vmaxI32 o) s = put 2 (fun a b => if a.toInt ≤ b.toInt then b else a)
     ∧ exec (.vminN32 o) s = put 2 (fun a b => if a.toNat ≤ b.toNat then a else b)
     ∧ exec (.vmaxN32 o) s = put 2 (fun a b => if a.toNat ≤ b.toNat then b else a))
   ∧ (∀ (s : State) (o : GI), slotRuns s o.hd [.v o.a.toNat] →
     let put := fun (f : Word32 → Word32 → Word32) => Host.Outcome.next (φ := Fault) (ρ := Refusal)
       (staged s o.hd 3 (.v o.d.toNat 0xFFFFFFFFFFFFFFFF
         (mkLanes (fun i => f (lane (vAt s.me o.a) i) (o.imm.signExtend 32)))))
     exec (.vaddI32Imm o) s = put (fun a b => a + b) ∧ exec (.vmulI32Imm o) s = put (fun a b => a * b)))
  ∧
  ((∀ (s : State) (o : V3), slotRuns s o.hd (.v o.a.toNat :: .m o.lm.toNat :: opbLaneReads o.b) →
     let put := fun (f : Nat → Word32 → Word32 → Word32) => Host.Outcome.next (φ := Fault) (ρ := Refusal)
       (stagedF s o.hd 3 o.d.toNat (mRead s.me o.lm.toNat)
         (fun m => mkLanes (fun i => f m (lane (vAt s.me o.a) i) (lane (opbLanes s.me o.b) i))))
     let pick := fun (f : Word32 → Word32 → Word32) => Host.Outcome.next (φ := Fault) (ρ := Refusal)
       (stagedF s o.hd 2 o.d.toNat (mRead s.me o.lm.toNat)
         (fun _ => mkLanes (fun i => f (lane (vAt s.me o.a) i) (lane (opbLanes s.me o.b) i))))
     exec (.vaddF32 o) s = put (fun m a b => f32Round m ((f32Val a).add (roundsDown m) (f32Val b)))
     ∧ exec (.vsubF32 o) s = put (fun m a b => f32Round m ((f32Val a).sub (roundsDown m) (f32Val b)))
     ∧ exec (.vmulF32 o) s = put (fun m a b => f32Round m ((f32Val a).mul (f32Val b)))
     ∧ exec (.vminF32 o) s = pick f32Min ∧ exec (.vmaxF32 o) s = pick f32Max)
   ∧ (∀ (s : State) (o : GI), slotRuns s o.hd [.v o.a.toNat] →
     let put := fun (f : Nat → Word32 → Word32 → Word32) => Host.Outcome.next (φ := Fault) (ρ := Refusal)
       (stagedF s o.hd 3 o.d.toNat 0xFFFFFFFFFFFFFFFF
         (fun m => mkLanes (fun i => f m (lane (vAt s.me o.a) i) (o.imm ++ 0#12))))
     exec (.vaddF32Imm o) s = put (fun m a b => f32Round m ((f32Val a).add (roundsDown m) (f32Val b)))
     ∧ exec (.vmulF32Imm o) s = put (fun m a b => f32Round m ((f32Val a).mul (f32Val b))))
   ∧ (∀ (s : State) (o : VFmaOps),
     slotRuns s o.hd (.v o.a.toNat :: .v o.c.toNat :: .m o.lm.toNat :: opbLaneReads o.b) →
     exec (.vfma o) s = .next (stagedF s o.hd 4 o.d.toNat (mRead s.me o.lm.toNat) (fun m => mkLanes (fun i =>
       let p := (f32Val (lane (vAt s.me o.a) i)).mul (f32Val (lane (opbLanes s.me o.b) i))
       let q := f32Val (lane (vAt s.me o.c) i)
       f32Round m ((if o.negP then p.neg else p).add (roundsDown m) (if o.negA then q.neg else q))))))
   ∧ (∀ (s : State) (o : V2), slotRuns s o.hd [.v o.a.toNat, .m o.lm.toNat] →
     let put := fun (f : Word32 → Word32) => Host.Outcome.next (φ := Fault) (ρ := Refusal)
       (staged s o.hd 1 (.v o.d.toNat (mRead s.me o.lm.toNat) (mkLanes (fun i => f (lane (vAt s.me o.a) i)))))
     exec (.vabs o) s = put (fun a => if f32IsNaN a then 0x7FC00000 else a &&& 0x7FFFFFFF)
     ∧ exec (.vneg o) s = put (fun a => if f32IsNaN a then 0x7FC00000 else a ^^^ 0x80000000))
   ∧ (∀ a b : Word32, (f32IsNaN a = true ∨ f32IsNaN b = true) →
     f32Min a b = 0x7FC00000 ∧ f32Max a b = 0x7FC00000)
   ∧ (∀ a b : Word32, (a = 0 ∧ b = 0x80000000) ∨ (a = 0x80000000 ∧ b = 0) →
     f32Min a b = 0x80000000 ∧ f32Max a b = 0))

/-- R342: VCMP writes a pair of masks, complements in every enabled lane; a NaN makes every condition but ne false. -/
def Obligations.VectorCompares : Prop :=
  (∀ (s : State) (o : VCmpOps), slotRuns s o.hd (.v o.a.toNat :: .m o.lm.toNat :: opbLaneReads o.b) →
    o.cc.toNat < 4 →
    let a := fun i => lane (vAt s.me o.a) i
    let b := fun i => lane (opbLanes s.me o.b) i
    let put := fun t => Host.Outcome.next (φ := Fault) (ρ := Refusal)
      (s.setMe (stage s (stage s s.me o.hd 2 (.m (2 * o.d.toNat) (mRead s.me o.lm.toNat) t)) o.hd 2
        (.m (2 * o.d.toNat + 1) (mRead s.me o.lm.toNat) (~~~t))))
    let cond := fun (t : Word64) (eq lt : Nat → Bool) => ∀ i, i < 64 → t.getLsbD i =
      (if o.cc = 0 then eq i else if o.cc = 1 then !eq i else if o.cc = 2 then lt i else !lt i)
    (∃ t, exec (.vcmpI32 o) s = put t
      ∧ cond t (fun i => decide (a i = b i)) (fun i => decide ((a i).toInt < (b i).toInt)))
    ∧ (∃ t, exec (.vcmpN32 o) s = put t
      ∧ cond t (fun i => decide (a i = b i)) (fun i => decide ((a i).toNat < (b i).toNat)))
    ∧ (∃ t, exec (.vcmpF32 o) s = put t ∧ ∀ i, i < 64 →
      t.getLsbD i = (if f32IsNaN (a i) || f32IsNaN (b i) then decide (o.cc = 1)
        else if o.cc = 0 then (f32Val (a i)).eqv (f32Val (b i))
        else if o.cc = 1 then !(f32Val (a i)).eqv (f32Val (b i))
        else if o.cc = 2 then (f32Val (a i)).lt (f32Val (b i)) else !(f32Val (a i)).lt (f32Val (b i)))))
  ∧ (f32Val 0x80000000).eqv (f32Val 0) = true
  ∧ (∀ (c : Core) (mask w : Word64) (r : Nat),
    (r ≠ 0 → mRead (applyWrite c (.m r mask w)) r = (mRead c r &&& ~~~mask) ||| (w &&& mask))
    ∧ ∀ q, q ≠ r ∨ r = 0 → mRead (applyWrite c (.m r mask w)) q = mRead c q)
  ∧ (∀ o : VCmpOps, encodeSyllable (.vcmpF32 o) = some (encVCmp 0x40 o)
    ∧ encodeSyllable (.vcmpI32 o) = some (encVCmp 0x41 o) ∧ encodeSyllable (.vcmpN32 o) = some (encVCmp 0x42 o))

/-- R343, R344: VSEL chooses each enabled lane by mc; VPERM selects lanes of va, an index above 63 giving 0. -/
def Obligations.VectorSelectAndPermute : Prop :=
  (∀ (s : State) (o : VSelOps),
    slotRuns s o.hd (.v o.a.toNat :: .m o.c.toNat :: .m o.lm.toNat :: opbLaneReads o.b) →
    exec (.vsel o) s = .next (staged s o.hd 1 (.v o.d.toNat (mRead s.me o.lm.toNat) (mkLanes (fun i =>
      if (mRead s.me o.c.toNat).getLsbD i then lane (vAt s.me o.a) i else lane (opbLanes s.me o.b) i)))))
  ∧ (∀ (s : State) (o : V3), slotRuns s o.hd (.v o.a.toNat :: .m o.lm.toNat :: opbLaneReads o.b) →
    exec (.vperm o) s = .next (staged s o.hd 2 (.v o.d.toNat (mRead s.me o.lm.toNat) (mkLanes (fun i =>
      let k := lane (opbLanes s.me o.b) i
      if k >>> 6 = 0 then lane (vAt s.me o.a) (k.toNat % 64) else 0)))))

/-- R65, R345: a reduction combines the lanes, an excluded one being the identity, by the tree of R65, and goes to every
enabled lane at latency 8; an F32 one is rounded by the sampled mode in every node (R266: its shadow rounds the root
toward zero). R59, R346: VCVT converts each enabled lane at latency 3, by its code; R57, R58: in mode 4 with the residual of
the enabled lanes before it in its group of 16, and in no other mode with one. R266: a result in F32, BF16 or F16 is
shadowed in that format, an integer is not. -/
def Obligations.VectorReductionsAndConversions : Prop :=
  (∀ (s : State) (o : VRedOps), slotRuns s o.hd [.v o.a.toNat, .m o.lm.toNat] →
    let mask := mRead s.me o.lm.toNat
    let all := fun r : Word32 => RegWrite.v o.d.toNat mask (Vector.replicate 64 r)
    let tree := fun (ident : Word32) (f : Word32 → Word32 → Word32) (t : Nat → Nat → Word32) =>
      (∀ i, i < 64 → t 0 i = if mask.getLsbD i then lane (vAt s.me o.a) i else ident)
        ∧ ∀ n i, t (n + 1) i = f (t n (2 * i)) (t n (2 * i + 1))
    let float := fun (m : Nat) (a b : Word32) =>
      if o.op = 0 then f32Round m ((f32Val a).add (roundsDown m) (f32Val b))
      else if o.op = 1 then f32Min a b else f32Max a b
    (∀ t, tree (if o.op = 0 then 0x80000000 else if o.op = 1 then 0x7F800000 else 0xFF800000) (float s.me.rmode.toNat) t →
      exec (.vredF32 o) s = .next (stagedF s o.hd 8 o.d.toNat mask
        (fun m => Vector.replicate 64 (float m (t 5 0) (t 5 1)))))
    ∧ (∀ t, tree (if o.op = 0 then 0 else if o.op = 1 then 0x7FFFFFFF else 0x80000000)
        (fun a b => if o.op = 0 then a + b else if o.op = 1 then (if a.toInt ≤ b.toInt then a else b)
          else if a.toInt ≤ b.toInt then b else a) t →
      exec (.vredI32 o) s = .next (staged s o.hd 8 (all (t 6 0))))
    ∧ (∀ t, tree (if o.op = 0 then 0 else if o.op = 1 then 0xFFFFFFFF else 0)
        (fun a b => if o.op = 0 then a + b else if o.op = 1 then (if a.toNat ≤ b.toNat then a else b)
          else if a.toNat ≤ b.toNat then b else a) t →
      exec (.vredN32 o) s = .next (staged s o.hd 8 (all (t 6 0)))))
  ∧ (∀ (s : State) (o : VCvtOps), slotRuns s o.hd [.v o.a.toNat, .m o.lm.toNat] →
    let mask := mRead s.me o.lm.toNat
    let m := s.me.rmode.toNat
    let lanes := fun out => lanesOf (convertFrom o.code.toNat m out mask (vAt s.me o.a) 64 0 .zero)
    (o.code = 3 ∨ o.code = 4 → exec (.vcvt o) s = .next (stagedF s o.hd 3 o.d.toNat mask lanes))
    ∧ (o.code = 7 → exec (.vcvt o) s
      = .next (stagedIn fmtBF16 (fun w => w.toNat / 0x10000) s o.hd 3 o.d.toNat mask lanes))
    ∧ (o.code = 8 → exec (.vcvt o) s
      = .next (stagedIn fmtF16 (fun w => fmtF16.round 1 (f32Val w)) s o.hd 3 o.d.toNat mask lanes))
    ∧ (o.code ≠ 3 → o.code ≠ 4 → o.code ≠ 7 → o.code ≠ 8 →
      exec (.vcvt o) s = .next (staged s o.hd 3 (.v o.d.toNat mask (lanes m)))))
  ∧ (∀ (code m out : Nat) (mask : Word64) (v : Lanes) (res : Nat → Machine.Num), (∀ j, j % 16 = 0 → res j = .zero) →
    (∀ j, j % 16 ≠ 15 → res (j + 1) = if mask.getLsbD j then (convertLane code m (lane v j) (res j)).2 else res j) →
    ∀ i, i < 64 → mask.getLsbD i = true →
      lane (lanesOf (convertFrom code m out mask v 64 0 .zero)) i = (convertLane code out (lane v i) (res i)).1)
  ∧ (∀ (m : Nat) (w : Word32) (e : Machine.Num),
    (m ≠ 4 → convertLane 0 m w e = (BitVec.ofInt 32 (roundToInt fmtI32 m (f32Val w)), e)
      ∧ convertLane 1 m w e = (BitVec.ofInt 32 (roundToInt fmtN32 m (f32Val w)), e)
      ∧ convertLane 2 m w e = (BitVec.ofInt 32 (roundToInt fmtI8 m (f32Val w)), e)
      ∧ convertLane 3 m w e = (f32Round m (.ofInt w.toInt), e)
      ∧ convertLane 4 m w e = (f32Round m (.ofInt w.toNat), e)
      ∧ convertLane 7 m w e = (BitVec.ofNat 32 (fmtBF16.round m (f32Val w) * 0x10000), e)
      ∧ convertLane 8 m w e = (f32RNE (fmtF16.value (fmtF16.round m (f32Val w))), e))
    ∧ convertLane 5 m w e = (if w.toInt < 0 then 0 else w, e)
    ∧ convertLane 6 m w e = (if 0x7FFFFFFF < w.toNat then 0x7FFFFFFF else w, e)
    ∧ (e.isZero = false → (fmtBF16.roundEF 4 (f32Val w) e).1 = fmtBF16.round 0 ((f32Val w).add false e)
      ∧ (fmtF16.roundEF 4 (f32Val w) e).1 = fmtF16.round 0 ((f32Val w).add false e)
      ∧ (roundToIntEF fmtI32 4 (f32Val w) e).1 = roundToInt fmtI32 0 ((f32Val w).add false e)))

/-- R347, R348: XMOV start puts each result of its unit into the result register of its mode, at the unit's
latency; a refused tie header traps and starts nothing; XMOV collect reads that register. R350 to R354: the results of
tie, sel, scan, rng and fpr; those of tie and fpr are shadowed (R266). -/
def Obligations.TransformUnits : Prop :=
  (startLatency 0 = 10 ∧ startLatency 2 = 12 ∧ startLatency 5 = 7 ∧ startLatency 7 = 4 ∧ startLatency 9 = 16)
  ∧ (∀ (c : Core) (op : Nat) (mask : Word64) (a b : Lanes),
    let n := (lane b 2).toNat / 256 % 512
    let base := (lane b 2).toNat % 256
    let unit := fun (m : Nat) (x : Word32) =>
      let t := f32Val (f32RNE (((f32Val x).sub false (f32Val (lane b 0))).mul (f32Val (lane b 1))))
      let k := floorClamp t (n - 1)
      let u := if op = 1 then clampUnit (t.sub false (.ofInt k)) else t.sub false (.ofInt k)
      let slope := cRead c (base + 2 * k + 1)
      if t.isNaN then 0x7FC00000
      else f32Round m ((f32Val (cRead c (base + 2 * k))).add (roundsDown m)
        (if (f32Val slope).isZero then .zero
         else if u.isZero then .fin (slope.getLsbD 31 != u.sign) 0 1 else (f32Val slope).mul u))
    let tie := fun m => mkLanes (fun i => if mask.getLsbD i then unit m (lane a i) else 0)
    startResults c 0 op mask a b = [(1, shadowedLanes (struck c 5) mask (tie 0) (tie 1))])
  ∧ (∀ (c : Core) (op : Nat) (mask : Word64) (a b : Lanes), op < 7 →
    let key := fun i =>
      if op < 2 then (if f32IsNaN (lane a i) then 2 ^ 32 else f32Key (lane a i))
      else if op < 4 then (lane a i).toInt else if op < 6 then ((lane a i).toNat : Int) else 0
    let first := fun i j =>
      if mask.getLsbD i && mask.getLsbD j then
        (if op % 2 = 1 then key j < key i else key i < key j) ∨ (key i = key j ∧ i < j)
      else (mask.getLsbD i = true ∧ mask.getLsbD j = false)
        ∨ (mask.getLsbD i = false ∧ mask.getLsbD j = false ∧ i < j)
    ∃ order : List Nat, order.Perm (List.range 64) ∧ order.Pairwise first
      ∧ startResults c 2 op mask a b = [(3, mkLanes (fun i => lane a (order.getD i 0)), none),
          (4, mkLanes (fun i => lane b (order.getD i 0)), none)])
  ∧ (∀ (c : Core) (op : Nat) (mask : Word64) (a b : Lanes) (acc : Nat → Word32), op < 6 →
    let m := c.rmode.toNat
    let ident : Word32 := if op < 2 then 0x80000000 else if op < 4 then 0 else if op = 4 then 0xFF800000 else 0x7F800000
    let next := fun (x y : Word32) =>
      if op < 2 then f32Round m ((f32Val x).add (roundsDown m) (f32Val y)) else if op < 4 then x + y
      else if op = 4 then f32Max x y else f32Min x y
    acc 0 = lane b 0 → (∀ i, acc (i + 1) = next (acc i) (if mask.getLsbD i then lane a i else ident)) →
    startResults c 5 op mask a b
      = [(6, mkLanes (fun i => if op = 1 ∨ op = 3 then acc i else acc (i + 1)), none)])
  ∧ (∀ (c : Core) (op : Nat) (mask : Word64) (a b : Lanes),
    startResults c 7 op mask a b = [(8, mkLanes (fun i => if mask.getLsbD i then
      (let t := (lane b i ^^^ (lane a i * 0x9E3779B9)) * 0x85EBCA6B
       let t := t ^^^ (t >>> 13)
       if op = 0 then t else f32RNE (.fin false (t.toNat / 256) (2 ^ 24))) else 0), none)])
  ∧ (∀ (c : Core) (op : Nat) (mask : Word64) (a b : Lanes), struck c 6 = none →
    let value := fun (w : Word32) =>
      if op = 0 then f32Val w else if op = 1 then .ofInt w.toInt else .ofInt (w.toNat : Int)
    let into := fun (f : Fingerprint) (i : Nat) =>
      let x := value (lane a i)
      if mask.getLsbD i = false then f
      else if x.isNaN then { f with nanCnt := if f.nanCnt = 0xFFFFFFFF then f.nanCnt else f.nanCnt + 1 }
      else { f with
        maxMag := f32Max f.maxMag (f32RNE x.abs)
        sum := BitVec.ofNat 64 (fmtF64.round 0 ((fmtF64.value f.sum.toNat).add false x))
        sumSq := BitVec.ofNat 64 (fmtF64.round 0 ((fmtF64.value f.sumSq.toNat).add false (x.mul x))) }
    let f := (List.range 64).foldl into
      { nanCnt := lane b 0, maxMag := lane b 1, sum := lane b 3 ++ lane b 2, sumSq := lane b 5 ++ lane b 4 }
    startResults c 9 op mask a b = [(10, mkLanes (fun i =>
      if i = 0 then f.nanCnt else if i = 1 then f.maxMag else if i = 2 then f.sum.setWidth 32
      else if i = 3 then f.sum.extractLsb' 32 32 else if i = 4 then f.sumSq.setWidth 32
      else if i = 5 then f.sumSq.extractLsb' 32 32 else 0), none)])
  ∧ (∀ (s : State) (o : XStartOps), slotRuns s o.hd [.v o.a.toNat, .v o.b.toNat, .m o.lm.toNat] →
    (o.port ≠ 0 ∨ tieBad (lane (vAt s.me o.b) 2) = false →
      firstUe s.me (startConsts o.port.toNat (mRead s.me o.lm.toNat) (vAt s.me o.a) (vAt s.me o.b)) = none →
      exec (.xmovStart o) s = .next (s.setMe
        ((startResults s.me o.port.toNat o.op.toNat (mRead s.me o.lm.toNat) (vAt s.me o.a) (vAt s.me o.b)).foldl
          (fun c r => stageShadowed s c o.hd (startLatency o.port.toNat) (portUnit o.port.toNat)
            (.xres (resultKey c r.1) r.2.1) r.2.2) s.me)))
    ∧ (o.port = 0 → tieBad (lane (vAt s.me o.b) 2) = true →
      exec (.xmovStart o) s = .next (trapped s o.hd 0x03 0xB1)))
  ∧ (∀ (s : State) (o : XCollectOps), slotRuns s o.hd [.m o.lm.toNat] →
    exec (.xmovCollect o) s = .next (staged s o.hd 1 (.v o.d.toNat (mRead s.me o.lm.toNat)
      (tget zeroLanes s.me.xres (if s.me.mode = .task then o.port.toNat else o.port.toNat + 16)))))

/-! ## The matrix block (19) -/

/-- R356, R357: claims take a FREE slot to CLAIMED, releases an idle CLAIMED or LOADED one to FREE; from any other
state they raise subcode 1 or 2 and leave the slot as it is. R356, R358, R359: an OLOAD of an idle slot,
aligned, with 1 to 96 rows of a layout of R358, makes the slot LOADING and reads its first six beats in its
issue cycle; a second OLOAD in flight raises subcode 0xA. R360, R361: a WLOAD of an idle slot from a page of
KIND 0 or 1 makes the slot LOADING and performs its first transfer, or takes the trap of that transfer. R8, R269: outside
every region an uncorrectable error that the issue cycle of either reads ends the kernel. R362:
MPLOAD reads its image in its issue cycle and, where image and operands pass R364, writes it into its place at
the end of issue + 7. -/
def Obligations.MatrixUnitIssues : Prop :=
  (∀ (s : State) (o : SlotOps), slotRuns s o.hd [] →
     let k := o.k.toNat
     let wt := wtOf s.me k
     let act := actOf s.me k
     let info := fun sub => BitVec.ofNat 64 (k * 0x100 + 0x60 + sub)
     let idle := fun (st : SlotState) (use : Nat) => (st = .claimed ∨ st = .loaded) ∧ use = 0
     (wt.st = .free → exec (.wclaim o) s = .next (s.setMe (s.me.setWt k { wt with st := .claimed })))
     ∧ (wt.st ≠ .free → exec (.wclaim o) s = .next (trapped s o.hd 0x03 (info 1)))
     ∧ (act.st = .free → exec (.oclaim o) s = .next (s.setMe (s.me.setAct k { act with st := .claimed })))
     ∧ (act.st ≠ .free → exec (.oclaim o) s = .next (trapped s o.hd 0x03 (info 1)))
     ∧ (idle wt.st wt.use → exec (.wrel o) s = .next (s.setMe (s.me.setWt k { wt with st := .free })))
     ∧ (¬idle wt.st wt.use → exec (.wrel o) s = .next (trapped s o.hd 0x03 (info 2)))
     ∧ (idle act.st act.use → exec (.orel o) s = .next (s.setMe (s.me.setAct k { act with st := .free })))
     ∧ (¬idle act.st act.use → exec (.orel o) s = .next (trapped s o.hd 0x03 (info 2))))
  ∧
  (∀ (s : State) (o : OLoadOps), slotRuns s o.hd [.g o.a.toNat, .g o.b.toNat] →
     let k := o.k.toNat
     let ga := gAt s.me o.a
     let rows := (gAt s.me o.b).toNat
     let code := bankCode s.me (bankOf ga)
     let size := rows * rowBytes code
     let x := actOf s.me k
     (rowElems code ≠ 0 → 0 < rows → rows ≤ 96 → ga.toNat % 64 = 0 → s.me.oload = none →
       slotIdle x.st x.use = true → reaches s.me ga (min size 384) (span ga.toNat (min size 384)) →
       errorFree s.me (span ga.toNat (min size 384)) → inRecords code ga.toNat size →
       exec (.oload o) s = .next (s.setMe { (s.me.setAct k { x with st := .loading }) with
         oload := some {
           slot := k, addr := ga.toNat, size := size, code := code, rows := rows,
           issue := issueStamp s s.me, k := 1, sys := s.me.mode != .task,
           data := readBytes s.me.priv ga.toNat (min size 384), failed := false
           lossy := privLossy s.me (span ga.toNat (min size 384)) } }))
     ∧ (∀ j, rowElems code ≠ 0 → 0 < rows → rows ≤ 96 → ga.toNat % 64 = 0 → s.me.oload = none →
       slotIdle x.st x.use = true → reaches s.me ga (min size 384) (span ga.toNat (min size 384)) →
       inRecords code ga.toNat size → s.me.regions = [] → 64 * j < min size 384 →
       s.me.ue.contains (1, ga.toNat / 64 + j) = true → (∀ i, i < j → s.me.ue.contains (1, ga.toNat / 64 + i) = false) →
       exec (.oload o) s = .next (trapped s o.hd 0x60 (BitVec.ofNat 64 (ga.toNat + 64 * j + 1))))
     ∧ (s.me.oload.isSome = true → exec (.oload o) s
         = .next (trapped s o.hd 0x03 (BitVec.ofNat 64 (k * 0x100 + 0x6A))))
     ∧ (rowElems code ≠ 0 → 0 < rows → rows ≤ 96 → ga.toNat % 64 = 0 → s.me.oload = none →
       slotIdle x.st x.use = true → ga.toNat / 0x10000 = (ga.toNat + size - 1) / 0x10000 →
       ¬inRecords code ga.toNat size →
       exec (.oload o) s = .next (trapped s o.hd 0x03 (BitVec.ofNat 64 (0xF0 + ga.toNat / 0x10000 % 16)))))
  ∧
  (∀ (s : State) (o : WLoadOps) (kn : Kernel) (p : PageT), slotRuns s o.hd [.g o.a.toNat] →
     let k := o.k.toNat
     let ga := (gAt s.me o.a).toNat
     let x := wtOf s.me k
     let w : WLoad := {
       slot := k, va := ga, int4 := o.int4, src := wloadSource s kn p,
       issue := issueStamp s s.me, k := 1, sys := s.me.mode != .task, data := [], ue := false }
     let c := { (s.me.setWt k { x with st := .loading }) with wload := some w }
     ga % 0x4000 = 0 → s.me.wload = none → slotIdle x.st x.use = true → s.kernelOf s.me = some kn →
     ga < 2 ^ 48 → findPage kn.pages ga = some p → p.kind = 0 ∨ p.kind = 1 →
     (∀ c2, wloadCycle s kn kn.ttc c w 0 = (c2, none) → s.me.regions ≠ [] ∨ c2.found = s.me.found →
         exec (.wload o) s = .next (s.setMe c2))
     ∧ (∀ c2 u, wloadCycle s kn kn.ttc c w 0 = (c2, none) → s.me.regions = [] → c2.found = s.me.found ++ [u] →
         exec (.wload o) s = .next (trapped s o.hd 0x60 (BitVec.ofNat 64 (u.1 + u.2))))
     ∧ (∀ c2 code info, wloadCycle s kn kn.ttc c w 0 = (c2, some (code, info)) →
         exec (.wload o) s = .next (trapped s o.hd code info)))
  ∧
  (∀ (s : State) (o : AB), slotRuns s o.hd [.g o.a.toNat, .g o.b.toNat] →
     let ga := gAt s.me o.a
     let gb := gAt s.me o.b
     let im := readBytes s.me.priv ga.toNat 512
     (ga.toNat % 64 = 0 → gb &&& 0xFFFFFFFFFFE0F000 = 0 → reaches s.me ga 512 (span ga.toNat 512) →
       errorFree s.me (span ga.toNat 512) →
       (imageRefused im = none → exec (.mpload o) s = .next (s.setMe { s.me with
         mploads := s.me.mploads ++ [{
           place := gb.toNat / 0x10000 % 32, tag := gb.toNat % 0x1000, image := im,
           due := dueAt s s.me 8 }] }))
       ∧ (∀ n, imageRefused im = some n →
         exec (.mpload o) s = .next (trapped s o.hd 0x03 (BitVec.ofNat 64 (n * 0x100 + 0x65)))))
     ∧ (ga.toNat % 64 ≠ 0 → exec (.mpload o) s = .next (trapped s o.hd 0x03 0x65)))

/-- R365 to R368: an MCALL that passes the six checks keeps its own copy of the routine and of its operands and
raises the use counts of the slots it reads; without its routine in the store, or with another MCALL in flight,
it raises subcode 5 with 1 or 2. R377, R378, R380: EPI.CFG records a configuration of 1,088 bytes that lie in
one bank; EPI.POP takes the QUEUED entry at TAIL, where none of the bytes that it will write lies in an armed barrier (R203);
EPI.ST shows the ring. -/
def Obligations.RoutineAndEpilogueIssues : Prop :=
  (∀ (s : State) (i : Instr) (h : Hd) (tag sp clip sparse : Nat),
     ((∃ o : MCallOps, i = .mcall o ∧ h = o.hd ∧ tag = o.tag.toNat ∧ sp = 0 ∧ clip = 0 ∧ sparse = 0)
       ∨ (∃ o : MCallSplitOps, i = .mcallSplit o ∧ h = o.hd ∧ tag = o.tag.toNat ∧ sp = o.s.toNat
           ∧ clip = o.clip.toNat ∧ sparse = 0)
       ∨ (∃ o : MCallSparseOps, i = .mcallSparse o ∧ h = o.hd ∧ tag = o.tag.toNat ∧ sp = o.s.toNat
           ∧ clip = o.clip.toNat
           ∧ sparse = (if o.n = 0 then 4 else if o.n = 1 then 8 else 16))) →
     slotRuns s h [.x 0, .x 1, .x 7] → sp ≤ splitMax s s.me →
     (∀ im, findTag s.me tag = some im → s.me.mcall = none →
       let kind := imgKind im
       let m : MCall := {
         tag := tag, image := im, s := sp, clip := clip, sparse := sparse,
         x0 := xRead s.me 0, x1 := xRead s.me 1, x7 := xRead s.me 7, head := s.me.head,
         issue := issueStamp s s.me, len := if sp > 0 then imgLenc im else imgLend im, k := 1,
         sys := s.me.mode != .task, reexec := none }
       (kind = 0 → sp ≤ 6) → (kind = 1 → sp ≤ 3) → (kind = 2 → sp = 0) → (sparse ≠ 0 → kind = 0) →
       (∀ st ∈ stepsOf im, stepRefused s.me kind m.x0 m.x1 sparse st = none) → sparseFault s.me m = none →
       (imgCoop im = false ∨ coopRefused s.me.role
         (match s.kernelOf s.me with | none => 0 | some k => declRoles k.decl) m.x7 = false) →
       exec i s = .next (s.setMe { (mcallUse (fun n => n + 1) m s.me) with mcall := some m }))
     ∧ (findTag s.me tag = none → exec i s = .next (trapped s h 0x03 0x165))
     ∧ (∀ im, findTag s.me tag = some im → s.me.mcall.isSome = true →
         exec i s = .next (trapped s h 0x03 0x265)))
  ∧
  ((∀ (s : State) (o : RA), slotRuns s o.hd [.g o.a.toNat] →
     let ga := gAt s.me o.a
     let h := readBytes s.me.priv s.me.epicfg.toNat 64
     let code := bankCode s.me (bankOf ga)
     let cfg := BitVec.ofNat 64 s.me.epicfg.toNat
     (ga.toNat % 64 = 0 → ga.toNat < 2 ^ 20 → ga.toNat % 0x10000 + 1088 ≤ 0x10000 →
       exec (.epiCfg o) s = .next (staged s o.hd 1 (.sr 0x00F ga)))
     ∧ (¬(ga.toNat % 64 = 0 ∧ ga.toNat < 2 ^ 20 ∧ ga.toNat % 0x10000 + 1088 ≤ 0x10000) →
       exec (.epiCfg o) s = .next (trapped s o.hd 0x03 0x67))
     ∧ (ga.toNat % 64 = 0 → s.me.epicfg ≠ 0 → s.me.pop = none → (ringOf s.me s.me.tail).st = .queued →
       reaches s.me cfg 64 [s.me.epicfg.toNat] → errorFree s.me [s.me.epicfg.toNat] → popRefused h code = false →
       (unarmedIn s.me (popRanges h code ga.toNat) →
         exec (.epiPop o) s = .next (s.setMe
           { (s.me.setRing s.me.tail { ringOf s.me s.me.tail with st := .popping }) with
             pop := some {
               cfg := s.me.epicfg.toNat, dst := ga.toNat, header := h, params := [],
               mode := s.me.rmode.toNat, code := code, entry := s.me.tail, issue := issueStamp s s.me, k := 1,
               beats := popBeats h code, sys := s.me.mode != .task, failed := false, out := [], found := none
               lossy := privLossy s.me (span s.me.epicfg.toNat 64) } }))
       ∧ ∀ b, armedIn s.me (popRanges h code ga.toNat) = some b →
         exec (.epiPop o) s = .next (trapped s o.hd 0x0B (BitVec.ofNat 64 b)))
     ∧ (s.me.epicfg = 0 ∨ s.me.pop.isSome = true ∨ (ringOf s.me s.me.tail).st ≠ .queued →
       exec (.epiPop o) s = .next (trapped s o.hd 0x03 0x67)))
   ∧ (∀ (s : State) (o : RD), slotRuns s o.hd [] →
     exec (.epiSt o) s = .next (s.setMe (stage s (noteLossy s.me (!(ringOf s.me s.me.tail).lossy.isEmpty)) o.hd 1
       (.g o.d.toNat (ringStatus s.me)))))
   ∧ (∀ c : Core, (ringStatus c).toNat % 8 = c.head % 8 ∧ (ringStatus c).toNat / 16 % 8 = c.tail % 8
     ∧ (ringStatus c).getLsbD 17 = c.mcall.isSome ∧ (ringStatus c).getLsbD 18 = c.pop.isSome))

/-- R381: a calibration word by macro and column, through the column map; an index out of range raises subcode 9, and so
does a CAL.WR of a macro that an MCALL in flight reads, its slot in bits 15:8 (R383); CAL.WR raises PRIVILEGE in task mode. R389, R403: a command that passes its checks enters the buffer with its
operands and the rounding mode and bank codes of its issue cycle; a full buffer or a start that is not after the
issue is slip 5 or 6; in a handler or a stub, HOLD_ISSUE. -/
def Obligations.CalibrationAndPumpCommands : Prop :=
  ((∀ (s : State) (o : RR), slotRuns s o.hd [.g o.a.toNat] →
     let g := (gAt s.me o.a).toNat
     let place := if g % 256 ≥ 128 then g / 256 * 130 + g % 256
       else g / 256 * 130 + tget (g % 256) s.me.colMap (g / 256 * 128 + g % 256)
     (g < 0x800 → g % 256 ≤ 129 →
       exec (.calRd o) s = .next (staged s o.hd 2 (.g o.d.toNat ((tget 0 s.me.calib place).signExtend 64))))
     ∧ (¬(g < 0x800 ∧ g % 256 ≤ 129) → exec (.calRd o) s = .next (trapped s o.hd 0x03 0x69)))
   ∧ (∀ (s : State) (o : AB), slotRuns s o.hd [.g o.a.toNat, .g o.b.toNat] →
     let g := (gAt s.me o.a).toNat
     let place := if g % 256 ≥ 128 then g / 256 * 130 + g % 256
       else g / 256 * 130 + tget (g % 256) s.me.colMap (g / 256 * 128 + g % 256)
     (s.me.mode = .task → exec (.calWr o) s = .next (trapped s o.hd 0x04 0))
     ∧ (s.me.mode ≠ .task → g < 0x800 → g % 256 ≤ 129 → macroBusy s.me (g / 256) = false →
       exec (.calWr o) s = .next (s.setMe { s.me with
         calib := tset s.me.calib place ((gAt s.me o.b).setWidth 16) }))
     ∧ (s.me.mode ≠ .task → g < 0x800 → g % 256 ≤ 129 → macroBusy s.me (g / 256) = true →
       exec (.calWr o) s = .next (trapped s o.hd 0x03 (BitVec.ofNat 64 (g / 256 * 0x100 + 0x69))))
     ∧ (s.me.mode ≠ .task → ¬(g < 0x800 ∧ g % 256 ≤ 129) → exec (.calWr o) s = .next (trapped s o.hd 0x03 0x69))))
  ∧
  (let enters := fun (s : State) (i : Instr) (h : Hd) (op start variant barrier : Nat) (d : List Byte) =>
     (s.me.buf.length < 32 → s.ttcOf s.me < start → exec i s = .next (s.setMe { s.me with
       buf := s.me.buf ++ [{
         op := op, start := start, issue := s.ttcOf s.me, mode := s.me.rmode.toNat,
         variant := variant, barrier := barrier, desc := d, codes := s.me.bfmt, order := s.me.orders }]
       orders := s.me.orders + 1 }))
     ∧ (32 ≤ s.me.buf.length → exec i s = .next (trapped s h 0x40
         (BitVec.ofNat 64 (s.ttcOf s.me % 2 ^ 56 * 0x100 + 5))))
     ∧ (s.me.buf.length < 32 → start ≤ s.ttcOf s.me → exec i s = .next (trapped s h 0x40
         (BitVec.ofNat 64 (s.ttcOf s.me % 2 ^ 56 * 0x100 + 6))))
   (∀ (s : State) (o : PumpOps) (i : Instr) (op : Nat),
     (i = .pmpCp o ∧ op = 1) ∨ (i = .pmpGth o ∧ op = 2) ∨ (i = .pmpSct o ∧ op = 3) ∨ (i = .pmpDec o ∧ op = 4)
       ∨ (i = .pmpCmp o ∧ op = 5) →
     slotRuns s o.hd [.g o.a.toNat, .g o.b.toNat, .g o.c.toNat] →
     let ga := gAt s.me o.a
     let gc := (gAt s.me o.c).toNat
     let d := readBytes s.me.priv ga.toNat 80
     let variant := o.elem.toNat + (if o.bar then 16 else 0) + o.ctab.toNat * 32
     (∀ k, s.me.mode = .task → reaches s.me ga 80 (span ga.toNat 80) → errorFree s.me (span ga.toNat 80) →
       s.kernelOf s.me = some k →
       pumpRefused s k op ga.toNat (if o.bar then gc else if o.c = 0 then 0 else 1) s.me.bfmt d variant = none →
       pumpBarred k op s.me.bfmt d variant = none → (o.bar = true → gc ∈ s.me.dir) →
       enters s i o.hd op (gAt s.me o.b).toNat variant (if o.bar then gc else 0) d)
     ∧ (s.me.mode = .handler → exec i s = .next (trapped s o.hd 0x43 0))
     ∧ (s.me.mode = .stub → exec i s = .next (trapped s o.hd 0x43 1)))
   ∧ (∀ (s : State) (o : CtabOps), slotRuns s o.hd [.g o.a.toNat, .g o.b.toNat, .g o.c.toNat] →
     s.me.mode = .task → o.c = 0 → (gAt s.me o.a).toNat % 64 = 0 →
     enters s (.ctabLd o) o.hd 6 (gAt s.me o.b).toNat (o.ctab.toNat * 32) 0
       (natLE 8 (gAt s.me o.a).toNat ++ List.replicate 72 0)))

/-! ## Pump commands, tiles, barriers (20) -/

/-- R167, R406: OWN names 1 to 256 tiles, and asks for their change of owner at the end of the cycle; OWN.TAKE of an
ENGAGED tile raises TILE_OWN for the lowest; GIVEN, CORE and ENGAGED change as the table of R167 says. R407 to R409: barrier
updates join those of the end of the cycle (R205); a misaligned address raises subcode 8, one out of range
PRIV_RANGE, an unarmed barrier TXB_STATE, and a TXB.INIT in an ENGAGED tile TXB_ACCESS or of a 65th barrier TXB_FULL; R270:
a TXB.WAIT on a barrier that a transfer held by an open region counts on raises REGION 3; else TXB.WAIT gives its outcome at once where the record satisfies it, and
waits otherwise. -/
def Obligations.OwnershipAndBarriers : Prop :=
  ((∀ (s : State) (o : ImmOps), slotRuns s o.hd [] →
     let first := o.imm.toNat % 256
     let count := o.imm.toNat / 256 % 256 + 1
     let asks := fun give => Host.Outcome.next (φ := Fault) (ρ := Refusal)
       (s.setMe { s.me with owns := s.me.owns ++ (List.range count).map (fun k => (give, first + k)) })
     (first + count ≤ 256 → o.imm.toNat < 0x10000 → exec (.ownGive o) s = asks true
       ∧ ((∀ k, first ≤ k → k < first + count → (tileOf s.me k).st ≠ .engaged) → exec (.ownTake o) s = asks false))
     ∧ (∀ k, first + count ≤ 256 → o.imm.toNat < 0x10000 → first ≤ k → k < first + count →
       (tileOf s.me k).st = .engaged → (∀ j, first ≤ j → j < k → (tileOf s.me j).st ≠ .engaged) →
       exec (.ownTake o) s = .next (trapped s o.hd 0x08 (BitVec.ofNat 64 (k + 0x600))))
     ∧ (256 < first + count ∨ 0x10000 ≤ o.imm.toNat → exec (.ownGive o) s = .next (trapped s o.hd 0x03 0x57)
       ∧ exec (.ownTake o) s = .next (trapped s o.hd 0x03 0x57)))
   ∧ (∀ t : Tile, (t.st = .core → tileGive t = { t with st := .given } ∧ tileTake t = t)
     ∧ (t.st = .given → tileGive t = t ∧ tileTake t = { t with st := .core })
     ∧ (t.st = .engaged → tileGive t = { t with toGiven := true } ∧ tileTake t = t)))
  ∧
  (let asks := fun (s : State) (a : Nat) (u : BarUpdate) => Host.Outcome.next (φ := Fault) (ρ := Refusal)
     (s.setMe { s.me with barUps := s.me.barUps ++ [(a, u)] })
   (∀ (s : State) (o : AB), slotRuns s o.hd [.g o.a.toNat, .g o.b.toNat] →
     let ga := gAt s.me o.a
     let gb := (gAt s.me o.b).toNat
     (ga.toNat % 16 = 0 → ga.toNat < 2 ^ 20 → (tileOf s.me (ga.toNat / 0x1000)).st ≠ .engaged →
       (ga.toNat ∈ s.me.dir ∨ s.me.dir.length < 64) →
       exec (.txbInit o) s = asks s ga.toNat (.init (signedOf 32 (bitsOf gb 31 0)) (signedOf 24 (bitsOf gb 55 32))
         (bitsOf gb 63 56)))
     ∧ (ga.toNat % 16 ≠ 0 → exec (.txbInit o) s = .next (trapped s o.hd 0x03 0x58))
     ∧ (ga.toNat % 16 = 0 → 2 ^ 20 ≤ ga.toNat → exec (.txbInit o) s = .next (trapped s o.hd 0x09 ga))
     ∧ (ga.toNat % 16 = 0 → ga.toNat < 2 ^ 20 → (tileOf s.me (ga.toNat / 0x1000)).st = .engaged →
       exec (.txbInit o) s = .next (trapped s o.hd 0x0B ga))
     ∧ (ga.toNat % 16 = 0 → ga.toNat < 2 ^ 20 → (tileOf s.me (ga.toNat / 0x1000)).st ≠ .engaged →
       ga.toNat ∉ s.me.dir → 64 ≤ s.me.dir.length → exec (.txbInit o) s = .next (trapped s o.hd 0x0A ga))
     ∧ (bitsOf gb 63 56 = 0 → ga.toNat % 16 = 0 → ga.toNat < 2 ^ 20 → ga.toNat ∈ s.me.dir →
       exec (.txbExpect o) s = asks s ga.toNat (.add (bitsOf gb 31 0) (bitsOf gb 55 32)))
     ∧ (bitsOf gb 63 56 = 0 → ga.toNat % 16 = 0 → ga.toNat < 2 ^ 20 → ga.toNat ∉ s.me.dir →
       exec (.txbExpect o) s = .next (trapped s o.hd 0x0C ga)))
   ∧ (∀ (s : State) (o : RA), slotRuns s o.hd [.g o.a.toNat] →
     let ga := gAt s.me o.a
     (ga.toNat % 16 = 0 → ga.toNat < 2 ^ 20 → ga.toNat ∈ s.me.dir →
       exec (.txbArrive o) s = asks s ga.toNat (.add 0 (-1)))
     ∧ (ga.toNat % 16 = 0 → ga.toNat < 2 ^ 20 → ga.toNat ∉ s.me.dir →
       exec (.txbArrive o) s = .next (trapped s o.hd 0x0C ga))
     ∧ (handleBad s.link ga.toNat = false → holdFull s.me 0 = false →
       exec (.txbArriveRemote o) s = .next (s.setMe { s.me with
         outNew := s.me.outNew ++ [{
           kind := .arrive ga.toNat, start := s.ttcOf s.me, at_ := s.cyc, sys := s.me.mode != .task, epoch := s.me.epoch,
           barrier := none, sent := 0, order := s.me.orders }]
         orders := s.me.orders + 1 }))
     ∧ (handleBad s.link ga.toNat = true → exec (.txbArriveRemote o) s = .next (trapped s o.hd 0x03 0x58)))
   ∧ (∀ (s : State) (o : TxbWaitOps), slotRuns s o.hd [.g o.a.toNat] →
     let ga := gAt s.me o.a
     let b := coreBar s.me ga.toNat
     ga.toNat % 16 = 0 → ga.toNat < 2 ^ 20 → ga.toNat ∈ s.me.dir → heldCounts s.me ga.toNat = false →
     errorFree s.me (span ga.toNat 16) →
     (b.phase ≠ o.q.toNat ∨ b.abort = true → exec (.txbWait o) s = .next (s.setMe
       (stage s (stage s s.me o.hd 1 (.p (2 * o.d.toNat) (!b.abort))) o.hd 1 (.p (2 * o.d.toNat + 1) b.abort))))
     ∧ (b.phase = o.q.toNat → b.abort = false → exec (.txbWait o) s = .next (s.setMe { s.me with
         wait := some {
           issue := issueStamp s s.me, addr := ga.toNat, phase := o.q.toNat, pair := o.d.toNat, out := none } })))
   ∧ (∀ (s : State) (i : Instr) (h : Hd) (ga : Word64),
     ((∃ o : AB, i = .txbExpect o ∧ h = o.hd ∧ slotRuns s o.hd [.g o.a.toNat, .g o.b.toNat] ∧ ga = gAt s.me o.a
         ∧ bitsOf (gAt s.me o.b).toNat 63 56 = 0)
       ∨ (∃ o : RA, i = .txbArrive o ∧ h = o.hd ∧ slotRuns s o.hd [.g o.a.toNat] ∧ ga = gAt s.me o.a)
       ∨ (∃ o : TxbWaitOps, i = .txbWait o ∧ h = o.hd ∧ slotRuns s o.hd [.g o.a.toNat] ∧ ga = gAt s.me o.a)) →
     (ga.toNat % 16 ≠ 0 → exec i s = .next (trapped s h 0x03 0x58))
     ∧ (ga.toNat % 16 = 0 → 2 ^ 20 ≤ ga.toNat → exec i s = .next (trapped s h 0x09 ga))
     ∧ (ga.toNat % 16 = 0 → ga.toNat < 2 ^ 20 → ga.toNat ∉ s.me.dir → exec i s = .next (trapped s h 0x0C ga)))
   ∧ (∀ (s : State) (o : TxbWaitOps), slotRuns s o.hd [.g o.a.toNat] →
     let ga := gAt s.me o.a
     ga.toNat % 16 = 0 → ga.toNat < 2 ^ 20 → ga.toNat ∈ s.me.dir → heldCounts s.me ga.toNat = true →
     exec (.txbWait o) s = .next (trapped s o.hd 0x44 3))
   ∧ (∀ (c : Core) (a : Nat), (c.regions = [] → heldCounts c a = false)
     ∧ (c.regions ≠ [] → ∀ x ∈ c.regions.flatMap (·.hold) ++ c.outNew, x.barrier = some a → x.kind.isFence = false →
       x.kind.isRead = false → heldCounts c a = true))
   ∧ (∀ (s : State) (o : AB), slotRuns s o.hd [.g o.a.toNat, .g o.b.toNat] → bitsOf (gAt s.me o.b).toNat 63 56 ≠ 0 →
     exec (.txbExpect o) s = .next (trapped s o.hd 0x03 0x58)))

/-- R205 to R207: the updates of one cycle are summed; both counts at 0 after a count update flip the phase and give
a new deadline; an aborted barrier discards count updates and counts each in STRAY, up to 255; a count that an
update would take out of range aborts the barrier with cause 5 and keeps its value, while the other count takes
its own. -/
def Obligations.BarrierFlips : Prop :=
  (∀ (window : Nat) (b : Bar) (sect arrv : Int), b.abort = false →
    (-(2 ^ 31 : Int) ≤ b.sect + sect ∧ b.sect + sect < 2 ^ 31 ∧ -(2 ^ 23 : Int) ≤ b.arrv + arrv
      ∧ b.arrv + arrv < 2 ^ 23 →
      barApply window b [.add sect arrv] =
        if b.sect + sect = 0 ∧ b.arrv + arrv = 0 then
          { b with sect := 0, arrv := 0, phase := (b.phase + 1) % 16, dline := (window + b.tmow) % 2 ^ 32 }
        else { b with sect := b.sect + sect, arrv := b.arrv + arrv })
    ∧ (¬(-(2 ^ 31 : Int) ≤ b.sect + sect ∧ b.sect + sect < 2 ^ 31 ∧ -(2 ^ 23 : Int) ≤ b.arrv + arrv
      ∧ b.arrv + arrv < 2 ^ 23) →
      barApply window b [.add sect arrv] = { b with
        sect := if -(2 ^ 31 : Int) ≤ b.sect + sect ∧ b.sect + sect < 2 ^ 31 then b.sect + sect else b.sect
        arrv := if -(2 ^ 23 : Int) ≤ b.arrv + arrv ∧ b.arrv + arrv < 2 ^ 23 then b.arrv + arrv else b.arrv
        abort := true, acause := 5 }))
  ∧ (∀ (window : Nat) (b : Bar) (ups : List BarUpdate), b.abort = true →
    (∀ u ∈ ups, ∃ sect arrv, u = .add sect arrv) → b.stray ≤ 255 →
    barApply window b ups = { b with stray := min 255 (b.stray + ups.length) })
  ∧ (∀ (window : Nat) (b : Bar) (sect arrv : Int) (tmow : Nat), -(2 ^ 31 : Int) ≤ sect → sect < 2 ^ 31 →
    -(2 ^ 23 : Int) ≤ arrv → arrv < 2 ^ 23 → ¬(sect = 0 ∧ arrv = 0) →
    barApply window b [.init sect arrv tmow] = {
      sect := sect, arrv := arrv, tmow := tmow,
      dline := (window + tmow) % 2 ^ 32, acause := 0, stray := 0, armed := true, abort := false, phase := 0 })
  ∧ (∀ (b : Bar), b.phase < 16 → b.stray < 256 → b.acause < 256 → b.dline < 2 ^ 32 → b.tmow < 256 →
    -(2 ^ 31 : Int) ≤ b.sect → b.sect < 2 ^ 31 → -(2 ^ 23 : Int) ≤ b.arrv → b.arrv < 2 ^ 23 →
    (barBytes b).length = 16 ∧ barOf (barBytes b) = b)

/-! ## Atomics, reductions, block tables, collectives, persistence (21) -/

/-- R220, R292, R410 to R417: an operation at the Keystones on a page that allows it takes one KPORT use and enters
its way with the address, width and operands of its issue cycle; a word operation out of its alignment raises
subcode 1, and one on a missing page PAGE. R199, R200, R418, R424, R425: COLL.START joins the outbound stream in
its issue cycle where its 192 bytes lie in CISTERN pages; COLL.ST reads the status of the latest collective of a
VA at latency 4; PBAR.dur ends the persist epoch, and its barrier form adds an arrival for it. That a BLK operation
issues on a page without WRITE is the model's choice (log entry 27). -/
def Obligations.KeystoneAndPersistIssues : Prop :=
  (let width := fun (ty : BitVec 3) => if ty = 3 ∨ ty = 4 then 8 else 4
   let low := fun (w : Nat) (x : Word64) => BitVec.ofNat 64 (x.toNat % 2 ^ (8 * w))
   let issues := fun (s : State) (i : Instr) (va : Word64) (word : Bool) (kind : Kernel → KOpKind) (d pair : Nat) =>
     ∀ (k : Kernel) (p : PageT), s.kernelOf s.me = some k → va.toNat < 2 ^ 48 → findPage k.pages va.toNat = some p →
       p.kind = 2 → (word = true → p.write = true ∧ isPool k.pools p = false) →
       claimsBay k.decl 3 (bayOf s.cyc) = true →
       (s.me.mode = .task → tget 0 s.me.counts 3 + 1 ≤ budgetOf k.decl 3) →
       exec i s = .next (s.setMe (keystoneOp s p va (kind k) d pair
         (if s.me.mode = .task then { s.me with counts := tset s.me.counts 3 (tget 0 s.me.counts 3 + 1) } else s.me)))
   (∀ (s : State) (o : KOps) (i : Instr) (op : Nat),
     (i = .aadd o ∧ op = 0) ∨ (i = .aincw o ∧ op = 1) ∨ (i = .axchg o ∧ op = 4) ∨ (i = .amin o ∧ op = 5)
       ∨ (i = .amax o ∧ op = 6) ∨ (i = .aand o ∧ op = 7) ∨ (i = .aor o ∧ op = 8) ∨ (i = .axor o ∧ op = 9) →
     slotRuns s o.hd [.g o.a.toNat, .g o.b.toNat] →
     let va := gAt s.me o.a
     (va.toNat % width o.ty = 0 →
       issues s i va true (fun _ => .atomic op o.ty.toNat (low (width o.ty) (gAt s.me o.b)) 0) o.d.toNat 0)
     ∧ (va.toNat % width o.ty ≠ 0 → exec i s
         = .next (trapped s o.hd 0x03 (BitVec.ofNat 64 (va.toNat % 2 ^ 48 * 0x10000 + 0x41))))
     ∧ (∀ k, va.toNat % width o.ty = 0 → s.kernelOf s.me = some k → va.toNat < 2 ^ 48 →
         findPage k.pages va.toNat = none →
         exec i s = .next (trapped s o.hd 0x42 (BitVec.ofNat 64 (va.toNat / 0x10000 * 0x10000 + 0x201)))))
   ∧ (∀ (s : State) (o : KAddbOps), slotRuns s o.hd [.g o.a.toNat, .g o.b.toNat, .g o.c.toNat] →
     (gAt s.me o.a).toNat % width o.ty = 0 →
     issues s (.afaddb o) (gAt s.me o.a) true (fun _ => .atomic 2 o.ty.toNat (low (width o.ty) (gAt s.me o.b))
       (low (width o.ty) (gAt s.me o.c))) o.d.toNat o.pk.toNat)
   ∧ (∀ (s : State) (o : KCasOps), slotRuns s o.hd [.g o.a.toNat, .g o.b.toNat, .g o.c.toNat] →
     (gAt s.me o.a).toNat % width o.ty = 0 →
     issues s (.acas o) (gAt s.me o.a) true (fun _ => .atomic 3 o.ty.toNat (low (width o.ty) (gAt s.me o.b))
       (low (width o.ty) (gAt s.me o.c))) o.d.toNat 0)
   ∧ (∀ (s : State) (o : RedAddOps), slotRuns s o.hd [.g o.a.toNat, .g o.b.toNat] →
     (gAt s.me o.a).toNat % 4 = 0 →
     issues s (.redAdd o) (gAt s.me o.a) true (fun _ => .redAdd o.ty.toNat (gAt s.me o.b)) 0 0)
   ∧ (∀ (s : State) (o : RedCombOps), slotRuns s o.hd [.g o.a.toNat] → (gAt s.me o.a).toNat % 4 = 0 →
     issues s (.redComb o) (gAt s.me o.a) true (fun _ => .redComb o.ty.toNat) o.d.toNat 0)
   ∧ (∀ (s : State) (o : BlkOps) (i : Instr) (op : Nat),
     (i = .blkAlloc o ∧ op = 0) ∨ (i = .blkXlat o ∧ op = 1) ∨ (i = .blkFree o ∧ op = 3) →
     slotRuns s o.hd [.g o.a.toNat, .g o.b.toNat] →
     let va := gAt s.me o.a &&& 0xFFFFFFFFFFFF0000
     issues s i va false (fun k => .blk op (k.pools.findIdx (fun p => p.va == va.toNat)) (gAt s.me o.b) 0) o.d.toNat 0)
   ∧ (∀ (s : State) (o : BlkShareOps), slotRuns s o.hd [.g o.a.toNat, .g o.b.toNat, .g o.c.toNat] →
     let va := gAt s.me o.a &&& 0xFFFFFFFFFFFF0000
     issues s (.blkShare o) va false
       (fun k => .blk 2 (k.pools.findIdx (fun p => p.va == va.toNat)) (gAt s.me o.b) (gAt s.me o.c)) o.d.toNat 0)
   ∧ (∀ (s : State) (p : PageT) (va : Word64) (kind : KOpKind) (d pair : Nat) (c : Core),
     (keystoneOp s p va kind d pair c).kNew = c.kNew ++ [{
       phys := s.act, kid := c.kid.getD 0, role := c.role,
       kind := kind, va := va, addr := p.phys + (va.toNat - p.va),
       perform := s.cyc + (if nearHere s p s.act then 20 else 36),
       due := dueAt s c (if nearHere s p s.act then 40 else 72), issue := issueStamp s c, d := d, pair := pair }]))
  ∧
  ((∀ (s : State) (o : RA) (k : Kernel), slotRuns s o.hd [.g o.a.toNat] →
     let ga := gAt s.me o.a
     (ga.toNat % 64 = 0 → s.kernelOf s.me = some k →
       checkRange k.pages ga.toNat 192 false (fun p => p.kind == 0) = none → holdFull s.me 0 = false →
       exec (.collStart o) s = .next (s.setMe { s.me with
         outNew := s.me.outNew ++ [{
           kind := .coll ga.toNat, start := s.ttcOf s.me, at_ := s.cyc, sys := s.me.mode != .task, epoch := s.me.epoch,
           barrier := none, sent := 0, order := s.me.orders }]
         orders := s.me.orders + 1 }))
     ∧ (ga.toNat % 64 ≠ 0 → exec (.collStart o) s
         = .next (trapped s o.hd 0x03 (BitVec.ofNat 64 (ga.toNat % 2 ^ 48 * 0x10000 + 0x43))))
     ∧ (ga.toNat % 16 = 0 → ga.toNat ∈ s.me.dir →
       exec (.pbarDurBarrier o) s = .next (s.setMe { s.me with
         barUps := s.me.barUps ++ [(ga.toNat, .add 0 1)], epoch := s.me.epoch + 1,
         pbarNew := s.me.pbarNew ++ [(s.me.epoch, ga.toNat)] }))
     ∧ (ga.toNat % 16 = 0 → ga.toNat ∉ s.me.dir → exec (.pbarDurBarrier o) s = .next (trapped s o.hd 0x0C ga)))
   ∧ (∀ (s : State) (h : Hd), slotRuns s h [] →
     exec (.pbarDur h) s = .next (s.setMe { s.me with epoch := s.me.epoch + 1 }))
   ∧ (∀ (s : State) (o : RR) (k : Kernel), slotRuns s o.hd [.g o.a.toNat] → s.kernelOf s.me = some k →
     exec (.collSt o) s
       = .next (staged s o.hd 4 (.g o.d.toNat (collStatus s k.ctx (gAt s.me o.a).toNat)))
     ∧ (collInStream s k.ctx (gAt s.me o.a).toNat = true → collStatus s k.ctx (gAt s.me o.a).toNat = 1)
     ∧ (collInStream s k.ctx (gAt s.me o.a).toNat = false →
       (∀ x ∈ s.link.colls, x.ctx = k.ctx → x.va ≠ (gAt s.me o.a).toNat) →
       collStatus s k.ctx (gAt s.me o.a).toNat = 0)))

/-! ## System instructions (22) -/

/-- R188, R426, R427: a FENCE of a scope inside the package has no effect, and one of scope .sys or .dur takes its
place in the outbound stream; TSYNC asks the sequencer to stop until its target, and a target that is not after
its own cycle is slip 4. R270, R272, R428: regions open in task mode, four deep; a close closes the innermost,
and does nothing while an unwind is pending; the misuses raise REGION with their subcodes. R284, R429 to R433:
NOP has no effect; TRAP raises its number; ERET in a handler or stub and DONE outside every region ask the
sequencer, and trap elsewhere; TEST.RD and MHEAD read one word. -/
def Obligations.SystemInstructions : Prop :=
  ((∀ (s : State) (o : FenceOps), slotRuns s o.hd [] →
     (o.scope.toNat < 5 → exec (.fence o) s = .next (s.setMe s.me))
     ∧ (5 ≤ o.scope.toNat → exec (.fence o) s = .next (s.setMe { s.me with
         outNew := s.me.outNew ++ [{
           kind := .fence (o.scope == 6), start := s.ttcOf s.me, at_ := s.cyc, sys := s.me.mode != .task, epoch := s.me.epoch,
           barrier := none, sent := 0, order := s.me.orders }]
         orders := s.me.orders + 1 })))
   ∧ (∀ (s : State) (o : TsyncOps), slotRuns s o.hd (opbReads o.b) →
     let t : Word64 := match o.b with
       | .reg r => gAt s.me r
       | .const k => (cRead s.me k.toNat).setWidth 64
       | .lit w => w.setWidth 64
     (s.ttcOf s.me < t.toNat → exec (.tsync o) s = .next (asked s (fun q => { q with tsync := some t })))
     ∧ (t.toNat ≤ s.ttcOf s.me → exec (.tsync o) s = .next (trapped s o.hd 0x40
         (BitVec.ofNat 64 (s.ttcOf s.me % 2 ^ 56 * 0x100 + 4))))))
  ∧
  ((∀ (s : State) (o : CrgnOps), slotRuns s o.hd [] →
     (s.me.mode = .task → s.me.regions.length < 4 →
       exec (.crgnOpen o) s = .next (asked s (fun q => { q with opened := some o.lit.toNat })))
     ∧ (s.me.mode = .task → 4 ≤ s.me.regions.length → exec (.crgnOpen o) s = .next (trapped s o.hd 0x44 5))
     ∧ (s.me.mode ≠ .task → exec (.crgnOpen o) s = .next (trapped s o.hd 0x44 7)))
   ∧ (∀ (s : State) (h : Hd), slotRuns s h [] →
     (s.me.mode = .task → s.me.regions ≠ [] → s.me.upend = [] →
       exec (.crgnClose h) s = .next (asked s (fun q => { q with closed := true })))
     ∧ (s.me.mode = .task → s.me.regions ≠ [] → s.me.upend ≠ [] → exec (.crgnClose h) s = .next (s.setMe s.me))
     ∧ (s.me.mode = .task → s.me.regions = [] → exec (.crgnClose h) s = .next (trapped s h 0x44 6))
     ∧ (s.me.mode ≠ .task → exec (.crgnClose h) s = .next (trapped s h 0x44 7))))
  ∧
  ((∀ (s : State) (h : Hd), enabled s.me h = true → s.me.suppNow.getLsbD h.slot.num = false →
     exec (.nop h) s = .next (s.setMe s.me))
   ∧ (∀ (s : State) (o : ImmOps), slotRuns s o.hd [] →
     exec (.trap o) s = .next (trapped s o.hd 0x06 (o.imm.signExtend 64)))
   ∧ (∀ (s : State) (h : Hd), slotRuns s h [] →
     (s.me.mode ≠ .task → exec (.eret h) s = .next (asked s (fun q => { q with eret := true })))
     ∧ (s.me.mode = .task → exec (.eret h) s = .next (trapped s h 0x04 0))
     ∧ (s.me.regions = [] → s.me.mode = .task → exec (.done h) s = .next (asked s (fun q => { q with done := true })))
     ∧ (s.me.regions = [] → s.me.mode ≠ .task → exec (.done h) s = .next (trapped s h 0x03 0x44))
     ∧ (s.me.regions ≠ [] → exec (.done h) s = .next (trapped s h 0x44 4)))
   ∧ (∀ (s : State) (o : TestRdOps), slotRuns s o.hd [] →
     exec (.testRd o) s = .next (staged s o.hd 1 (.g o.d.toNat
       (BitVec.ofNat 64 (fieldLE (tget [] s.mgmt.testRd (s.act / 5)) (8 * o.w.toNat) 8)))))
   ∧ (∀ (s : State) (o : MHeadOps) (k : Kernel), slotRuns s o.hd [] → s.kernelOf s.me = some k →
     exec (.mhead o) s = .next (staged s o.hd 1 (.g o.d.toNat
       (BitVec.ofNat 64 (fieldLE k.mhead (8 * o.w.toNat) 8))))))

/-! ## Taking a trap and returning (11) -/

/-- R261, R264: a trap that does not end the kernel, in task mode and with a handler, saves its record, and goes to
the handler in handler mode, one package cycle later; SUPP is cleared; any other ends the kernel, and one of a PAGE
fault of a beat leaves its information and iteration vector (R219). R264, R333: ERET returns to task mode at
sr.tpc, with the delay bundles, the branch target and SUPP of the record; SUPP is used once, and the handler's
own loop levels go. A return right after a trap that nothing edited restores the task as it stood. -/
def Obligations.TrapsAndReturns : Prop :=
  (∀ (s : State) (c : Core) (t : TrapReq) (pc : Nat),
     ((t.code ≥ 0x40 ∨ c.mode ≠ .task ∨ c.tvb = 0) →
       takeTrap s c t pc = { endWith c ⟨t.code, t.info.toNat, c.mode != .task⟩ with
         trapped := true
         trap := if t.code = 0x42 && t.eng then { c.trap with info := t.info, iter := t.iter } else c.trap
         found := if t.code = 0x60 then c.found ++ [eventUnit (t.info.toNat % 64) t.info.toNat] else c.found })
     ∧ (c.kfault = none → (endWith c ⟨t.code, t.info.toNat, c.mode != .task⟩).kfault
         = some ⟨t.code, t.info.toNat, c.mode != .task⟩)
     ∧ (t.code < 0x40 → c.mode = .task → c.tvb ≠ 0 →
       let d := takeTrap s c t pc
       d.mode = .handler ∧ d.pc = c.tvb.toNat ∧ d.hNextAt = some (s.cyc + 1) ∧ d.dly = 0 ∧ d.suppNow = 0
       ∧ d.trap.code = BitVec.ofNat 8 t.code ∧ d.trap.info = t.info ∧ d.trap.iter = t.iter
       ∧ d.trap.slot = BitVec.ofNat 3 t.slot ∧ d.trap.eng = t.eng ∧ d.trap.nest = false ∧ d.trap.supp = 0
       ∧ (c.done = false → d.trap.pc = BitVec.ofNat 64 pc) ∧ (c.done = true → d.trap.pc = 0)
       ∧ (c.dly = 0 → d.trap.br = 0) ∧ (0 < c.dly → d.trap.br = BitVec.ofNat 64 c.br)
       ∧ d.trap.dly = BitVec.ofNat 2 c.dly ∧ d.kfault = c.kfault
       ∧ d.g = c.g ∧ d.p = c.p ∧ d.v = c.v ∧ d.m = c.m ∧ d.x = c.x ∧ d.f = c.f ∧ d.c = c.c ∧ d.priv = c.priv
       ∧ d.loops = c.loops ∧ d.inflight = c.inflight ∧ d.tvb = c.tvb))
  ∧
  ((∀ c : Core,
     let d := returnFromTrap c
     d.mode = .task ∧ d.pc = c.trap.pc.toNat ∧ d.dly = c.trap.dly.toNat ∧ d.br = c.trap.br.toNat
     ∧ d.suppNow = c.trap.supp ∧ d.trap.supp = 0 ∧ d.loops = c.loops.filter (fun l => !l.sys)
     ∧ d.g = c.g ∧ d.p = c.p ∧ d.v = c.v ∧ d.m = c.m ∧ d.x = c.x ∧ d.f = c.f ∧ d.c = c.c ∧ d.priv = c.priv
     ∧ d.inflight = c.inflight ∧ d.tvb = c.tvb)
   ∧ (∀ (s : State) (c : Core) (t : TrapReq), t.code < 0x40 → c.mode = .task → c.tvb ≠ 0 → c.done = false →
     c.pc < 2 ^ 64 → c.dly < 4 → c.br < 2 ^ 64 → (∀ l ∈ c.loops, l.sys = false) →
     let d := returnFromTrap (takeTrap s c t c.pc)
     d.mode = c.mode ∧ d.pc = c.pc ∧ d.dly = c.dly ∧ (0 < c.dly → d.br = c.br) ∧ d.loops = c.loops
       ∧ d.callAt = c.callAt ∧ d.brFrom = c.brFrom))

/-! ## Landing (07, 09) -/

/-- R285, R286, R334: what a landing register write does: its register takes the value, under its mask, and no other
register changes; g0, p0, p1 and m0 keep their fixed values. R172, R348, R410: at the end of a cycle the results
that have come due land, in the order of R172, each by its register write, and no other state changes: first the
returns of the Keystones, the core's own results, the transform units' registers, each by its own row. -/
def Obligations.ResultsLand : Prop :=
  (∀ c : Core,
     (∀ r w q, gRead (applyWrite c (.g r w)) q = if q = 0 then 0 else if q = r then w else gRead c q)
     ∧ (∀ r b q, r < 16 → pRead (applyWrite c (.p r b)) q =
         if q = 0 then true else if q = 1 then false else if q = r then b else pRead c q)
     ∧ (∀ r mask w q, vRead (applyWrite c (.v r mask w)) q = if q = r then mergeLanes mask (vRead c r) w else vRead c q)
     ∧ (∀ r mask w q, mRead (applyWrite c (.m r mask w)) q =
         if q = 0 then 0xFFFFFFFFFFFFFFFF
         else if q = r then (mRead c r &&& ~~~mask) ||| (w &&& mask) else mRead c q)
     ∧ (∀ r w q, xRead (applyWrite c (.x r w)) q = if q = r then w else xRead c q)
     ∧ (∀ r w q, fRead (applyWrite c (.f r w)) q = if q = r then w else fRead c q)
     ∧ (∀ r w, (applyWrite c (.g r w)).p = c.p ∧ (applyWrite c (.g r w)).v = c.v ∧ (applyWrite c (.g r w)).m = c.m
       ∧ (applyWrite c (.g r w)).x = c.x ∧ (applyWrite c (.g r w)).f = c.f ∧ (applyWrite c (.g r w)).priv = c.priv)
     ∧ (∀ r mask w, (applyWrite c (.v r mask w)).g = c.g ∧ (applyWrite c (.v r mask w)).p = c.p
       ∧ (applyWrite c (.v r mask w)).m = c.m ∧ (applyWrite c (.v r mask w)).x = c.x
       ∧ (applyWrite c (.v r mask w)).f = c.f ∧ (applyWrite c (.v r mask w)).priv = c.priv))
  ∧
  ((∀ ls : List Landing, (sortLandings ls).Perm ls ∧ (sortLandings ls).Pairwise (fun a b => landBefore a b = true))
   ∧ (∀ (s : State) (core : Nat),
     let c := s.core core
     let lands := fun (pick : Landing → Bool) => Host.Outcome.next (φ := Fault) (ρ := Refusal)
       (s.setCore core ((sortLandings (c.inflight.filter (fun l => pick l && l.due.reached s c))).foldl
         (landOne (s.ttcOf c)) { c with
           inflight := c.inflight.filter (fun l => !(pick l && l.due.reached s c)) }))
     exec (.keystoneReturn core) s = lands isReturn
     ∧ exec (.resultLand core) s = lands (fun l => !isReturn l && !isXres l)
     ∧ exec (.transformResult core) s = lands isXres)
   ∧ (∀ (ttc : Nat) (c : Core) (l : Landing), l.shadow = none → l.lost = true →
     landOne ttc c l = { c with pend := if l.long then pendClear c.pend l.write.reg? else c.pend })
   ∧ (∀ (ttc : Nat) (c : Core) (l : Landing), l.shadow = none → l.lost = false →
     let d := landOne ttc c l
     d.g = (applyWrite c l.write).g ∧ d.p = (applyWrite c l.write).p ∧ d.v = (applyWrite c l.write).v
       ∧ d.m = (applyWrite c l.write).m ∧ d.x = (applyWrite c l.write).x ∧ d.f = (applyWrite c l.write).f
       ∧ d.xres = (applyWrite c l.write).xres ∧ d.priv = c.priv ∧ d.kfault = c.kfault))

/-! ## What lands and completes in a core (09, 19) -/

/-- R356, R359, R361, R362: an OLOAD in its completion cycle leaves its slot LOADED with the bytes, rows and format
tag read (CLAIMED after a fault); a WLOAD leaves its slot LOADED with its 16 KiB and kind; an MPLOAD leaves its
place with its routine under its tag, and no other place with that tag. R372 to R374: an MCALL of one core
commits in its commit cycle: every entry that it names takes what its steps leave of it, HEAD moves on by its pushes, the
pushed entries are QUEUED, sr.mclip0 and sr.mclip1 show what it clipped, and the core has no MCALL in flight; with the
re-execute action and something clipped, it first re-executes, and commits when that is done. R61, R368: a step adds
each segment's value, rounded once, to every element of its rows, from the old value or, NEW, from −0; R63, R371: its E
word and CLIPANY. R369: with s = 0 a segment of I8 is the exact sum of products; a part's split sum in which no plane
clips lies within 2^s − 1 of it. -/
def Obligations.MatrixCompletions : Prop :=
  ((∀ (s : State) (core : Nat) (o : OLoad), (s.core core).oload = some o → oloadLatency o ≤ o.k →
     let x := actOf (s.core core) o.slot
     ∃ t, exec (.oloadComplete core) s = .next t ∧ t = s.setCore core (t.core core)
       ∧ (t.core core).oload = none ∧ (t.core core).g = (s.core core).g ∧ (t.core core).priv = (s.core core).priv
       ∧ (o.failed = true → actOf (t.core core) o.slot = { x with
           st := .claimed, bytes := o.data ++ x.bytes.drop o.data.length, lossy := o.lossy || x.lossy })
       ∧ (o.failed = false → actOf (t.core core) o.slot = { x with
           st := .loaded, code := o.code, rows := o.rows, bytes := o.data ++ x.bytes.drop o.size
           lossy := o.lossy || (x.lossy && decide (o.size < x.bytes.length)) })
       ∧ ∀ k, k ≠ o.slot → actOf (t.core core) k = actOf (s.core core) k)
   ∧ (∀ (s : State) (core : Nat) (w : WLoad), (s.core core).wload = some w → wloadLatency w.src ≤ w.k →
     let x := wtOf (s.core core) w.slot
     ∃ t, exec (.wloadComplete core) s = .next t ∧ t = s.setCore core (t.core core)
       ∧ (t.core core).wload = none ∧ (t.core core).g = (s.core core).g ∧ (t.core core).priv = (s.core core).priv
       ∧ wtOf (t.core core) w.slot = { x with
           st := .loaded, bytes := w.data, int4 := w.int4, lossy := w.lossy || (x.lossy && w.ue) }
       ∧ ∀ k, k ≠ w.slot → wtOf (t.core core) k = wtOf (s.core core) k)
   ∧ (∀ (s : State) (core : Nat) (m : MpLoad), (s.core core).mploads = [m] → m.due.reached s (s.core core) = true →
     exec (.mploadWrite core) s = .next (s.setCore core { s.core core with
       mploads := []
       store := tset ((s.core core).store.filter (fun p => p.2.1 != m.tag)) m.place (m.tag, m.image) })))
  ∧
  (∀ (s : State) (core : Nat) (m : MCall), (s.core core).mcall = some m → imgCoop m.image = false →
     (s.core core).glitch = none →
     let c := s.core core
     let clips := mcallClips c m
     let committed := fun (t : State) (redo : Bool) => t.free = s.free + 1 ∧ (t.core core).mcall = none
       ∧ (∀ e, e < 8 →
         let mine := (mcallSteps c m).filter (fun x => x.entry == e)
         let w := mine.foldl (fun w x => stepEntry s.free m.s clips redo x w) (ringOf c e)
         ringOf (t.core core) e = { w with
           st := if (List.range (imgPush m.image)).any (fun i => (c.head + i) % 8 == e) then .queued
                 else if mine.isEmpty then w.st else .opened })
       ∧ (c.head < 8 → (t.core core).head = (c.head + imgPush m.image) % 8)
       ∧ (t.core core).mclip0 = clipMask clips 0 ∧ (t.core core).mclip1 = clipMask clips 1
       ∧ (t.core core).g = c.g ∧ (t.core core).priv = c.priv ∧ (t.core core).tail = c.tail
       ∧ t.mem = s.mem ∧ t.kernels = s.kernels
       ∧ (∀ n, n ≠ core → t.core n = s.core n)
     (m.len ≤ m.k → m.reexec = none → (m.clip ≠ 2 ∨ clips = []) →
       ∃ t, exec (.mcallCommit core) s = .next t ∧ committed t false)
     ∧ (m.len ≤ m.k → m.reexec = none → m.clip = 2 → clips ≠ [] →
       exec (.mcallCommit core) s = .next (s.setCore core { c with
         mcall := some { m with reexec := some (reexecCycles c m clips) } }))
     ∧ (m.reexec = some 0 → ∃ t, exec (.clipReexecuteDone core) s = .next t ∧ committed t true))
  ∧
  ((∀ (free sp : Nat) (cl : List (Nat × Nat × Nat)) (redo : Bool) (x : StepRun) (w : RingEntry),
     let y := stepEntry free sp cl redo x w
     let digital := fun q => redo && clipped cl x.t q
     let e0 : Word32 := if x.st.fresh then 0 else w.e
     (∀ r n, r < x.rows → n < 128 → tget 0 y.vals (128 * r + n) = x.segs.foldl (fun a q =>
         f32Round 0 ((f32Val a).add false (f32Val (f32Round 0
           (segValue x.data (if digital q then 0 else sp) q r n [n, x.t, q, free])))))
         (if x.st.fresh then 0x80000000 else tget 0 w.vals (128 * r + n)))
     ∧ (∀ k, 128 * x.rows ≤ k → tget 0 y.vals k = tget 0 w.vals k)
     ∧ (sp = 0 → y.e = e0)
     ∧ (sp ≠ 0 → y.e = x.segs.foldl (fun e q => if digital q then e else
         f32Round 2 ((f32Val e).add false ((Machine.Num.ofInt (2 ^ sp - 1)).mul (segScale x.data q x.rows)))) e0)
     ∧ y.clipAny = ((!x.st.fresh && w.clipAny) || (!redo && x.segs.any (clipped cl x.t))) ∧ y.st = w.st)
   ∧ (∀ (d : StepData) (q r n : Nat) (key : List Nat), d.kind ≠ 2 → d.code = 11 →
     segValue d 0 q r n key = .ofInt (((List.range 64).map (64 * q + ·)).foldl
       (fun acc p => acc + actCode d r p * weightAt d p n) 0))
   ∧ (∀ (d : StepData) (sp r n : Nat) (key ps : List Nat),
     (∀ b, b < sp → planeClips (planeSum d r n b ps) = false) →
     let exact := ps.foldl (fun acc p => acc + actCode d r p * weightAt d p n) (0 : Int)
     splitSum d sp r n key ps - exact ≤ 2 ^ sp - 1 ∧ exact - splitSum d sp r n key ps ≤ 2 ^ sp - 1))

/-- R390: a command starts in its start cycle, while its kernel runs: it leaves the buffer, its tiles become ENGAGED
and it goes on as a run; a source tile that the engines do not own is slip 1, and the command has no effect.
Entries whose start has not come stay. R168, R373, R378, R400: beat j of a pop writes its bytes in cycle 20 + j of the
pop; outside the Q formats they are the row's elements, scaled and biased, encoded with the destination's code (R58: with
the residual of the elements before it in its group of 64 columns), zeros up to a whole beat, and last the trailer; a pop
completes with its entry FREE and TAIL moved on; a CTAB.LD in its last cycle writes its slot, or empties it and raises subcode 0xB when its image is
refused; a command in its completion cycle leaves the core. -/
def Obligations.Engines : Prop :=
  (∀ (s : State) (core : Nat) (k : Kernel), s.kernelOf (s.core core) = some k → k.st = .running →
     k.flows = true →
     let c := s.core core
     ((∀ x ∈ c.buf, k.ttc < x.start) → exec (.engineStart core) s = .next s)
     ∧ (∀ x, dueCommands c k.ttc = [x] → x.op = 1 ∨ x.op = 4 ∨ x.op = 5 →
       let src := srcSide k x.desc
       let dst := dstSide k x.desc
       let ranges := privateRanges x src dst
       let srcTiles := (ranges.1.flatMap tilesOf).eraseDups
       let tiles := (srcTiles ++ (ranges.2.flatMap tilesOf).eraseDups).eraseDups
       let kept := { c with buf := c.buf.filter (fun y => y.order != x.order) }
       src.far = false → dst.far = false → (∀ r ∈ ranges.1 ++ ranges.2, r.1 + r.2 ≤ 0x100000) →
       ((∀ t ∈ srcTiles, engineOwned c t = true) →
         unarmedIn c (ranges.1 ++ ranges.2) →
         exec (.engineStart core) s = .next (s.setCore core
           { (updTiles tileEngage kept tiles) with runs := c.runs ++ [newRun s k kept x src dst tiles] }))
       ∧ ((∃ t ∈ srcTiles, engineOwned c t = false) →
         exec (.engineStart core) s = .next (s.setCore core (raiseEng kept
           ⟨0x40, BitVec.ofNat 64 (k.time % 2 ^ 56 * 0x100 + 1), 0, 6, true⟩)))
       ∧ ((∀ t ∈ srcTiles, engineOwned c t = true) → ∀ b, armedIn c (ranges.1 ++ ranges.2) = some b →
         exec (.engineStart core) s = .next (s.setCore core (raiseEng kept
           ⟨0x0B, BitVec.ofNat 64 b, 0, 6, true⟩)))))
  ∧
  ((∀ (s : State) (core : Nat) (o : Pop), (s.core core).pop = some o → 20 + o.beats ≤ o.k →
     ∃ t, exec (.epiPopComplete core) s = .next t ∧ t = s.setCore core (t.core core) ∧ (t.core core).pop = none
       ∧ (t.core core).tail = ((s.core core).tail + 1) % 8 ∧ (ringOf (t.core core) o.entry).st = .free
       ∧ (t.core core).g = (s.core core).g ∧ (t.core core).priv = (s.core core).priv)
   ∧ (∀ (s : State) (c : Core) (o : Pop), c.pop = some o → flowsFor s c o.sys = true → o.failed = false → 20 ≤ o.k →
     o.k < 20 + o.beats → struck c 2 = none → o.found = none → popTrap c o.code (popAddr o (o.k - 20)) = none →
     popUe c o (o.k - 20) = none →
     (popAdvance s c).kfault = c.kfault ∧ (popAdvance s c).engWrites = c.engWrites ++ cellsFrom (popAddr o (o.k - 20))
       ((if o.k = 20 then popOut c o else o.out).getD (o.k - 20) []))
   ∧ (∀ (c : Core) (o : Pop), struck c 2 = none → isQ o.code = false →
     let rows := imageByte o.header 0
     let cols := imageByte o.header 2
     let size := elemBytes o.code
     let per := ceilDiv (cols * size) 64
     let byte := fun r p => ((popOut c o).getD (r * per + p / 64) []).getD (p % 64) 0
     (∀ (r n k : Nat) (res : Nat → Machine.Num), r < rows → n < cols → k < size → (∀ j, j % 64 = 0 → res j = .zero) →
       (∀ j, j % 64 ≠ 63 → res (j + 1) = (popEncodeElem o.code o.mode (popValue c o o.round r j) (res j)).2) →
       byte r (n * size + k)
         = BitVec.ofNat 8 ((popEncodeElem o.code o.mode (popValue c o o.round r n) (res n)).1 / 256 ^ k))
     ∧ (∀ r p, r < rows → cols * size ≤ p → p < 64 * per → byte r p = 0)
     ∧ (0 < cols → imageByte o.header 7 % 2 = 1 → (popOut c o).getD (rows * per) []
       = natLE 4 (ringOf c o.entry).e.toNat ++ [if (ringOf c o.entry).clipAny then 1 else 0] ++ List.replicate 59 0))
   ∧ (∀ (c : Core) (o : Pop) (r n : Nat),
     let par := fun (i : Nat) => f32Val (BitVec.ofNat 32 (fieldLE o.params (4 * i) 4))
     let m := if o.mode = 4 then 0 else o.mode
     let z := f32Round m (((f32Val (tget 0 (ringOf c o.entry).vals (128 * r + n))).mul (par n)).add (roundsDown m)
       (par (128 + n)))
     popValue c o o.round r n = if imageByte o.header 4 = 0 then z else
       tieLane c 0 (imageByte o.header 4 - 1) (BitVec.ofNat 32 (fieldLE o.header 0x0C 4))
         (BitVec.ofNat 32 (fieldLE o.header 0x10 4)) (imageByte o.header 5) (imageByte o.header 6) z)
   ∧ (∀ (s : State) (core : Nat) (x : PumpRun), (s.core core).runs = [x] → x.cmd.op = 6 → x.k = 24 →
     x.stopped = false →
     let slot := x.cmd.variant / 32 % 4
     exec (.ctabLdComplete core) s = .next (s.setCore core { s.core core with
       ctab := if tableRefused x.table then tdel (s.core core).ctab slot else tset (s.core core).ctab slot x.table
       runs := [{ x with
         stopped := true
         trap := if tableRefused x.table then some (0x03, 0x5B, 0) else none }] }))
   ∧ (∀ (s : State) (core : Nat), flowsFor s (s.core core) false = true →
     (∀ x ∈ (s.core core).runs, x.over = false) →
     exec (.engineComplete core) s = .next (s.setCore core (s.core core)))
   ∧ (∀ (s : State) (core : Nat), flowsFor s (s.core core) false = true →
     ∃ t, exec (.engineComplete core) s = .next t ∧ t = s.setCore core (t.core core)
       ∧ (t.core core).runs = (s.core core).runs.filter (fun x => !x.over) ∧ (t.core core).priv = (s.core core).priv))

/-- R186, R412: an atomic performs on its word at its perform cycle, returns the old word, extended by its type, at
the cycle its issue fixed, and changes no other byte of the sync pages; R266: the sum is shadowed, and that with a fault
in the adder the wrong sum is what is written is the model's choice (log entry 131; R267 speaks of register writes). R189, R415, R416: RED.ADD puts its
value into its role's slot of the word's line, or adds it there, and takes a new line where the word has none; RED.COMB
folds the written slots of its word in role order onto the word, empties them, and returns the result; with a line of
the other class, or no line free, the operation has no effect and raises subcode 6 or 5 in its core. -/
def Obligations.KeystonesPerform : Prop :=
  (∀ (s : State) (o : KOp) (op ty : Nat) (b c : Word64), firstOp s.cyc s.ks.ops = some o →
     o.kind = .atomic op ty b c → s.mem.ue.contains (8, o.addr / 64) = false → struck (s.core o.phys) 4 = none →
     Memory.wf s.mem.kmem = true → op < 10 →
     let w := typeWidth ty
     let old := readLE s.mem.kmem o.addr w
     b.toNat < 2 ^ (8 * w) → c.toNat < 2 ^ (8 * w) →
     let sum := old + b.toNat
     let new := match op with
       | 0 => if ty = 2 then (f32Add 0 (BitVec.ofNat 32 old) (BitVec.ofNat 32 b.toNat)).toNat else sum % 2 ^ (8 * w)
       | 1 => if old ≥ b.toNat then 0 else old + 1
       | 2 => if sum ≤ c.toNat then sum else old
       | 3 => if old = b.toNat then c.toNat else old
       | 4 => b.toNat
       | 5 => typedMin ty old b.toNat
       | 6 => typedMax ty old b.toNat
       | 7 => Nat.land old b.toNat
       | 8 => Nat.lor old b.toNat
       | _ => Nat.xor old b.toNat
     let ret := fun wr => { write := wr, due := o.due, rank := 0, issue := o.issue, slot := 6, long := true : Landing }
     ∃ t, exec .keystonePerform s = .next t ∧ t.ks.ops = s.ks.ops.erase o
       ∧ readLE t.mem.kmem o.addr w = new
       ∧ (∀ a, (a < o.addr ∨ o.addr + w ≤ a) → memRead t.mem.kmem a = memRead s.mem.kmem a)
       ∧ t.mem.phys = s.mem.phys ∧ t.mem.csram = s.mem.csram ∧ t.mem.qmem = s.mem.qmem
       ∧ (t.core o.phys).inflight = (s.core o.phys).inflight
           ++ [ret (.g o.d (if ty = 0 then (BitVec.ofNat 32 old).signExtend 64 else BitVec.ofNat 64 old))]
           ++ (if op = 2 then [ret (.p (2 * o.pair) (decide (sum ≤ c.toNat))),
                 ret (.p (2 * o.pair + 1) (!decide (sum ≤ c.toNat)))] else [])
       ∧ (∀ n, n ≠ o.phys → t.core n = s.core n))
  ∧
  (∀ (s : State) (o : KOp) (b c : Word64) (x : Glitch), firstOp s.cyc s.ks.ops = some o →
     o.kind = .atomic 0 2 b c → s.mem.ue.contains (8, o.addr / 64) = false → struck (s.core o.phys) 4 = some x →
     Memory.wf s.mem.kmem = true →
     ∃ t, exec .keystonePerform s = .next t ∧ (t.core o.phys).glitch = none
       ∧ readLE t.mem.kmem o.addr 4 = x.wrong.toNat % 2 ^ 32
       ∧ ∀ a, (a < o.addr ∨ o.addr + 4 ≤ a) → memRead t.mem.kmem a = memRead s.mem.kmem a)
  ∧
  (∀ (s : State) (o : KOp) (ty : Nat), firstOp s.cyc s.ks.ops = some o → o.kind = .redComb ty →
     s.mem.ue.contains (8, o.addr / 64) = false → struck (s.core o.phys) 4 = none →
     Memory.wf s.mem.kmem = true → (ty = 0 ∨ ty = 1 ∨ ty = 2) →
     (∀ l ∈ s.ks.lines, l.kid = o.kid → l.word = o.addr → l.float = (ty == 2)) →
     let slots := match s.ks.lines.find? (fun l => l.kid == o.kid && l.word == o.addr) with
       | none => []
       | some l => l.slots
     let sum := slots.foldl (fun v p => if ty = 2 then f32Add 0 v p.2 else v + p.2)
       (BitVec.ofNat 32 (readLE s.mem.kmem o.addr 4))
     ∃ t, exec .keystonePerform s = .next t ∧ readLE t.mem.kmem o.addr 4 = sum.toNat
       ∧ (∀ l ∈ t.ks.lines, ¬(l.kid = o.kid ∧ l.word = o.addr))
       ∧ (∀ l ∈ s.ks.lines, ¬(l.kid = o.kid ∧ l.word = o.addr) → l ∈ t.ks.lines)
       ∧ (t.core o.phys).inflight = (s.core o.phys).inflight
           ++ [{
                 write := .g o.d (if ty = 0 then sum.signExtend 64 else sum.setWidth 64), due := o.due, rank := 0,
                 issue := o.issue, slot := 6, long := true }])
  ∧
  (∀ (s : State) (o : KOp) (ty : Nat) (b : Word64), firstOp s.cyc s.ks.ops = some o → o.kind = .redAdd ty b →
     s.mem.ue.contains (8, o.addr / 64) = false → struck (s.core o.phys) 4 = none →
     let float := ty == 2 || ty == 5
     let x : Word32 := if ty = 5 then BitVec.ofNat 32 (b.toNat % 0x10000 * 0x10000) else b.setWidth 32
     let line := s.ks.lines.find? (fun l => l.kid == o.kid && l.word == o.addr)
     let room := (s.ks.lines.filter (fun l => l.kid == o.kid && l.pier == homeOf s o.addr)).length < 64
     (∀ l, line = some l → l.float = float →
       let v := match tfind l.slots o.role with
         | none => x
         | some y => if float then f32Add 0 y x else y + x
       ∃ t, exec .keystonePerform s = .next t ∧ t.mem.kmem = s.mem.kmem ∧ t.ks.ops = s.ks.ops.erase o
         ∧ t.ks.lines = s.ks.lines.map (fun z =>
             if z.kid = o.kid ∧ z.word = o.addr then { z with slots := tset z.slots o.role v } else z))
     ∧ (line = none → room → ∃ t, exec .keystonePerform s = .next t ∧ t.mem.kmem = s.mem.kmem
       ∧ t.ks.ops = s.ks.ops.erase o
       ∧ t.ks.lines = s.ks.lines ++ [{
           kid := o.kid, pier := homeOf s o.addr, word := o.addr, float := float, slots := [(o.role, x)] }])
     ∧ (line = none → ¬room → ∃ t, exec .keystonePerform s = .next t ∧ t.mem.kmem = s.mem.kmem
       ∧ t.ks.lines = s.ks.lines ∧ t.ks.ops = s.ks.ops.erase o ++ [{ o with kind := .failed (some 5) }]))
  ∧
  (∀ (s : State) (o : KOp) (float : Bool) (l : Staging), firstOp s.cyc s.ks.ops = some o →
     ((∃ ty, o.kind = .redComb ty ∧ float = (ty == 2)) ∨ ∃ ty b, o.kind = .redAdd ty b ∧ float = (ty == 2 || ty == 5)) →
     s.mem.ue.contains (8, o.addr / 64) = false →
     s.ks.lines.find? (fun l => l.kid == o.kid && l.word == o.addr) = some l → l.float ≠ float →
     ∃ t, exec .keystonePerform s = .next t ∧ t.mem.kmem = s.mem.kmem ∧ t.ks.lines = s.ks.lines
       ∧ t.ks.ops = s.ks.ops.erase o ++ [{ o with kind := .failed (some 6) }]
       ∧ (t.core o.phys).inflight = (s.core o.phys).inflight)
  ∧
  (∀ (s : State) (o : KOp) (n : Nat), o.kind = .failed (some n) → (s.core o.phys).engTrap = none →
     ((settleFailed s o).core o.phys).engTrap
       = some ⟨0x03, BitVec.ofNat 64 (o.va.toNat % 2 ^ 48 * 0x10000 + 0x40 + n), 0, 6, true⟩)

/-! ## The variable boundary (10) -/

/-- R187, R188, R245, R395, R403, R454: the first command of a stream that may leave does: a COLL.START reaches the
collective engine; an arrival becomes a message to the node of its handle, and the next 64 sectors of a remote write,
fewer only in its last message, a message to its node, each sector under its own address; a remote read goes; the
command, or what was sent of it, leaves its stream, and no memory changes but the list of reads. That a remote read is
no message of the link, and that one of the node itself is served from its own memory, are the model's choice (log
entry 45), as are the flits of a strided message (log entry 46) and that a sector whose source could not be read is
left out (log entry 133). -/
def Obligations.OutboundCommandsLeave : Prop :=
  ∀ (s : State) (core : Nat) (t : Stream) (o : OutCmd) (behind : Bool),
    (streamsOn s core).find? (sendReady s) = some t → nextSend t.cmds false = some (o, behind) →
    (∀ va, o.kind = .coll va → ∃ u, exec (.outboundSend core) s = .next u ∧ u.mem = s.mem ∧ u.cores = s.cores
      ∧ u.kernels = s.kernels ∧ u.streams = (setCmd s t o none).streams
      ∧ u.link = { s.link with colls := s.link.colls
          ++ [newColl va (ctxOf s t.kid) (some t.kid) none (some (t.kid, t.role, o.order))] })
    ∧ (∀ h, o.kind = .arrive h → ∃ u m, exec (.outboundSend core) s = .next u ∧ u.mem = s.mem
      ∧ u.streams = (setCmd s t o none).streams ∧ u.link.queueOut = s.link.queueOut ++ [m]
      ∧ m.node = bitsOf h 45 40 ∧ m.type = 2 ∧ m.addr = h % 2 ^ 48 ∧ m.data = [])
    ∧ (∀ node ss handle bs, o.kind = .remoteWrite node ss handle bs →
      let n := messageSectors o.sent ss.length
      let carried := carriedSectors o ss.length
      ∃ u, exec (.outboundSend core) s = .next u ∧ u.mem = s.mem
        ∧ u.streams = (setCmd s t o
            (if o.sent + n < ss.length then some { o with sent := o.sent + n } else none)).streams
        ∧ (carried = [] → u.link = s.link ∧ u.cores = s.cores)
        ∧ (carried ≠ [] → ∃ m, u.link.queueOut = s.link.queueOut ++ [m]
          ∧ m.node = node ∧ m.type = 1 ∧ m.addr = ss.getD (carried.headD 0) 0 % 2 ^ 48 ∧ m.handle = handle % 2 ^ 64
          ∧ m.data = carried.flatMap (fun i => (bs.drop (64 * i)).take 64)
          ∧ m.places = carried.map (fun i => ss.getD i 0 % 2 ^ 48)))
    ∧ (∀ node ss, o.kind = .remoteRead node ss →
      (node ≠ s.link.self → exec (.outboundSend core) s = .next (setCmd s t o none))
      ∧ (node = s.link.self → ∃ u, exec (.outboundSend core) s = .next u ∧ u.streams = (setCmd s t o none).streams
        ∧ u.mem = { s.mem with reads := u.mem.reads } ∧ u.cores = s.cores
        ∧ (ss ≠ [] → ss.length ≤ 64 →
          ((∃ a ∈ ss, servedSector s (ctxOf s t.kid) a = none) →
            u.mem.reads = s.mem.reads.filter (fun r => !readAsked s t o ss r)
            ∧ (nodeOf u.link node).outset = min ((nodeOf s.link node).outset + 1) 0xFFFFFFFF)
          ∧ ((∀ a ∈ ss, servedSector s (ctxOf s t.kid) a ≠ none) →
            u.mem.reads = s.mem.reads.map (fun r =>
              if readAsked s t o ss r then { r with data := servedSector s (ctxOf s t.kid) r.src } else r)
            ∧ u.link = s.link))))
    ∧ (∀ dur, o.kind = .fence dur → ∃ u, exec (.outboundSend core) s = .next u ∧ u.mem = s.mem
      ∧ u.cores = s.cores ∧ u.link = s.link ∧ u.streams = (setCmd s t o none).streams)

/-- R192, R199: the next sector of a Well write is accepted behind the sectors accepted before it, and storage does
not change yet (one whose source could not be read is passed over: the model's choice, log entry 133); an accepted sector that may persist replaces its 64 bytes of storage, under its key, and no
other byte but STATE in the recovery record of a kernel that has ended with it. R200, R225: the oldest open epoch of a stream becomes durable once it is ended and nothing of it or
of an earlier one is left; the stream's count of durable epochs grows by 1, and its waiting PBARs of that epoch
go. -/
def Obligations.WellSectorsPersist : Prop :=
  ((∀ (s : State) (core : Nat) (t : Stream) (o : OutCmd) (ss : List (Nat × Nat)) (bs : List Byte),
     (streamsOn s core).findSome? (fun t => (nextWell t.cmds).map (fun o => (t, o))) = some (t, o) →
     o.kind = .wellWrite ss bs →
     (o.sent ∈ o.lost → exec (.wellSectorAccept core) s = .next (setCmd s t o
       (if o.sent + 1 < ss.length then some { o with sent := o.sent + 1 } else none)))
     ∧ (o.sent ∉ o.lost → ∃ u, exec (.wellSectorAccept core) s = .next u ∧ u.mem = { s.mem with
       lossy := u.mem.lossy
       pend := s.mem.pend ++ [{
         addr := (ss.getD o.sent (0, 0)).1, data := (bs.drop (64 * o.sent)).take 64,
         key := (ss.getD o.sent (0, 0)).2, src := some (t.kid, t.role, o.epoch) }] }))
   ∧ (∀ (s : State) (i : Nat) (w : WellSector), s.mem.pend[i]? = some w → mayPersist s i w = true →
     Memory.wf s.mem.phys = true → w.data.length = 64 → w.addr % 64 = 0 →
     (s.mem.key.map (fun p => p.1)).Pairwise (fun a b => a < b) →
     let final := fun (a : Nat) => ∃ kid role e k n, w.src = some (kid, role, e) ∧ s.kernel? kid = some k
       ∧ k.recSlot = some n ∧ a = recordAt k.slot n + 0x0C
     ∃ u, exec (.wellSectorDurable i) s = .next u ∧ u.mem.pend = s.mem.pend.eraseIdx i
       ∧ ((∀ a, w.addr ≤ a → a < w.addr + 64 → ¬final a) → physRead u.mem w.key w.addr 64 = w.data)
       ∧ (∀ a, (a < w.addr ∨ w.addr + 64 ≤ a) → ¬final a → memRead u.mem.phys a = memRead s.mem.phys a)
       ∧ u.mem.csram = s.mem.csram ∧ u.mem.kmem = s.mem.kmem ∧ u.mem.qmem = s.mem.qmem ∧ u.cores = s.cores)
   ∧ (∀ (s : State) (i : Nat) (w : WellSector), s.mem.pend[i]? = some w → mayPersist s i w = false →
     exec (.wellSectorDurable i) s = .next s))
  ∧
  (∀ (s : State) (core : Nat) (t : Stream), (streamsOn s core).find? (epochReady s) = some t → t.final = none →
     ∃ u, exec (.epochDurable core) s = .next u
       ∧ u.streams = s.streams.map (fun x => if x.kid = t.kid ∧ x.role = t.role then
           { x with depoch := t.depoch + 1, pbars := x.pbars.filter (fun p => decide (t.depoch + 1 ≤ p.1)) } else x)
       ∧ u.mem.pend = s.mem.pend ∧ u.mem.csram = s.mem.csram ∧ u.mem.kmem = s.mem.kmem ∧ u.cyc = s.cyc)

/-- R181, R195, R206, R207, R403: a returned sector lands with the writes of the cycle, in two runs where its landing
side is not aligned, and leaves the list of reads;
one with an uncorrectable error in the Well lands nothing, and aborts the barrier of its command with cause 4; a
barrier whose deadline has come, and only such a one, takes a time-out with cause 1. -/
def Obligations.ReadsReturnAndBarriersTimeOut : Prop :=
  (∀ (s : State) (i : Nat) (r : PendingRead) (d : List Byte), s.mem.reads[i]? = some r → r.data = some d →
    mayLand s r.inst = true → r.node.isSome = true →
    ∃ u, exec (.wellReadSectorLand i) s = .next u
      ∧ u.mem = { s.mem with
          reads := s.mem.reads.eraseIdx i
          writes := s.mem.writes ++ d.zipIdx.map (fun p => r.cell p.2 p.1) })
  ∧ (∀ (s : State) (i : Nat) (r : PendingRead) (d : List Byte), s.mem.reads[i]? = some r → r.data = some d →
    mayLand s r.inst = true → r.node = none →
    let bad := s.mem.ue.contains (7, r.src / 64) = true ∧ ∀ w ∈ s.mem.pend, w.addr ≠ r.src
    (¬bad → ∃ u, exec (.wellReadSectorLand i) s = .next u
      ∧ u.mem = { s.mem with
          reads := s.mem.reads.eraseIdx i
          taint := u.mem.taint
          writes := s.mem.writes ++
            (wellRead s.mem (leNat d) (r.src / 64)).zipIdx.map (fun p => r.cell p.2 p.1) })
    ∧ (bad →
      let m := { s.mem with reads := s.mem.reads.eraseIdx i }
      let u := readBar (takeInstance { s with mem := m } r.inst) r (.abort 4)
      exec (.wellReadSectorLand i) s = .next u ∧ u.mem = m))
  ∧ (∀ (r : PendingRead) (j : Nat) (b : Byte),
    (r.cut = none → r.cell j b = (r.dstKind, r.dst + j, b))
    ∧ (∀ n a kind, r.cut = some (n, a, kind) →
      (j < n → r.cell j b = (r.dstKind, r.dst + j, b)) ∧ (n ≤ j → r.cell j b = (kind, a + (j - n), b))))
  ∧ (∀ (s : State) (core addr : Nat),
    let c := s.core core
    let b := coreBar c addr
    (addr ∈ c.dir → barExpired (windowNow s) b = true → exec (.barrierTimeout core addr) s
      = .next (s.setCore core { c with barUps := c.barUps ++ [(addr, .abort 1)] }))
    ∧ (addr ∉ c.dir ∨ barExpired (windowNow s) b = false → exec (.barrierTimeout core addr) s = .next s))
  ∧ (∀ (window : Nat) (b : Bar), b.armed = true → b.abort = false → b.tmow ≠ 0 → b.dline < 2 ^ 32 →
    b.dline ≤ window → window < b.dline + 2 ^ 31 → barExpired window b = true)
  ∧ (∀ (window : Nat) (b : Bar), b.tmow = 0 ∨ b.armed = false ∨ b.abort = true → barExpired window b = false)

/-- R21, R192, R212, R221, R453: a service core's write of Cistern bytes lands at the end of the cycle, each byte
under the key value of its sector; one of Well bytes enters the ordered write path, an aligned sector as one
sector, and the Well port reports the write when its last sector is durable. Where a kernel holds a page of the
range, or the address is of neither, the service core takes an access fault and nothing is written. That an address
which R212 gives no storage faults is the model's choice (log entry 97); the key of a written byte and the form of
the replies are the model's too (log entries 49 and 132). -/
def Obligations.ServiceCoreWrites : Prop :=
  (∀ (s : State) (addr : Nat) (data : List Byte), hasStorage addr = true →
    (addr < 0x4000000000 → pagesHeld s addr data.length = false →
      exec (.serviceCisternWrite addr data) s = .next { s with
        mem := { s.mem with
          writes := s.mem.writes ++
            data.zipIdx.map (fun p => (1 + tget 0 s.mem.key ((addr + p.2) / 64), addr + p.2, p.1)) } })
    ∧ (0x4000000000 ≤ addr ∨ pagesHeld s addr data.length = true →
      exec (.serviceCisternWrite addr data) s = .next { s with replies := s.replies ++ [(s.cyc, .accessFault addr)] }))
  ∧ (∀ (s : State) (addr : Nat) (data : List Byte), addr % 64 = 0 → data.length = 64 → 0x20004000000 ≤ addr →
    addr + 64 ≤ 0x40000000000 → (∀ w ∈ s.mem.pend, w.addr / 64 ≠ addr / 64) →
    ∃ u, exec (.serviceWellWrite addr data) s = .next u ∧ u.free = s.free + 1 ∧ u.replies = s.replies
      ∧ u.mem = { s.mem with
          lossy := u.mem.lossy
          pend := s.mem.pend ++ [{
            addr := addr, data := data, key := tget 0 s.mem.key (addr / 64), src := none
            svc := some (s.free, addr, 64) }] })
  ∧ (∀ (s : State) (addr : Nat) (data : List Byte), hasStorage addr = true → data ≠ [] → addr < 0x20004000000 →
    exec (.serviceWellWrite addr data) s = .next { s with replies := s.replies ++ [(s.cyc, .accessFault addr)] })
  ∧ (∀ (s : State) (i : Nat) (w : WellSector) (n addr len : Nat), s.mem.pend = [w] → i = 0 → w.src = none →
    w.svc = some (n, addr, len) → ∃ u, exec (.wellSectorDurable i) s = .next u ∧ u.mem.pend = []
      ∧ u.replies = s.replies ++ [(s.cyc, .wellWritten addr len)])
  ∧ (∀ (s : State) (addr : Nat) (data : List Byte), hasStorage addr = false →
    exec (.serviceCisternWrite addr data) s = .fault (.noStorage addr)
      ∧ exec (.serviceWellWrite addr data) s = .fault (.noStorage addr))

/-! ## Messages and collectives (12) -/

/-- R251 to R253: a flit of DATA joins its message, and the whole message waits to be applied; a flag waits and is
acknowledged by an ACK flit over the lowest usable path; a duplicate of either is counted once and acknowledged again,
and changes no memory. R196, R252, R255: an acknowledgement takes its message from those waiting; when one is overdue,
every message waiting for the node is sent again, marked so, data before flags, and the paths of the overdue ones are
not used any more. -/
def Obligations.MessagesArriveAndAreAcknowledged : Prop :=
  (∀ (s : State) (f : Flit),
     let node := bitsOf f.srcep.toNat 13 8
     let seen := (nodeOf s.link node).isDup f.seq
     let begun := s.link.partial_.find? (sameMessage f)
     (∀ i, i = .arrive f ∨ i = .store f ∨ i = .mbox f → ∃ u, exec i s = .next u ∧ u.mem = s.mem
       ∧ (seen = false → u.link.flags = s.link.flags ++
           [{
              node := node, type := f.type, seq := f.seq, stamp := f.stamp, addr := f.addr.toNat, csram := f.csram,
              value := f.value, ctx := f.dstep.toNat % 64, data := [], total := 0, handle := 0, port := 0,
              behind := waitingData s.link node }])
       ∧ (seen = true → u.link.flags = s.link.flags
           ∧ (nodeOf u.link node).dup = min ((nodeOf s.link node).dup + 1) 0xFFFFFFFF)
       ∧ (node ≠ s.link.self → ∀ path p, usablePath s.link node = some (path, p) →
         (portOf u.link p).fseq = (portOf s.link p).fseq + 1
         ∧ (portOf u.link p).sent.getLast? = some (flitWire { newFlit s.link 5 node 0 with
             payload := natLE 4 f.seq ++ natLE 4 0
             fseq := (portOf s.link p).fseq
             lack := (portOf s.link p).lack })))
     ∧ (∀ port, seen = false →
       let here := (List.range f.nsect).map (fun j => f.addr.toNat + 64 * j)
       let bytes := f.payload.take (64 * f.nsect)
       let rest := s.link.partial_.filter (fun m => !sameMessage f m)
       ∃ m : Inbound,
         (begun = none → m = {
           node := node, type := f.type, seq := f.seq, stamp := f.stamp, addr := f.addr.toNat, csram := f.csram
           value := f.value, ctx := f.dstep.toNat % 64, data := bytes, total := f.mlen, handle := f.handle.toNat
           port := port, places := here, coll := f.coll })
         ∧ (∀ x, begun = some x → m = { x with data := x.data ++ bytes, places := x.places ++ here })
         ∧ (64 * f.mlen ≤ m.data.length → exec (.data port f) s = .next { s with
             link := { s.link with partial_ := rest, inbound := s.link.inbound ++ [m] } })
         ∧ (m.data.length < 64 * f.mlen → exec (.data port f) s = .next { s with
             link := { s.link with partial_ := rest ++ [m] } }))
     ∧ (seen = true → ∀ port, ∃ u, exec (.data port f) s = .next u ∧ u.mem = s.mem
       ∧ u.link.inbound = s.link.inbound
       ∧ u.link.partial_ = s.link.partial_.filter (fun m => !sameMessage f m)
       ∧ (f.fidx = 0 ∨ begun ≠ none →
         (nodeOf u.link node).dup = min ((nodeOf s.link node).dup + 1) 0xFFFFFFFF)
       ∧ (f.fidx ≠ 0 → begun = none → (nodeOf u.link node).dup = (nodeOf s.link node).dup)))
  ∧
  ((∀ (s : State) (f : Flit) (q : Nat), fieldLE f.payload 0 4 = q → q ≠ 0 → fieldLE f.payload 4 4 = 0 →
     let node := bitsOf f.srcep.toNat 13 8
     ∃ u, exec (.ack f) s = .next u ∧ u.mem = s.mem
       ∧ u.link = { s.link with
           unacked := s.link.unacked.filter (fun m => !(m.node == node && m.seq == q && q != 0))
           queueOut := s.link.queueOut.filter (fun m => !(m.node == node && m.seq == q && q != 0)) })
   ∧ (∀ (s : State) (f : Flit), fieldLE f.payload 0 4 = 0 → exec (.ack f) s = .next s)
   ∧ (∀ (s : State) (node : Nat), (ackOverdue s node = false → exec (.ackTimeout node) s = .next s)
     ∧ (ackOverdue s node = true → ∃ u, exec (.ackTimeout node) s = .next u ∧ u.mem = s.mem
       ∧ u.link.unacked = s.link.unacked.filter (fun m => m.node != node)
       ∧ u.link.queueOut = (resendOrder (s.link.unacked.filter (fun m => m.node == node))).map
           (fun m => { m with resent := true, port := none }) ++ s.link.queueOut
       ∧ (nodeOf u.link node).badPaths = ((nodeOf s.link node).badPaths ++ pathsOver s.link node
           ((s.link.unacked.filter (fun m => m.node == node && decide (m.stamp + 2 ≤ windowNow s))).filterMap
             (fun m => m.port))).eraseDups)))

/-- R195, R253, R254, R454: data are applied in the order of R253, a sector at a time, where the page set of the endpoint
allows; a duplicate, data outside the set and a stray change no memory and are counted, in that order. R195, R204, R220,
R245, R253, R254: the first flag due is taken: an arrival reaches the barrier its handle names as an update of −1, a late
one aborts it with cause LATE and counts, one that names another endpoint or no armed barrier is stray; a flag-word store
writes its 8 bytes of the sync page and no other byte, or counts as outside the set; a mailbox write goes to its core as
R126 says; and a duplicate does nothing but count. -/
def Obligations.DataAndFlagsApply : Prop :=
  (∀ (s : State) (m : Inbound), firstInbound (s.link.inbound.filter (dataReady s)) = some m →
     let n := nodeOf s.link m.node
     (∀ ps, dataFate s m = .lands (.phys ps) → ∃ u, exec .dataApply s = .next u
       ∧ u.mem = { s.mem with
           writes := s.mem.writes ++ (m.data.take 64).zipIdx.map
             (fun p => (1 + (ps.headD (0, 0, 0)).2.1, (ps.headD (0, 0, 0)).1 + p.2, p.1)) }
       ∧ (64 < m.data.length → u.link.inbound
           = s.link.inbound.map (fun x => if x = m then { m with data := m.data.drop 64 } else x))
       ∧ (m.data.length ≤ 64 → u.link.inbound = s.link.inbound.erase m))
     ∧ (∀ c ps, dataFate s m = .lands (.coll c ps) → ∃ u, exec .dataApply s = .next u
       ∧ u.mem = { s.mem with
           writes := s.mem.writes ++ (m.data.take 64).zipIdx.map
             (fun p => (1 + (ps.headD (0, 0, 0)).2.1, (ps.headD (0, 0, 0)).1 + p.2, p.1)) })
     ∧ (∀ a, dataFate s m = .lands (.csram a) → ∃ u, exec .dataApply s = .next u
       ∧ u.mem = { s.mem with
           writes := s.mem.writes ++ (m.data.take 64).zipIdx.map (fun p => (0, a + p.2, p.1)) })
     ∧ (dataFate s m = .dup → ∃ u, exec .dataApply s = .next u ∧ u.mem = s.mem
       ∧ (nodeOf u.link m.node).dup = min (n.dup + 1) 0xFFFFFFFF)
     ∧ (dataFate s m = .stray → ∃ u, exec .dataApply s = .next u ∧ u.mem = s.mem
       ∧ (nodeOf u.link m.node).stray = min (n.stray + 1) 0xFFFFFFFF)
     ∧ (dataFate s m = .outset → ∃ u, exec .dataApply s = .next u ∧ u.mem = s.mem
       ∧ (nodeOf u.link m.node).outset = min (n.outset + 1) 0xFFFFFFFF))
  ∧
  (∀ (s : State) (f : Inbound), firstInbound (s.link.flags.filter (flagDue s)) = some f →
     ((nodeOf s.link f.node).isDup f.seq = true → ∃ u, exec .flagApply s = .next u ∧ u.mem = s.mem
       ∧ u.cores = s.cores ∧ u.link.flags = s.link.flags.erase f
       ∧ (nodeOf u.link f.node).dup = min ((nodeOf s.link f.node).dup + 1) 0xFFFFFFFF)
     ∧ (∀ kid role addr k p, (nodeOf s.link f.node).isDup f.seq = false → f.type = 2 →
       ownHandle s f.ctx f.addr = true →
       handleBar s f.addr = some (kid, role, addr) → s.kernel? kid = some k → k.st ≠ .suspended →
       k.st ≠ .resuming → k.bind[role]? = some p →
       ∃ u, exec .flagApply s = .next u ∧ u.mem = s.mem ∧ u.link.flags = s.link.flags.erase f
         ∧ (isLate s f.stamp = false → (nodeOf u.link f.node).late = (nodeOf s.link f.node).late
           ∧ u.core p = { s.core p with barUps := (s.core p).barUps ++ [(addr, .add 0 (-1))] })
         ∧ (isLate s f.stamp = true → (nodeOf u.link f.node).late = min ((nodeOf s.link f.node).late + 1) 0xFFFFFFFF
           ∧ u.core p = { s.core p with barUps := (s.core p).barUps ++ [(addr, .add 0 (-1)), (addr, .abort 2)] }))
     ∧ ((nodeOf s.link f.node).isDup f.seq = false → f.type = 2 →
       (ownHandle s f.ctx f.addr = false ∨ (bitsOf f.addr 31 25 ≠ 0x7F ∧ handleBar s f.addr = none)) →
       ∃ u, exec .flagApply s = .next u ∧ u.mem = s.mem ∧ u.cores = s.cores ∧ u.kernels = s.kernels
         ∧ (nodeOf u.link f.node).stray = min ((nodeOf s.link f.node).stray + 1) 0xFFFFFFFF
         ∧ (nodeOf u.link f.node).late = (nodeOf s.link f.node).late)
     ∧ (∀ kid k, (nodeOf s.link f.node).isDup f.seq = false → f.type = 3 →
       endpointKernel s f.ctx = some (kid, k) → findPage k.pages f.addr = none →
       ∃ u, exec .flagApply s = .next u ∧ u.mem = s.mem ∧ u.cores = s.cores
         ∧ (nodeOf u.link f.node).outset = min ((nodeOf s.link f.node).outset + 1) 0xFFFFFFFF)
     ∧ (∀ kid k p, (nodeOf s.link f.node).isDup f.seq = false → f.type = 3 →
       endpointKernel s f.ctx = some (kid, k) → findPage k.pages f.addr = some p → p.kind = 2 → p.write = true →
       f.addr % 8 = 0 → isPool k.pools p = false →
       ∃ u, exec .flagApply s = .next u ∧ u.link.flags = s.link.flags.erase f
         ∧ u.mem = { s.mem with
             kmem := writeBytes s.mem.kmem (p.phys + (f.addr - p.va)) (natLE 8 f.value.toNat) })
     ∧ (∀ kid k, (nodeOf s.link f.node).isDup f.seq = false → f.type = 4 →
       endpointKernel s f.ctx = some (kid, k) → bitsOf f.addr 8 0 < k.bind.length →
       ∃ u, exec .flagApply s = .next u ∧ u.link.flags = s.link.flags.erase f ∧ u.mem = s.mem ∧ u.cores = s.cores
         ∧ u.agenda = .row (.mailboxWrite kid (bitsOf f.addr 8 0) (bitsOf f.addr 11 9) f.value) :: s.agenda))

/-- R209, R256: an ABORT message aborts the open collective it names with cause PEER; the parts of a suspect notice
that has come whole go to the fault log. R419 to R424: the engine takes the first collective handed to it: one
that R420 refuses ends REFUSED, changes no memory and aborts the barriers of BAR that are armed, with cause RANGE; any
other runs, whatever its OP, with its rounds counted from 0 and the network slots that its data and local work need.
The local work of a round done, the engine's own barrier and those of BAR take the second arrival. When the engine
takes what is handed to it, and that its slots are counted so, are the model's choice (log entries 57, 93 and 121). -/
def Obligations.AbortsAndCollectives : Prop :=
  ((∀ (s : State) (f : Flit) (c : Coll),
     s.link.colls.find? (fun c => c.running && c.ctx == f.dstep.toNat % 64
       && fieldLE c.desc 0x20 8 == fieldLE f.payload 0 8) = some c →
     ∃ u, exec (.abort f) s = .next u ∧ u.mem = s.mem
       ∧ u.link.colls = s.link.colls.map (fun x => if x.st = .running ∧ x.ctx = c.ctx ∧ x.id16 = c.id16 then
           { x with barUps := x.barUps ++ [.abort 6] } else x))
   ∧ (∀ (s : State) (f : Flit), (∀ c ∈ s.link.colls, c.st ≠ .running) → exec (.abort f) s = .next s)
   ∧ (∀ (s : State) (f : Flit),
     let node := bitsOf f.srcep.toNat 13 8
     let data := f.payload.take (64 * f.nsect)
     let len := f.addr.toNat / 0x1000000
     (nodeOf s.link node).isDup f.seq = false → s.link.partial_ = [] → 64 * f.mlen ≤ data.length →
     f.addr.toNat % 0x1000000 = 0 → len ≤ data.length →
     ∃ u, exec (.notice f) s = .next u ∧ u.mem = { s.mem with phys := u.mem.phys }
       ∧ (Memory.wf s.mem.phys = true → ∀ a, a < 0x20002400000 ∨ 0x20004000000 ≤ a →
         memRead u.mem.phys a = memRead s.mem.phys a)
       ∧ u.mgmt = { s.mgmt with noticeFlag := true, notices := s.mgmt.notices ++ [data.take len] }))
  ∧
  ((∀ (s : State) (c : Coll), s.link.colls.find? (fun c => c.st == .waiting) = some c →
     let d := { c with desc := readDesc s c }
     (collRefused s d = true → ∃ u, exec .collEngineStart s = .next u ∧ u.mem = s.mem
       ∧ u.link = setWaiting s.link { d with
           st := .refused
           cause := if collBars s d = [] then 0 else ((collBars s d).findSome? (barCause s)).getD 5 }
       ∧ (∀ kid role addr k p, (kid, role, addr) ∈ collBars s d → s.kernel? kid = some k → k.st ≠ .suspended →
         k.st ≠ .resuming → k.bind[role]? = some p → (addr, .abort 5) ∈ (u.core p).barUps))
     ∧ (collRefused s d = false → ∃ u x, exec .collEngineStart s = .next u ∧ u.mem = s.mem
       ∧ x ∈ u.link.colls ∧ x.va = c.va ∧ x.ctx = c.ctx ∧ x.st = .running ∧ x.round = 0 ∧ x.local_ = false
       ∧ x.rounds = d.allRounds ∧ x.sentRound = 1 ∧ x.slots = ceilDiv (sendRange d s.link.self 0).2 64
       ∧ x.work = workSectors d 0 ∧ x.prep = if d.op = 2 then 0 else ceilDiv (d.elems * 4) 64))
   ∧ (∀ (s : State) (c : Coll), s.link.colls.find? Coll.localReady = some c →
     ∃ u, exec .collRoundLocalDone s = .next u
       ∧ u.link = { s.link with
           colls := s.link.colls.map (fun x => if x.st = .running ∧ x.ctx = c.ctx ∧ x.id16 = c.id16 then
             { x with local_ := true, barUps := x.barUps ++ [.add 0 (-1)] } else x) }
       ∧ (c.scatterRounds ≤ c.round → u.mem = s.mem))
   ∧ (∀ (c : Coll), c.localReady = true → c.prep = 0 ∧ c.slots = 0 ∧ c.work = 0 ∧ (barOf c.bar).sect = 0
     ∧ (barOf c.bar).arrv = 1)
   ∧ (∀ (c : Coll), (c.op = 0 → c.allRounds = 2 * (c.ring - 1)) ∧ (c.op = 1 ∨ c.op = 2 → c.allRounds = c.ring - 1)))

/-! ## Ports and time (12) -/

/-- R243, R244: port states: a signal or a retry starts training; training ends in SYNC with an IDENT, or fails, to be
tried again a second later, the eighth time in a row for good; a lost lane leaves a port DEGRADED while four lanes of a group are left, the flits
in flight replayed once, and FAILED otherwise; a FAILED port trains again at a RETRAIN. No memory and no core changes but by the aborts of
R255. -/
def Obligations.PortStates : Prop :=
  ∀ (s : State) (p : Nat),
    let q := portOf s.link p
    (∃ u, exec (.portSignalDetect p) s = .next u ∧ u.mem = s.mem ∧ (portOf u.link p).signal = true
      ∧ (q.st = .down → portEnabled s p = true → q.retryAt = none → (portOf u.link p).st = .training
          ∧ (portOf u.link p).since = s.link.elapsed)
      ∧ (q.st ≠ .down → (portOf u.link p).st = q.st))
    ∧ (∀ lanes, q.st = .training → s.link.elapsed ≤ q.since + 96000000000 →
      ∃ u, exec (.trainingComplete p lanes) s = .next u ∧ u.mem = s.mem ∧ u.cores = s.cores
        ∧ (portOf u.link p).st = .sync ∧ (portOf u.link p).lanes = lanes ∧ (portOf u.link p).trainFail = 0
        ∧ (portOf u.link p).fseq = q.fseq + 1
        ∧ (portOf u.link p).sent.getLast? = some (flitWire { identFlit s.link p with fseq := q.fseq, lack := q.lack }))
    ∧ (∀ lanes, q.st = .training → q.since + 96000000000 < s.link.elapsed →
      exec (.trainingComplete p lanes) s = .next s)
    ∧ ((identFlit s.link p).type = 9 ∧ (identFlit s.link p).dstep = 0
      ∧ (identFlit s.link p).payload = (List.range 16).map Config.serial ++ natLE 1 s.link.self ++ natLE 1 p
          ++ natLE 1 (s.link.epoch % 256) ++ natLE 1 s.link.wcode ++ List.replicate 172 0)
    ∧ (q.st = .training → ∃ u, exec (.trainingFail p) s = .next u ∧ u.mem = s.mem ∧ u.cores = s.cores
        ∧ (portOf u.link p).st = (if 8 ≤ q.trainFail + 1 then .failed else .down)
        ∧ (portOf u.link p).trainFail = min (q.trainFail + 1) 0xFFFFFFFF
        ∧ (portOf u.link p).retryAt = if 8 ≤ q.trainFail + 1 then none else some (s.link.elapsed + 192000000000))
    ∧ (∀ t, q.st = .down → q.retryAt = some t → t ≤ s.link.elapsed → portEnabled s p = true →
      ∃ u, exec (.trainingRetry p) s = .next u ∧ u.mem = s.mem ∧ u.cores = s.cores
        ∧ (portOf u.link p).st = .training)
    ∧ (∀ lane, lane < 8 → q.st = .up ∨ q.st = .degraded →
      let left := q.lanes &&& ~~~(1#8 <<< lane)
      ∃ u, exec (.laneFail p lane) s = .next u ∧ u.mem = s.mem ∧ (portOf u.link p).lanes = left
        ∧ (portOf u.link p).st =
            (if left.toNat % 16 = 15 ∨ left.toNat / 16 = 15 then .degraded else .failed))
    ∧ (∀ lane, lane < 8 → q.st = .up →
      let left := q.lanes &&& ~~~(1#8 <<< lane)
      (left.toNat % 16 = 15 ∨ left.toNat / 16 = 15) →
      ∃ u, exec (.laneFail p lane) s = .next u ∧ (portOf u.link p).replay = q.replay + q.outstanding)
    ∧ (∀ lane, lane < 8 → q.st = .degraded →
      let left := q.lanes &&& ~~~(1#8 <<< lane)
      (left.toNat % 16 = 15 ∨ left.toNat / 16 = 15) →
      exec (.laneFail p lane) s = .next (updPort s p (fun q => { q with lanes := left })))
    ∧ (q.st = .up ∨ q.st = .degraded → ∃ u, exec (.alignmentLossTimeout p) s = .next u ∧ u.mem = s.mem
        ∧ (portOf u.link p).st = .failed)
    ∧ (q.st = .failed → ∃ u, exec (.portRetrain p) s = .next u ∧ u.mem = s.mem ∧ u.cores = s.cores
        ∧ (portOf u.link p).st = .training ∧ (portOf u.link p).trainFail = 0)

/-- R195, R244 to R246, R250: a carrying port takes a flit in its turn, hands it to its row or forwards it, and
gives its number as acknowledged; a flit with a bad CRC is discarded, a replay of its number is requested, and
every later one is discarded until it comes again; the 256 bytes of a flit, and nine beside them for what R245 gives no
field (the handle, the mark of a collective's data and the request: the model's, log entries 44, 93 and 113), say all of
it; a replay of the sixteenth time in a row fails the port; an IDENT of the peer that the node table
names takes a LOCKED chip's port from SYNC to UP. -/
def Obligations.FlitsAndIdent : Prop :=
  (∀ (s : State) (p : Nat) (bs : List Byte), (portOf s.link p).carries = true → bs.length = 256 ∨ bs.length = 265 →
    let q := portOf s.link p
    let f := flitOf bs
    let w := q.waitFseq.getD (q.lack + 1)
    (f.crcOk = false → ∃ u, exec (.flitReceive p bs) s = .next u ∧ u.mem = s.mem ∧ u.cores = s.cores
      ∧ u.agenda = s.agenda ∧ (portOf u.link p).lack = q.lack ∧ (portOf u.link p).waitFseq = some w
      ∧ (portOf u.link p).fseq = q.fseq + 1
      ∧ (portOf u.link p).sent.getLast? = some (flitWire { requestFlit s.link w with fseq := q.fseq, lack := q.lack }))
    ∧ (f.crcOk = true → inTurn q f = false → exec (.flitReceive p bs) s = .next s)
    ∧ (f.crcOk = true → q.waitFseq = none → f.fseq = q.lack + 1 → inboundFull s p f = false → f.type = 1 →
      f.hops ≠ 7 → f.epoch = s.link.epoch % 256 → bitsOf f.dstep.toNat 13 8 = s.link.self → f.request = none →
      ∃ u, exec (.flitReceive p bs) s = .next u ∧ u.mem = s.mem ∧ u.cores = s.cores
        ∧ u.agenda = .row (.data p f) :: s.agenda ∧ (portOf u.link p).lack = f.fseq))
  ∧ (∀ f : Flit, f.type < 256 → f.nsect < 256 → f.fidx < 256 → f.mlen < 256 → f.epoch < 256 → f.hops < 256 →
    f.seq < 2 ^ 32 → f.stamp < 2 ^ 48 → f.payload.length = 192 → f.crcOk = true →
    (flitBytes f).length = 256 ∧ (flitWire f).take 256 = flitBytes f ∧ (flitWire f).length = 265
      ∧ flitOf (flitWire f) = f)
  ∧ (∀ (s : State) (p : Nat) (n : BitVec 16), (portOf s.link p).carries = true →
    let q := portOf s.link p
    (∃ b ∈ q.sent, fieldLE b 248 2 = n.toNat) →
    ∃ u, exec (.flitReplay p n) s = .next u ∧ u.mem = s.mem
      ∧ (portOf u.link p).lastReplay = some n
      ∧ (q.lastReplay = some n → q.replays = 15 → (portOf u.link p).st = .failed)
      ∧ (q.lastReplay ≠ some n → (portOf u.link p).st = q.st))
  ∧ (∀ (s : State) (p : Nat) (f : Flit), (portOf s.link p).st = .sync → s.link.time = .locked →
    let node := fieldLE f.payload 16 1
    nodeValid s.link node = true → (s.link.table.drop (32 * node + 8)).take 16 = f.payload.take 16 →
    fieldLE f.payload 18 1 = s.link.epoch % 256 → fieldLE f.payload 19 1 = s.link.wcode →
    (portOf s.link p).lanes = 0xFF →
    ∃ u, exec (.ident p f) s = .next u ∧ u.mem = s.mem ∧ u.cores = s.cores ∧ (portOf u.link p).st = .up
      ∧ (portOf u.link p).peerNode = node ∧ (portOf u.link p).peerPort = fieldLE f.payload 17 1
      ∧ (portOf u.link p).fseq = 0)

/-- R258, R259: a sync at the slave port sets the clock right by its offset and locks it within 100 ns; the grandmaster
is LOCKED (which port is the slave, and that no master of its own makes a chip grandmaster: log entry 115); a delay
request is answered (its form: log entry 51); without a sync on any port for four intervals a LOCKED chip goes to
HOLDOVER, and from there to UNSYNC. R247, R257: an APPLY of a domain that breaks its form changes nothing but its
status; one that fits takes effect whole: node, node count, window, ports and table as written, with status 0. At a new
EPOCH the messages of the old one go, sent and received (what of them goes, and with which aborts: the model's choice,
log entries 52, 53 and 55). -/
def Obligations.ChipTime : Prop :=
  ((∀ (s : State) (port : Nat) (x : PtpSync) (i : Instr),
     ((i = .time port x ∧ ((portOf s.link port).carries = true ∨ (portOf s.link port).st = .sync))
       ∨ (i = .ptpManagementMessage x ∧ port = 18 ∧ s.mgmt.service ≠ .off)) →
     let l := { s.link with masters := tset s.link.masters port x.dataSet, lastSync := s.link.elapsed }
     let right := ((s.link.clock : Int) - x.offset).toNat
     (x.request = true → exec i s = .next (sendPtp s port 3))
     ∧ (x.request = false → ∃ u, exec i s = .next u ∧ u.mem = s.mem ∧ u.cores = s.cores ∧ u.kernels = s.kernels
       ∧ (slavePort l = some port → u.link = { l with
           clock := right, time := if x.offset.natAbs ≤ 19200 then .locked else s.link.time
           ports := u.link.ports, status := u.link.status })
       ∧ (slavePort l = none → u.link = { l with
           time := .locked, ports := u.link.ports, status := u.link.status })
       ∧ (∀ n, slavePort l = some n → n ≠ port → u.link = { l with ports := u.link.ports, status := u.link.status })))
   ∧ (∀ (s : State) (port kind : Nat),
     let body := Config.ptpBody kind s.link.clock (((bestMaster s.link).map (fun x => x.2)).getD Config.clockSet)
     (port = 18 → sendPtp s port kind
       = { s with replies := s.replies ++ [(s.cyc, .ptp kind ((List.range 44).map body))] })
     ∧ (port ≠ 18 → (portOf (sendPtp s port kind).link port).sent.getLast?
         = some (flitWire { newFlit s.link 8 0 0 with
             dstep := 0, payload := (List.range 192).map body
             fseq := (portOf s.link port).fseq, lack := (portOf s.link port).lack })))
   ∧ (∀ (s : State) (n : Nat), slavePort s.link = some n → n ≠ 18 → s.link.time = .locked →
     (s.link.lastSync + 6000000000 ≤ s.link.elapsed →
       exec .holdover s = .next { s with link := { s.link with time := .holdover, masters := [] } })
     ∧ (s.link.elapsed < s.link.lastSync + 6000000000 → exec .holdover s = .next s))
   ∧ (∀ (s : State), slavePort s.link = some 18 → s.link.time = .locked →
     (s.link.lastSync + 96000000000 ≤ s.link.elapsed →
       exec .holdover s = .next { s with link := { s.link with time := .holdover, masters := [] } })
     ∧ (s.link.elapsed < s.link.lastSync + 96000000000 → exec .holdover s = .next s))
   ∧ (∀ (s : State), s.link.time ≠ .locked → exec .holdover s = .next s)
   ∧ (∀ (s : State), (s.link.time = .holdover →
       exec .unsync s = .next { s with link := { s.link with time := .unsync } })
     ∧ (s.link.time ≠ .holdover → exec .unsync s = .next s)))
  ∧
  (∀ (s : State),
     let h := domainHeader s
     let t := domainTable s
     (domainFits h t = false → exec .domainApply s = .next { s with link := { s.link with lastSt := 3 } })
     ∧ (domainFits h t = true → ∃ u, exec .domainApply s = .next u ∧ u.mem = s.mem
       ∧ u.link.epoch = fieldLE h 0x10 8 ∧ u.link.porten = fieldLE h 0x0C 4 ∧ u.link.wcode = fieldLE h 0x09 1
       ∧ u.link.nodes = fieldLE h 0x08 1 ∧ u.link.self = fieldLE h 0x07 1 ∧ u.link.lastSt = 0 ∧ u.link.table = t
       ∧ (s.link.epoch ≠ fieldLE h 0x10 8 → u.link.inbound = [] ∧ u.link.flags = [] ∧ u.link.unacked = []
         ∧ u.link.queueOut = [] ∧ u.link.partial_ = [])))

/-! ## Groups and kernels (04, 06) -/

/-- R1, R44, R92, R123, R126, R131, R134, R153: a prepared group whose ARGS record is in the chain starts at a multiple of
1,024 with sr.ttc 0; a held one whose causes are gone goes on at the phase of its resume cycle; a limit hold enters
at a boundary (that T0 is one of them: the model's choice, log entry 83); use counts return to 0 at the start of each period of the timetable; a mailbox write lands in its
role at the end of the cycle, or in its place of the saved frame; sr.ttc at TLIMIT records
TIME_LIMIT. -/
def Obligations.GroupsStartAndHold : Prop :=
  ∀ (s : State) (kid : Nat) (k : Kernel), s.kernel? kid = some k →
    (k.st = .preparing → s.cyc % 1024 = 0 →
      (argsDue s kid k = false →
        exec (.kernelStart kid) s = .next (s.setKernel kid { k with st := .running, t0 := some s.cyc, ttc := 0, ran := 0 }))
      ∧ (argsDue s kid k = true → exec (.kernelStart kid) s = .next s))
    ∧ (s.cyc % 1024 ≠ 0 → exec (.kernelStart kid) s = .next s)
    ∧ (k.st = .held → holdCauses s k = 0 → s.cyc % 1024 = k.resumeTtc % 1024 →
      ∃ u, exec (.holdRelease kid) s = .next u ∧ u.mem = s.mem ∧ u.cyc = s.cyc
        ∧ u.kernel? kid = some { k with st := .running, ttc := k.resumeTtc }
        ∧ ∀ p, p ∈ k.bind → (s.core p).wait = none → u.core p = s.core p)
    ∧ (holdCauses s k ≠ 0 → exec (.holdRelease kid) s = .next s)
    ∧ (s.mgmt.limhold = true → k.st = .running → s.cyc % 1024 = 0 →
      exec (.limitHoldEnter kid) s = .next (s.setKernel kid { k with st := .held, limit := true, resumeTtc := k.ttc }))
    ∧ (atPeriodStart k = false → exec (.periodBoundary kid) s = .next s)
    ∧ (atPeriodStart k = true → ∃ u, exec (.periodBoundary kid) s = .next u ∧ u.mem = s.mem
      ∧ u.kernels = s.kernels ∧ (∀ p ∈ k.bind, u.core p = { s.core p with counts := [] })
      ∧ ∀ p, p ∉ k.bind → u.core p = s.core p)
    ∧ (∀ role n value p, n < 8 → k.alive = true → k.st ≠ .suspended → k.st ≠ .resuming →
      k.bind[role]? = some p → (s.core p).kid = some kid → (s.core p).role = role →
      exec (.mailboxWrite kid role n value) s = .next (s.setCore p { s.core p with
        inflight := (s.core p).inflight ++
          [{ write := .sr (0x030 + n) value, due := .cyc s.cyc, rank := 0, issue := 0, slot := 0, long := false }] }))
    ∧ (∀ role n value, n < 8 → k.alive = true → k.st = .suspended ∨ k.st = .resuming →
      exec (.mailboxWrite kid role n value) s = .next (frameWrite
        (updRole s kid role (fun c => { c with mbox := tset c.mbox n value })) kid k role
        (0x1A0000 + 0x5600 + 8 * (0x030 + n)) (natLE 8 value.toNat)))
    ∧ (k.st = .running → fieldLE k.record 0x18 8 ≠ 0 → fieldLE k.record 0x18 8 ≤ k.ttc → k.kfault = none →
      exec (.timeLimit kid) s = .next (s.setKernel kid { k with kfault := some ⟨0x45, 0, false⟩ }))
    ∧ (k.ttc < fieldLE k.record 0x18 8 → exec (.timeLimit kid) s = .next s)

/-- R83, R84, R135 to R140, R275: a request is latched once, for points after the next bundle, whatever the kernel's state
but a drain and the states after it; at a listed point a group none of whose cores stands in the way drains, each core
diverted to its stub, and one whose cores do counts a skip; a drained group suspends with the frames of its clusters
valid, each cluster with a test slice, and the PREEMPT commands that wait for it end; a resumed one goes on at its
point, and its frames are gone. That a frame is VALID where the save area is not in Cistern is the model's choice (log
entry 130), as is the point from which a request counts in a kernel in PREPARING or RESUMING (log entry 138). -/
def Obligations.PreemptionsDrainAndResume : Prop :=
  ∀ (s : State) (kid : Nat) (k : Kernel), s.kernel? kid = some k →
    (k.preq = none → hasPoints s k = true → k.st = .running →
      exec (.preemptLatch kid) s = .next (s.setKernel kid { k with preq := some (k.ttc + 1) }))
    ∧ (k.preq = none → hasPoints s k = true →
      (k.st = .held → exec (.preemptLatch kid) s = .next (s.setKernel kid { k with preq := some k.resumeTtc }))
      ∧ (k.st = .preparing → exec (.preemptLatch kid) s = .next (s.setKernel kid { k with preq := some 1 }))
      ∧ (k.st = .resuming → exec (.preemptLatch kid) s = .next (s.setKernel kid { k with preq := some (k.point + 1) }))
      ∧ (k.st = .draining ∨ k.st = .suspended ∨ k.st = .relaunching ∨ k.alive = false →
        exec (.preemptLatch kid) s = .next s))
    ∧ (k.preq.isSome = true ∨ hasPoints s k = false → exec (.preemptLatch kid) s = .next s)
    ∧ (∀ first, k.preq = some first → first ≤ k.ttc → k.st = .running → k.ttc ∈ pointsOf (imageOf s k) →
      k.lastPoint < k.ttc →
      ((∀ p ∈ k.bind, pointBlocked (s.core p) = false) → ∃ u, exec (.preemptPoint kid) s = .next u ∧ u.mem = s.mem
        ∧ u.kernel? kid = some { k with lastPoint := k.ttc, st := .draining, point := k.ttc, drained := 0 }
        ∧ (k.bind.Nodup → ∀ p ∈ k.bind,
          let c := leaveBodies (s.core p)
          let at_ := bundleAt s p c.pc
          ((s.core p).done = true → u.core p = s.core p)
          ∧ ((s.core p).done = false → ∀ stub, stubOf (imageOf s k) c.role at_ = some stub → u.core p = { c with
            mode := .stub, trap := { c.trap with pc := BitVec.ofNat 64 at_ }, taskFrom := some at_, pc := stub
            hNextAt := some s.cyc, stubEnd := false })
          ∧ ((s.core p).done = false → stubOf (imageOf s k) c.role at_ = none → u.core p = endFault c 0x46 0)))
      ∧ ((∃ p ∈ k.bind, pointBlocked (s.core p) = true) → exec (.preemptPoint kid) s
        = .next (s.setKernel kid { k with lastPoint := k.ttc, pskip := min 255 (k.pskip + 1) })))
    ∧ (k.st = .draining → (∀ p ∈ k.bind, drainedCore (s.core p) = true) → beyondOpen s kid = false →
      s.ks.ops.any (fun o => o.kid == kid) = false → ∃ u k2, exec (.drainComplete kid) s = .next u
        ∧ u.kernel? kid = some k2 ∧ k2.st = .suspended ∧ k2.preq = none ∧ k2.point = k.point
        ∧ k2.saved = k.bind.zipIdx.map (fun x => (x.2, s.core x.1))
        ∧ u.cp.finished = s.cp.finished ++ k.preemptQ.map (fun q => (q, 0, s.cyc))
        ∧ ∀ c ∈ k.clusters, ∃ e, tfind (ctxAt u k.ctx).frames (frameRank s k.ctx c) = some e
          ∧ e.valid = true ∧ e.kid = kid ∧ (tget {} u.mgmt.clusters c).slice = some 60000)
    ∧ (k.st = .resuming → s.cyc % 1024 = k.point % 1024 → ∃ u, exec (.resumeCycle kid) s = .next u ∧ u.mem = s.mem
        ∧ u.kernel? kid = some { k with
            st := .running, ttc := k.point, ran := k.point, pskip := 0, saved := [], savedSram := []
            lastPoint := k.point }
        ∧ ∀ e ∈ (ctxAt u k.ctx).frames, e.2.kid ≠ kid)
    ∧ (s.cyc % 1024 ≠ k.point % 1024 → exec (.resumeCycle kid) s = .next s)

/-- R127, R128, R141, R275: a running kernel ends when its last DONE has issued, its engines are idle and it has no fault;
a fault that may relaunch starts a relaunch, and any other leaves the kernel FAULTED with its fault word; a
relaunch with a new binding prepares another attempt, of a class A image as of a class B one, on the cores of that
binding; it waits where test slices alone stand in the way; and without a binding it leaves the original fault. -/
def Obligations.KernelsEndAndRelaunch : Prop :=
  ∀ (s : State) (kid : Nat) (k : Kernel), s.kernel? kid = some k →
    (k.st = .running → endReached s k = true → recordedFault s k = none →
      ∃ u k2, exec (.kernelEnd kid) s = .next u ∧ u.kernel? kid = some k2 ∧ k2.st = .ended ∧ k2.faultWord = 0
        ∧ ∀ q, k.queue = some q → (q, 0, s.cyc) ∈ u.cp.finished)
    ∧ (endReached s k = false → exec (.kernelEnd kid) s = .next s)
    ∧ (∀ word f, recordedFault s k = some (word, f) → k.holds = true →
      (mayRelaunch k f = false → ∃ u k2, exec (.kernelFault kid) s = .next u ∧ u.kernel? kid = some k2
        ∧ k2.st = .faulted ∧ k2.faultWord = word)
      ∧ (mayRelaunch k f = true → ∃ u k2, exec (.kernelFault kid) s = .next u ∧ u.kernel? kid = some k2
        ∧ k2.st = .relaunching ∧ k2.faultWord = word ∧ k2.relaunches = k.relaunches))
    ∧ (k.st = .relaunching → k.deferred = false →
      (rebind s kid k = none → rebind (noSlices s) kid k = none → ∃ u k2, exec (.relaunch kid) s = .next u
        ∧ u.kernel? kid = some k2 ∧ k2.st = .faulted ∧ k2.faultWord = k.faultWord)
      ∧ (rebind s kid k = none → rebind (noSlices s) kid k ≠ none → exec (.relaunch kid) s = .next s)
      ∧ (rebind s kid k ≠ none → argsUe s k = true → ∃ u k2, exec (.relaunch kid) s = .next u
        ∧ u.kernel? kid = some k2 ∧ k2.st = .faulted ∧ k2.faultWord = k.faultWord)
      ∧ (∀ bind, rebind s kid k = some bind → argsUe s k = false →
        ∃ u k2, exec (.relaunch kid) s = .next u ∧ u.kernel? kid = some k2 ∧ k2.st = .preparing
          ∧ k2.bind = bind ∧ k2.relaunches = k.relaunches + 1 ∧ k2.kfault = none ∧ k2.ttc = 0
          ∧ (bind.Nodup → ∀ role p, bind[role]? = some p → (u.core p).kid = some kid ∧ (u.core p).role = role
            ∧ (u.core p).attempt = k.relaunches + 1)))
    ∧ (k.st ≠ .relaunching ∨ k.deferred = true → exec (.relaunch kid) s = .next s)

/-- R272, R273: of the unwinds that are due, the one of the outermost region takes its core to the recovery target of that
region: it and every region inside it are gone with what they hold, whose barriers abort with cause 7, the regions
around it stay, sr.crgn.UNW is set, and the next bundle is the target's, one timetable cycle later. -/
def Obligations.RegionsUnwind : Prop :=
  (∀ (s : State) (kid : Nat) (k : Kernel), s.kernel? kid = some k →
    (k.st = .running → k.bind.Nodup → ∃ u, exec (.regionUnwind kid) s = .next u ∧ u.mem = s.mem
      ∧ u.kernels = s.kernels ∧ (∀ p ∈ k.bind, u.core p = unwindCore k.ttc (s.core p))
      ∧ ∀ p, p ∉ k.bind → u.core p = s.core p)
    ∧ (k.st ≠ .running → exec (.regionUnwind kid) s = .next s))
  ∧ (∀ (ttc at_ n level : Nat) (c : Core) (r : Region), dueUnwind ttc c = some (at_, n, level) →
    let m := c.regions.length - (n - 1)
    let gone := c.regions.take m
    gone.getLast? = some r →
    let d := unwindCore ttc c
    d.regions = c.regions.drop m ∧ d.upend = c.upend.filter (fun x => decide (x.2.1 < n))
      ∧ d.unw = true ∧ d.ulevel = level ∧ d.pc = r.target ∧ d.nextAt = ttc + 1
      ∧ d.mode = .task ∧ d.hNextAt = none ∧ d.dly = 0 ∧ d.brFrom = none ∧ d.wait = none
      ∧ d.buf = c.buf.filter (fun x => decide (x.issue < r.opened))
      ∧ d.loops = c.loops.filter (fun l => decide (l.entered < r.opened))
      ∧ d.barUps = c.barUps ++
          ((gone.flatMap (fun x => x.hold)).filterMap (fun o => o.barrier)).map (fun a => (a, .abort 7))
      ∧ d.g = c.g ∧ d.v = c.v ∧ d.priv = c.priv)
  ∧ (∀ (ttc : Nat) (c : Core) (x : Nat × Nat × Nat), dueUnwind ttc c = some x →
    x ∈ c.upend ∧ x.1 ≤ ttc ∧ ∀ y ∈ c.upend, y.1 ≤ ttc → x.2.1 ≤ y.2.1)
  ∧ (∀ (ttc : Nat) (c : Core), dueUnwind ttc c = none ↔ ∀ x ∈ c.upend, ttc < x.1)
  ∧ (∀ (ttc : Nat) (c : Core), (∀ x ∈ c.upend, ttc < x.1) → unwindCore ttc c = c)

/-! ## The package (02) -/

/-- R40, R45, R47, R39: the service states: supply to BOOT, the active bank's image that verifies, or else the other
bank's, to CALIB (OFF where neither verifies), calibration to the change to FULL, fatal losses and 125 °C to
PRESERVE, PRESERVE to BOOT with its log, and the loss of supply to OFF with its record (the time of the loss: log
entry 112); a reset keeps the Well. That the memories a loss of supply empties read 0 is the model's choice (log entry
2), as is what a second loss in PRESERVE, or a loss of supply there, does (log entry 119). -/
def Obligations.ServiceStates : Prop :=
  ∀ s : State,
    (s.mgmt.service = .off → ∃ u, exec .supplyGood s = .next u ∧ u.mgmt.service = .boot ∧ u.kernels = []
      ∧ u.cores = [] ∧ u.cyc = 0)
    ∧ (s.mgmt.service = .boot → imageVerifies s.mgmt.fuses (s.mgmt.bank s.mgmt.activeB).image = true →
      exec .firmwareVerified s = .next { s with mgmt := { s.mgmt with service := .calib } })
    ∧ (s.mgmt.service = .boot → imageVerifies s.mgmt.fuses s.mgmt.bankA.image = false →
      imageVerifies s.mgmt.fuses s.mgmt.bankB.image = false → exec .firmwareVerified s
        = .next { s with mgmt := { s.mgmt with service := .off, bootFails := s.mgmt.bootFails + 1 } })
    ∧ (s.mgmt.service = .boot → imageVerifies s.mgmt.fuses (s.mgmt.bank s.mgmt.activeB).image = false →
      imageVerifies s.mgmt.fuses (s.mgmt.bank (!s.mgmt.activeB)).image = true → exec .firmwareVerified s
        = .next { s with mgmt := { s.mgmt with
            service := .calib, activeB := !s.mgmt.activeB, nextB := !s.mgmt.activeB } })
    ∧ (s.mgmt.service ≠ .boot → exec .firmwareVerified s = .next s)
    ∧ (∀ offsets, s.mgmt.service = .calib → s.mgmt.toFull = false → ∃ u,
      exec (.calibrationComplete offsets) s = .next u ∧ u.mem = s.mem ∧ u.mgmt = { s.mgmt with toFull := true })
    ∧ (∀ x, exec (.fatalLoss x) s = .next
      (if s.mgmt.service = .calib ∨ s.mgmt.service = .full ∨ s.mgmt.service = .preserve then
        { s with mgmt := { s.mgmt with
            service := .preserve, toFull := false, losses := s.mgmt.losses ++ [.lost x] } }
      else s))
    ∧ (∀ t : Int, exec (.criticalTemperature t) s = .next
      (if (s.mgmt.service = .calib ∨ s.mgmt.service = .full) ∧ 2000 ≤ t then
        { s with mgmt := { s.mgmt with
            service := .preserve, toFull := false, losses := s.mgmt.losses ++ [.temperature t] } }
      else s))
    ∧ (s.mgmt.service = .preserve → ∃ u, exec .preserve s = .next u ∧ u.mgmt.service = .boot ∧ u.kernels = []
      ∧ u.cores = []
      ∧ (s.kernels = [] → ∃ e, u.mgmt.log = s.mgmt.log ++ [e] ∧ e.causes = s.mgmt.losses ∧ e.kernels = s.mgmt.stopped
        ∧ e.telemetry = s.mgmt.telemetry))
    ∧ (s.mgmt.service ≠ .preserve → exec .preserve s = .next s)
    ∧ (∃ u, exec .supplyLoss s = .next u ∧ u.mgmt.service = .off ∧ u.kernels = [] ∧ u.cores = [] ∧ u.cyc = 0
      ∧ (Memory.wf s.mem.phys = true → (∀ a, a < 0x20000000000 → memRead u.mem.phys a = 0)
        ∧ ∀ a, 0x20000000000 ≤ a → a < 0x20002400000 ∨ 0x20004000000 ≤ a → memRead u.mem.phys a = memRead s.mem.phys a)
      ∧ u.mem.csram = []
      ∧ u.mgmt.powerLosses = s.mgmt.powerLosses ++ [timeNs s])

/-- R43 to R46, R268: limits, firmware, logs, telemetry, thresholds. LIMIT_SAMPLE, in CALIB and FULL and 100 µs after
the last one, takes its sample, moves the target stretch and sets LIMHOLD by R43 and R44, and enters PRESERVE at
125 °C; STRETCH_APPLY takes the target at a multiple of 1,024. FIRMWARE_UPDATE writes the inactive bank, and an
image that verifies is active at the next reset. FAULT_LOG_READ delivers the logs, and clears them where it says
so. TELEMETRY_SAMPLE reports, at most once in a millisecond, and flags a leaf count below 65,536.
SET_FAIL_THRESHOLDS sets FAILN and FAILWIN in their ranges alone. Each of these six steps is a next state here. Which
bytes of the area a clearing FAULT_LOG_READ sets (log entry 116), the form of logs, telemetry and replies (log entries
73, 117 and 132), the time of the first sample (log entry 118) and that the leaves left leave out the reserved ones (log
entry 139) are the model's choice. -/
def Obligations.Management : Prop :=
  ∀ s : State,
    (∀ m : Sample,
      let due := (s.mgmt.service = .calib ∨ s.mgmt.service = .full)
        ∧ ∀ t, s.mgmt.sampledAt = some t → t + 19200000 ≤ s.link.elapsed
      let sampled : Mgmt := { s.mgmt with
        sample := m, sampledAt := some s.link.elapsed
        target := if 1600 ≤ m.hottest ∨ 1900 ≤ m.power then min 64 (s.mgmt.target + 8)
          else if m.hottest ≤ 1520 ∧ m.power ≤ 1800 then s.mgmt.target - 8 else s.mgmt.target
        limhold := if m.hottest ≤ 1520 ∧ m.power ≤ 1800 then false
          else s.mgmt.limhold || (s.mgmt.stretch == 64 && (decide (1680 ≤ m.hottest) || decide (2000 ≤ m.power)))
        shafts := m.shafts.foldl (fun t x =>
          let y : Shaft := { tget {} t x.1 with temp := x.2 }
          tset t x.1 y) s.mgmt.shafts }
      (due → m.hottest < 2000 → exec (.limitSample m) s = .next { s with mgmt := sampled })
      ∧ (due → 2000 ≤ m.hottest → exec (.limitSample m) s = .next { s with
          mgmt := { sampled with
            service := .preserve, toFull := false, losses := s.mgmt.losses ++ [.temperature m.hottest] } })
      ∧ (¬due → exec (.limitSample m) s = .next s))
    ∧ (s.cyc % 1024 = 0 → exec .stretchApply s = .next { s with mgmt := { s.mgmt with stretch := s.mgmt.target } })
    ∧ (s.cyc % 1024 ≠ 0 → exec .stretchApply s = .next s)
    ∧ (∀ img : Firmware,
      let good := Config.xmssVerifies Config.publicRoot img.image img.signature
        && decide (s.mgmt.fuses ≤ img.rollback) && decide (img.rollback ≤ 64)
      (s.mgmt.activeB = false → exec (.firmwareUpdate img) s = .next { s with
        mgmt := { s.mgmt with bankB := { image := some img, verified := good }, nextB := good } })
      ∧ (s.mgmt.activeB = true → exec (.firmwareUpdate img) s = .next { s with
        mgmt := { s.mgmt with bankA := { image := some img, verified := good }, nextB := !good } }))
    ∧ exec (.faultLogRead false) s
      = .next { s with replies := s.replies ++ [(s.cyc, .faultLogs (faultLogsOf s))] }
    ∧ exec (.faultLogRead true) s = .next { s with
        replies := s.replies ++ [(s.cyc, .faultLogs (faultLogsOf s))]
        mem := { s.mem with phys := s.mem.phys.filter (fun c => !inFaultLogs c.1) }
        mgmt := { s.mgmt with
          log := [], bootFails := 0, powerLosses := [], notices := [], scrubs := [], noticeFlag := false } }
    ∧ (let soon := ∃ t, s.mgmt.telemAt = some t ∧ s.link.elapsed < t + 192000000
      (¬soon → exec .telemetrySample s = .next { s with
        replies := s.replies ++ [(s.cyc, .telemetry (telemetryOf s))]
        mgmt := { s.mgmt with telemetry := some (telemetryOf s), telemAt := some s.link.elapsed } })
      ∧ (soon → exec .telemetrySample s = .next s))
    ∧ ((telemetryOf s).leavesLow = true ↔ (telemetryOf s).leaves < 65536)
    ∧ (∀ n w,
      let fits := 1 ≤ n ∧ n ≤ 15 ∧ 1000000 ≤ w ∧ w ≤ 60000000000
      (fits → exec (.setFailThresholds n w) s
        = .next { s with mgmt := { s.mgmt with failN := n, failWin := 192 * w } })
      ∧ (¬fits → exec (.setFailThresholds n w) s = .next s))

/-- R144, R238, R239, R268, R275 to R277: events of a unit are counted and FAILN in the window declare it failed; a
shaft takes its failed lanes at a refresh boundary, and the fault-log area the new spare map; a test slice of a cluster
unbound for 10 ms starts, and at its end a pass advances the record and a failure retires the cluster; a retest that
passes takes it back (that it sets the STATE byte of the record alone: the model's choice, log entry 72).
UNIT_EVENT_COUNT, LANE_SUBSTITUTION, TEST_SLICE_START, TEST_SLICE_END and CLUSTER_RETEST are a next state here. -/
def Obligations.FailedUnitsAndTests : Prop :=
  ∀ s : State,
    let works := s.mgmt.service = .calib ∨ s.mgmt.service = .full
    (∀ u : UnitId,
      let events := (s.mgmt.events ++ [(u, s.link.elapsed)]).filter
        (fun e => decide (s.link.elapsed < e.2 + s.mgmt.failWin))
      let v : State := { s with mgmt := { s.mgmt with events := events } }
      let count := (events.filter (fun e => e.1 == u)).length
      (count < s.mgmt.failN → exec (.unitEventCount u) s = .next v)
      ∧ (s.mgmt.failN ≤ count → exec (.unitEventCount u) s = .next (declareFailed v u)))
    ∧ (∀ p, .core p ∉ s.mgmt.failed →
      let u := declareFailed s (.core p)
      u.mgmt.failed = .core p :: s.mgmt.failed ∧ u.cores = s.cores ∧ u.kernels = s.kernels
      ∧ ((goodCores { s with mgmt := { s.mgmt with failed := .core p :: s.mgmt.failed } } (clusterOf p)).length < 4 →
        clusterOf p ∈ u.mgmt.clustersOut))
    ∧ (∀ pier shaft l,
      let sh := tget {} s.mgmt.shafts (32 * pier + shaft)
      l ∉ sh.failed → l ∉ sh.waiting →
      tget {} (declareFailed s (.lane pier shaft l)).mgmt.shafts (32 * pier + shaft)
        = { sh with waiting := sh.waiting ++ [l] })
    ∧ (∀ n, s.cyc % 1024 = 0 →
      let sh := tget {} s.mgmt.shafts n
      let y : Shaft := { sh with failed := sh.failed ++ sh.waiting, waiting := [] }
      sh.waiting ≠ [] → sh.gone = false →
      (∀ h, halfAfter y = some h → ∃ u, exec (.laneSubstitution n) s = .next u
        ∧ u.mem = { s.mem with phys := u.mem.phys } ∧ u.cores = s.cores
        ∧ (Memory.wf s.mem.phys = true → ∀ a, a < 0x20002400000 ∨ 0x20004000000 ≤ a →
          memRead u.mem.phys a = memRead s.mem.phys a)
        ∧ tget {} u.mgmt.shafts n = { y with half := h } ∧ (h = 0 → u.kernels = s.kernels))
      ∧ (halfAfter y = none → exec (.laneSubstitution n) s = .next
        (loseFatally { s with mgmt := { s.mgmt with shafts := tset s.mgmt.shafts n y } } (.shaft (n / 32) (n % 32))))
      ∧ (y.failed.length ≤ 32 → halfAfter y = some 0))
    ∧ (∀ n, s.cyc % 1024 ≠ 0 → exec (.laneSubstitution n) s = .next s)
    ∧ (∀ n, works → (tget {} s.mgmt.clusters n).slice = none →
      (∀ k ∈ s.kernels, k.2.holds = true → n ∉ k.2.clusters) →
      n ∉ s.mgmt.clustersOut → (tget {} s.mgmt.clusters n).idleAt + 1920000000 ≤ s.link.elapsed →
      ∃ u, exec (.testSliceStart n) s = .next u ∧ u.mem = s.mem
        ∧ tget {} u.mgmt.clusters n = { tget {} s.mgmt.clusters n with
            slice := some 60000, idleAt := s.link.elapsed })
    ∧ (∀ n, (tget {} s.mgmt.clusters n).slice.isSome = true → exec (.testSliceStart n) s = .next s)
    ∧ (∀ n, (tget {} s.mgmt.clusters n).slice = some 0 → Memory.wf s.mem.phys = true →
      ((tget {} s.mgmt.clusters n).defect = false →
        ∃ u, exec (.testSliceEnd n) s = .next u ∧ (tget {} u.mgmt.clusters n).slice = none
          ∧ readLE u.mem.phys (testAt n + 1) 1 = (readLE s.mem.phys (testAt n + 1) 1 + 1) % 256
          ∧ (∀ a, (a < testAt n ∨ testAt n + 32 ≤ a) → memRead u.mem.phys a = memRead s.mem.phys a)
          ∧ tget [] u.mgmt.testRd n = readBytes u.mem.phys (testAt n) 32)
      ∧ ((tget {} s.mgmt.clusters n).defect = true → ∃ u, exec (.testSliceEnd n) s = .next u
        ∧ (s.cp.issued = [] → (tget {} u.mgmt.clusters n).slice = none ∧ n ∈ u.mgmt.clustersOut
          ∧ readLE u.mem.phys (testAt n) 1 = 1
          ∧ readLE u.mem.phys (testAt n + 2) 1 = readLE s.mem.phys (testAt n + 1) 1
          ∧ readLE u.mem.phys (testAt n + 24) 8 = timeNs s % 2 ^ 64
          ∧ (∀ a, (a < testAt n ∨ testAt n + 32 ≤ a) → memRead u.mem.phys a = memRead s.mem.phys a)
          ∧ tget [] u.mgmt.testRd n = readBytes u.mem.phys (testAt n) 32)))
    ∧ (∀ n, (tget {} s.mgmt.clusters n).slice ≠ some 0 → exec (.testSliceEnd n) s = .next s)
    ∧ (∀ n, works → testField s n 0 1 = 1 →
      (∀ x ∈ s.cp.ctxs, x.2.st = .free ∨ bitOf (fieldLE x.2.desc 0x18 16) n = false) →
      (tget {} s.mgmt.clusters n).defect = false →
      ∃ u, exec (.clusterRetest n) s = .next u ∧ u.mem.phys = writeBytes s.mem.phys (testAt n) [0]
        ∧ u.mgmt.clustersOut = s.mgmt.clustersOut.filter (fun x => decide (x ≠ n)))
    ∧ (∀ n, (tget {} s.mgmt.clusters n).defect = true ∨ testField s n 0 1 ≠ 1 →
      exec (.clusterRetest n) s = .next s)

/-! ## Contexts (08, 09) -/

/-- R80, R81, R73, R74, R77, R299: entries enter the ring from the doorbell, and a CTX.KILL is taken before every
other (an index of 64 or more is discarded: the model's choice, log entry 125); one that breaks R80 completes with
BAD_DESC and one of another OP is not this command's; an entry completes with its status and its OP cleared;
CTX.NEW opens a free slot, CTX.SET gives it another descriptor, CTX.KEY fills a key slot and clears the bytes it
came from, CTX.IMG has the hash unit read the image, which then takes the next index and an offset, CTX.READ shows
descriptor and status. The doorbell and each of these five commands is a next state here. The status of an address
beyond queue memory (log entry 122), of a retired cluster and of CTX.READ of a FREE slot (log entry 69), the order of
the checks of CTX.IMG (log entry 123), and that its entry completes with its digest (log entry 120) are the model's
choice. -/
def Obligations.ContextCommands : Prop :=
  ∀ s : State,
    (∀ i, serving s = true → i < 64 →
      exec (.controlDoorbell i) s = .next { s with cp := { s.cp with ctl := s.cp.ctl ++ [i] } })
    ∧ (∀ i, 64 ≤ i → exec (.controlDoorbell i) s = .next s)
    ∧ (∀ i e, controlEntry s = some (i, e) → ∀ p ∈ ([(1, .ctxNew), (2, .ctxSet), (3, .ctxKey), (4, .ctxImg), (5, .ctxYield),
        (6, .ctxResume), (7, .ctxSeal), (8, .ctxUnseal), (9, .ctxClear), (10, .ctxKill), (11, .ctxRead)] : List (Nat × Instr)),
      (fieldLE e 0 1 ≠ p.1 → exec p.2 s = .next s)
      ∧ (fieldLE e 0 1 = p.1 → (fieldLE e 3 1 ≠ 0 ∨ (p.1 ≠ 3 ∧ 63 < fieldLE e 1 1)) →
        exec p.2 s = .next (completeControl s i 3)))
    ∧ (∀ i rest e, s.cp.ctl = i :: rest → readBytes s.mem.qmem (64 * i) 64 = e →
      (∀ j ∈ s.cp.ctl, memRead s.mem.qmem (64 * j) ≠ 0x0A) →
      ((∀ j ∈ s.cp.ctl, memRead s.mem.qmem (64 * j) ≠ 0x05) ∨ memRead s.mem.qmem (64 * i) = 0x05) →
      controlEntry s = some (i, e))
    ∧ (∀ i e, controlEntry s = some (i, e) → (∃ j ∈ s.cp.ctl, memRead s.mem.qmem (64 * j) = 0x0A) →
      i ∈ s.cp.ctl ∧ memRead s.mem.qmem (64 * i) = 0x0A)
    ∧ (∀ i st, st < 256 → Memory.wf s.mem.qmem = true → let u := completeControl s i st
      u.cp.ctl = s.cp.ctl.erase i ∧ memRead u.mem.qmem (64 * i) = 0
        ∧ memRead u.mem.qmem (64 * i + 2) = BitVec.ofNat 8 st
        ∧ (∀ a, a ≠ 64 * i → a ≠ 64 * i + 2 → memRead u.mem.qmem a = memRead s.mem.qmem a)
        ∧ u = { s with cp := u.cp, mem := { s.mem with qmem := u.mem.qmem } })
    ∧ (∀ i ctx e d, controlHead s i 1 ctx e → queueBytes s (fieldLE e 8 8) 128 = some d → descReject s ctx d = none →
      (ctxAt s ctx).st = .free → ∃ u, exec .ctxNew s = .next u
        ∧ (ctxAt u ctx).st = .ready ∧ (ctxAt u ctx).gen = nextGen s ctx ∧ (ctxAt u ctx).desc = d
        ∧ (ctxAt u ctx).images = [] ∧ (ctxAt u ctx).fault = 0 ∧ (ctxAt u ctx).nextKseq = 1
        ∧ (ctxAt u ctx).seq = (if bitOf (fieldLE d 0 8) 2 then 1 else 0)
        ∧ (∀ n, n ≠ ctx → ctxAt u n = ctxAt s n) ∧ u.cores = s.cores ∧ u.kernels = s.kernels
        ∧ u.mem.qmem = (completeControl s i 0).mem.qmem ∧ u.cp.ctl = s.cp.ctl.erase i)
    ∧ (∀ i ctx e, controlHead s i 1 ctx e → (ctxAt s ctx).st ≠ .free → exec .ctxNew s = .next (completeControl s i 5))
    ∧ (∀ i ctx e d, controlHead s i 2 ctx e → queueBytes s (fieldLE e 8 8) 128 = some d → descReject s ctx d = none →
      bitsOf (fieldLE d 0 8) 3 2 = bitsOf (fieldLE (ctxAt s ctx).desc 0 8) 3 2 →
      ((ctxAt s ctx).st = .ready ∨ (ctxAt s ctx).st = .switched) → ∃ u, exec .ctxSet s = .next u
        ∧ ctxAt u ctx = { ctxAt s ctx with desc := d } ∧ (∀ n, n ≠ ctx → ctxAt u n = ctxAt s n)
        ∧ u.cores = s.cores ∧ u.kernels = s.kernels ∧ u.mem.phys = s.mem.phys
        ∧ u.mem.qmem = (completeControl s i 0).mem.qmem)
    ∧ (∀ i ctx e key, controlHead s i 3 ctx e → queueBytes s (fieldLE e 16 8) 64 = some key → fieldLE e 8 1 ≤ 63 →
      (s.cp.ctxs.all (fun x => x.2.st == .free || !bitOf (fieldLE x.2.desc 0x10 8) (fieldLE e 8 1))) = true →
      exec .ctxKey s = .next (completeControl { s with
        cp := { s.cp with keys := tset s.cp.keys (fieldLE e 8 1) key }
        mem := { s.mem with qmem := writeBytes s.mem.qmem (fieldLE e 16 8) (List.replicate 64 0) } } i 0))
    ∧ (∀ i ctx e, controlHead s i 4 ctx e → imaging s = false →
      let va := fieldLE e 8 8
      let len := fieldLE e 16 8
      let room := (ctxAt s ctx).images.length < 16
      ((ctxAt s ctx).st ≠ .ready → exec .ctxImg s = .next (completeControl s i 2))
      ∧ ((ctxAt s ctx).st = .ready → ¬room → exec .ctxImg s = .next (completeControl s i 9))
      ∧ ((ctxAt s ctx).st = .ready → room → tableRange s ctx cpReadable va len = none →
        exec .ctxImg s = .next (completeControl s i 0x0B))
      ∧ (∀ ps, (ctxAt s ctx).st = .ready → room → tableRange s ctx cpReadable va len = some ps →
        let b := readPieces s ps
        let place := windowPlace (ctxAt s ctx).images (fieldLE b 0x30 4 + fieldLE b 0x34 4)
        (headerFits b = false → exec .ctxImg s = .next (completeControl s i 3))
        ∧ (headerFits b = true → place = none → exec .ctxImg s = .next (completeControl s i 9))
        ∧ (headerFits b = true → place ≠ none → exec .ctxImg s = .next (startHash s ctx (.image i va len) ps))))
    ∧ (∀ i ctx e, controlHead s i 4 ctx e → imaging s = true → exec .ctxImg s = .next s)
    ∧ (∀ i ctx va len b lossy o, headerFits b = true →
      windowPlace (ctxAt s ctx).images (fieldLE b 0x30 4 + fieldLE b 0x34 4) = some o →
      let n := (ctxAt s ctx).images.length
      let u := (registerImage s i ctx va len b lossy).1
      (registerImage s i ctx va len b lossy).2 = 0
        ∧ (ctxAt u ctx).st = (ctxAt s ctx).st ∧ (ctxAt u ctx).desc = (ctxAt s ctx).desc
        ∧ (ctxAt u ctx).images = tset (ctxAt s ctx).images n
            { offset := o, codeSize := fieldLE b 0x30 4, dataSize := fieldLE b 0x34 4, bytes := b, digest := digest b }
        ∧ (∀ m, m ≠ ctx → ctxAt u m = ctxAt s m) ∧ u.cores = s.cores ∧ u.kernels = s.kernels
        ∧ u.mem.qmem = writeBytes s.mem.qmem (64 * i + 24) (natLE 1 n))
    ∧ (∀ (v : State) (h : Hashing) i va len, h.use = .image i va len →
      let r := registerImage v i h.ctx va len h.got h.lossy
      endHash v h = completeControl r.1 i r.2)
    ∧ (∀ i ctx e, controlHead s i 11 ctx e →
      (fieldLE e 8 8 + 256 ≤ Config.qmemSize →
        let shown := ((ctxAt s ctx).desc ++ List.replicate (128 - (ctxAt s ctx).desc.length) 0).take 128
        exec .ctxRead s = .next (completeControl { s with
          mem := { s.mem with
            qmem := writeBytes s.mem.qmem (fieldLE e 8 8) (shown ++ statusBlock (ctxAt s ctx) ctx) } } i 0))
      ∧ (Config.qmemSize < fieldLE e 8 8 + 256 → exec .ctxRead s = .next (completeControl s i 3)))

/-- R75 to R79, R86, R87, R275: a RUNNING context yields, every kernel of it being asked to leave and a relaunch being
deferred, its frame map entries marked RELAUNCH; it is SWITCHED when all have left, its other clusters taking a test
slice, and resumes on another mask; a FAULTED one is cleared; a killed or sealed one leaves its slot FREE with
its GEN; an unsealed one comes back under the next GEN; each is refused with BAD_STATE, or SEAL_BAD for an image
the module does not hold, elsewhere. CTX.YIELD, CONTEXT_SWITCHED, CTX.RESUME, CTX.CLEAR, CTX.KILL, CTX.SEAL and
CTX.UNSEAL are a next state here. That CTX.KILL drops the context's collectives (log entry 79), the details of a seal
(log entry 67), that a seal first completes the digests of its ARGS records (log entry 120), and which clusters a
SWITCHED context lets go (log entry 136) are the model's choice. -/
def Obligations.ContextStates : Prop :=
  ∀ s : State,
    (∀ i ctx e, controlHead s i 5 ctx e →
      let waits := s.kernels.filter (fun x => x.2.ctx == ctx && x.2.st == .relaunching)
      ((ctxAt s ctx).st = .running → waits = [] → exec .ctxYield s = .next (completeControl
        { (updCtx s ctx (fun c => { c with st := .yielding })) with
          agenda := (liveKernels s ctx).map (fun x => .row (.preemptLatch x.1)) ++ s.agenda } i 0))
      ∧ (∀ kid k, (ctxAt s ctx).st = .running → waits = [(kid, k)] → ∃ u, exec .ctxYield s = .next u
        ∧ (ctxAt u ctx).st = .yielding ∧ u.kernel? kid = some { k with deferred := true } ∧ u.cores = s.cores
        ∧ ∀ cl ∈ k.clusters, ∃ en, tfind (ctxAt u ctx).frames (frameRank s ctx cl) = some en
          ∧ (tfind (ctxAt s ctx).frames (frameRank s ctx cl) = none →
            en.relaunch = true ∧ en.valid = false ∧ en.kid = kid))
      ∧ ((ctxAt s ctx).st ≠ .running → exec .ctxYield s = .next (completeControl s i 2)))
    ∧ (∀ ctx c, s.cp.ctxs.find? (fun x => x.2.st == .yielding && s.kernels.all (fun k => k.2.ctx != x.1 || k.2.away))
        = some (ctx, c) → ∃ u, exec .contextSwitched s = .next u ∧ (ctxAt u ctx).st = .switched
          ∧ (ctxAt u ctx).desc = (ctxAt s ctx).desc ∧ (ctxAt u ctx).images = (ctxAt s ctx).images
          ∧ (∀ n, n ≠ ctx → ctxAt u n = ctxAt s n) ∧ u.kernels = s.kernels ∧ u.cores = s.cores
          ∧ u.mem.csram = s.mem.csram ∧ u.mem.qmem = s.mem.qmem ∧ u.mem.kmem = s.mem.kmem
          ∧ (ctxAt u ctx).frames = (ctxAt s ctx).frames
          ∧ ∀ cl ∈ switchedClusters s ctx, (tget {} u.mgmt.clusters cl).slice = some 60000)
    ∧ ((∀ x ∈ s.cp.ctxs, x.2.st = .yielding → ∃ k ∈ s.kernels, k.2.ctx = x.1 ∧ k.2.away = false) →
      exec .contextSwitched s = .next s)
    ∧ (∀ i ctx e, controlHead s i 6 ctx e →
      let mask := fieldLE e 8 16
      ((ctxAt s ctx).st = .switched → maskOut s mask = false → maskTaken s ctx mask = false →
        0x1000000 * (maskClusters mask).length ≤ ctxField s.cp ctx 0x30 8 →
        (∀ x ∈ liveKernels s ctx, comesBack x.2 = true → bindsOn s mask x.2 = true) →
        ∃ u, exec .ctxResume s = .next u
          ∧ ctxAt u ctx = { ctxAt s ctx with
              desc := patch (ctxAt s ctx).desc 0x18 (natLE 16 mask)
              st := if (liveKernels s ctx).isEmpty then .ready else .running }
          ∧ (∀ n, n ≠ ctx → ctxAt u n = ctxAt s n) ∧ u.cores = s.cores
          ∧ u.kernels = s.kernels.map (fun x => (x.1, if x.2.ctx = ctx then { x.2 with deferred := false } else x.2))
          ∧ u.mem.phys = s.mem.phys ∧ u.mem.qmem = (completeControl s i 0).mem.qmem)
      ∧ ((ctxAt s ctx).st ≠ .switched → exec .ctxResume s = .next (completeControl s i 2)))
    ∧ (∀ i ctx e, controlHead s i 9 ctx e →
      ((ctxAt s ctx).st = .faulted → ∃ u, exec .ctxClear s = .next u ∧ (ctxAt u ctx).st = .ready
        ∧ (ctxAt u ctx).gen = (ctxAt s ctx).gen ∧ (ctxAt u ctx).desc = (ctxAt s ctx).desc
        ∧ (ctxAt u ctx).images = (ctxAt s ctx).images ∧ u.cores = s.cores ∧ u.kernels = s.kernels
        ∧ u.mem.qmem = (completeControl s i 0).mem.qmem)
      ∧ ((ctxAt s ctx).st ≠ .faulted → exec .ctxClear s = .next (completeControl s i 2)))
    ∧ (∀ i ctx e, controlHead s i 10 ctx e →
      ((ctxAt s ctx).st ≠ .free → ∃ u, exec .ctxKill s = .next u ∧ ctxAt u ctx = { gen := (ctxAt s ctx).gen }
        ∧ (∀ x ∈ liveKernels s ctx, ∃ k, u.kernel? x.1 = some k ∧ k.st = .faulted)
        ∧ ∀ c ∈ u.link.colls, c.ctx ≠ ctx)
      ∧ ((ctxAt s ctx).st = .free → exec .ctxKill s = .next (completeControl s i 2)))
    ∧ (∀ i ctx e, controlHead s i 7 ctx e → inCistern s.mgmt (fieldLE e 8 8) 1024 = true →
      ((ctxAt s ctx).st = .ready ∨ (ctxAt s ctx).st = .switched) → s.cp.seals.length < 4096 →
      let n := s.cp.sealCnt + 1
      let v := flushDue s ctx
      let body := sealBody v ctx n
      ∃ u, exec .ctxSeal s = .next u ∧ ctxAt u ctx = { gen := (ctxAt v ctx).gen }
        ∧ (ctxAt v ctx).gen = (ctxAt s ctx).gen ∧ (ctxAt v ctx).desc = (ctxAt s ctx).desc
        ∧ u.cp.sealCnt = n ∧ u.cp.seals = s.cp.seals ++ [n] ∧ u.cp.sealedCtx = s.cp.sealedCtx ++ [(n, ctx, ctxAt v ctx)]
        ∧ u.mem.phys = (physWrite v.mem 0 (fieldLE e 8 8) (body ++ sealTag body)).phys)
    ∧ (∀ i ctx e, controlHead s i 7 ctx e → (ctxAt s ctx).st ≠ .ready → (ctxAt s ctx).st ≠ .switched →
      exec .ctxSeal s = .next (completeControl s i 2))
    ∧ (∀ i ctx e c, controlHead s i 8 ctx e → inCistern s.mgmt (fieldLE e 8 8) 1024 = true →
      (ctxAt s ctx).st = .free →
      let b := physRead s.mem 0 (fieldLE e 8 8) 1024
      let n := fieldLE b 0x200 8
      (s.cp.sealedCtx.find? (fun x => x.1 == n) = some (n, ctx, c) → b.drop 0x3C0 = sealTag (b.take 0x3C0) →
        s.cp.seals.contains n = true → bitsOf (fieldLE b 0x84 4) 21 16 = ctx → descReject s ctx c.desc = none →
        ∃ u, exec .ctxUnseal s = .next u ∧ (ctxAt u ctx).st = c.st ∧ (ctxAt u ctx).gen = nextGen s ctx
          ∧ (ctxAt u ctx).desc = c.desc ∧ (ctxAt u ctx).images = c.images
          ∧ u.cp.seals = s.cp.seals.filter (fun x => decide (x ≠ n)) ∧ u.cores = s.cores)
      ∧ (s.cp.sealedCtx.find? (fun x => x.1 == n) = none → exec .ctxUnseal s = .next (completeControl s i 7)))

/-! ## Queues (10) -/

/-- R99 to R102, R110: a disabled queue is enabled from a descriptor that fits and keeps the status of one that does
not; disabling leaves a command in progress to run to completion; a resumed queue is IDLE or READY; the doorbell
takes an index below the ring's size; 10 ms in READY raise PEFF by 1, to at most 3. QUEUE_ENABLE, QUEUE_DISABLE,
QUEUE_RESUME, QUEUE_DOORBELL and QUEUE_AGING are a next state here. -/
def Obligations.QueueTable : Prop :=
  ∀ (s : State) (q : Nat),
    let x := queueAt s q
    let d := readBytes s.mem.qmem (0x2000 + 64 * q) 64
    (serving s = true → x.st = .disabled →
      (∀ st, enableReject s d = some st → exec (.queueEnable q) s = .next (updQueue s q (fun x => { x with lastSt := st })))
      ∧ (enableReject s d = none → ∃ u, exec (.queueEnable q) s = .next u ∧ u.mem = s.mem ∧ u.kernels = s.kernels
        ∧ (∀ n, n ≠ q → queueAt u n = queueAt s n)
        ∧ (queueAt u q).st = .idle ∧ (queueAt u q).kind = fieldLE d 1 1 ∧ (queueAt u q).pbase = fieldLE d 2 1
        ∧ (queueAt u q).peff = fieldLE d 2 1 ∧ (queueAt u q).netcls = fieldLE d 8 1 ∧ (queueAt u q).ctx = fieldLE d 9 1
        ∧ (queueAt u q).gen = fieldLE d 0x0A 2 ∧ (queueAt u q).size = fieldLE d 0x0C 4 ∧ (queueAt u q).head = 0
        ∧ (queueAt u q).tail = 0 ∧ (queueAt u q).ring = fieldLE d 0x20 8 ∧ (queueAt u q).evBase = fieldLE d 0x28 8))
    ∧ (x.st ≠ .disabled → exec (.queueEnable q) s = .next s)
    ∧ (x.st ≠ .active → x.st ≠ .waiting → exec (.queueDisable q) s
      = .next (updQueue s q (fun x => { x with st := .disabled, cmd := [], begun := false, copy := none })))
    ∧ ((x.st = .active ∨ x.st = .waiting) → q ≠ s.cp.nextMoved → ∃ u, exec (.queueDisable q) s = .next u
      ∧ (queueAt u q).st = .disabled ∧ queueAt u s.cp.nextMoved = { x with movedFrom := some q } ∧ u.mem = s.mem)
    ∧ (x.st = .stopped → exec (.queueResume q) s = .next (updQueue s q (fun x =>
        { x with st := if x.head = x.tail then .idle else .ready, age := s.link.elapsed })))
    ∧ (x.st ≠ .stopped → exec (.queueResume q) s = .next s)
    ∧ (∀ t, t < sizeOf s q → exec (.queueDoorbell q t) s = .next (updQueue s q (fun x => { x with tail := t })))
    ∧ (∀ t, sizeOf s q ≤ t → exec (.queueDoorbell q t) s = .next s)
    ∧ (x.st ≠ .disabled → sizeOf s q = x.size)
    ∧ (x.st = .ready → x.age + 1920000000 ≤ s.link.elapsed → exec (.queueAging q) s
      = .next (updQueue s q (fun x => { x with peff := min 3 (x.peff + 1), age := x.age + 1920000000 })))
    ∧ (s.link.elapsed < x.age + 1920000000 ∨ x.st ≠ .ready → exec (.queueAging q) s = .next s)

/-- R109, R103, R106, R111, R115, R116: at most one command every 8 cycles is dispatched, of a READY queue with the highest
PEFF, none of whose earlier commands is in progress and whose LAUNCH is bindable; its queue is ACTIVE at its base priority again. A command that breaks R103 completes with BAD_DESC; a
completed one leaves its status in its word, its OP cleared, the head one on, and its queue IDLE, READY, or
STOPPED on a failure without FLAGS.CONTINUE. -/
def Obligations.CommandsDispatchAndComplete : Prop :=
  ∀ s : State,
    (∀ q, serving s = true → s.cp.nextDisp ≤ s.cyc → nextQueue s = some q →
      ((queueAt s q).st = .ready ∧ oldCommand s q = false ∧ unbindable s (queueAt s q) = false ∧ ∀ r ∈ candidates s, (queueAt s r).peff ≤ (queueAt s q).peff)
      ∧ ∃ u, exec .dispatch s = .next u ∧ u.mem = s.mem ∧ u.kernels = s.kernels ∧ u.cores = s.cores
        ∧ u.cp.cmdQ = q ∧ u.cp.nextDisp = s.cyc + 8 ∧ (∀ n, n ≠ q → queueAt u n = queueAt s n)
        ∧ queueAt u q = { queueAt s q with
            st := .active, passed := false, peff := (queueAt s q).pbase, atPeff := (queueAt s q).peff
            cmd := readBytes s.mem.qmem ((queueAt s q).ring + 64 * (queueAt s q).head) 64
            begun := false, since := s.link.elapsed, stamp := s.link.clock })
    ∧ ((s.cyc < s.cp.nextDisp ∨ nextQueue s = none) → exec .dispatch s = .next s)
    ∧ (∀ p ∈ ([(1, .launch), (2, .copy), (3, .waitv), (4, .signalStore), (4, .signalAdd), (4, .signalMailbox), (5, .receipt),
        (6, .coll), (7, .preemptSuspend), (7, .preemptRelease)] : List (Nat × Instr)),
      let x := queueAt s s.cp.cmdQ
      ((x.st ≠ .active ∨ x.begun = true ∨ fieldLE x.cmd 0 1 ≠ p.1) → exec p.2 s = .next s)
      ∧ (x.st = .active → x.begun = false → fieldLE x.cmd 0 1 = p.1 → badWord x.cmd = true →
        exec p.2 s = .next (if onWord x.cmd then finishCommand s s.cp.cmdQ 3 else completeCommand s s.cp.cmdQ 3)))
    ∧ (∀ q st, q < 256 → st < 256 → Memory.wf s.mem.qmem = true →
      let x := queueAt s q
      let u := completeCommand s q st
      let good := st = 0 ∨ bitOf (fieldLE x.cmd 3 1) 0 = true
      memRead u.mem.qmem (x.ring + 64 * x.head) = 0
        ∧ memRead u.mem.qmem (x.ring + 64 * x.head + 2) = BitVec.ofNat 8 st
        ∧ (∀ a, a ≠ x.ring + 64 * x.head → a ≠ x.ring + 64 * x.head + 2 →
          memRead u.mem.qmem a = memRead s.mem.qmem a)
        ∧ (queueAt u q).head = (x.head + 1) % x.size ∧ (queueAt u q).tail = x.tail
        ∧ (good → (queueAt u q).faultIdx = x.faultIdx
          ∧ (queueAt u q).st = if (x.head + 1) % x.size = x.tail then .idle else .ready)
        ∧ (¬good → (queueAt u q).faultIdx = x.head ∧ (queueAt u q).st = .stopped)
        ∧ u.kernels = s.kernels ∧ u.cores = s.cores)

/-- R104 to R106, R113, R116, R121, R174: LAUNCH is rejected with the status of its first failing check, accepted with
its binding, turned away with REACH where its pages have no room there, or BLOCKED; COPY translates its addresses
once, has a beat for every 64 bytes, and ends with its record and status once every beat has passed; RECEIPT closes
the records of its buffers and waits for its signature under the next leaf; COLL goes to the engine; PREEMPT asks
a kernel to leave, or lets a suspended one come back. LAUNCH, COPY, COPY_COMPLETE, RECEIPT, RECEIPT_SIGNED, COLL and
the two forms of PREEMPT are a next state here. That RECEIPT checks CONFIG.RCPT first, and BAD_DESC for an ACTION above
1, are the model's choice (log entry 78), as is the order of several failing checks of one COPY (log entry 142). -/
def Obligations.QueueCommands : Prop :=
  ∀ (s : State) (q : Nat) (x : Queue),
    (commandHead s 1 q x →
      let b := begun s q
      (launchOf b x.ctx x.cmd = none → exec .launch s = .next (completeCommand b q 0x0B))
      ∧ ∀ r, launchOf b x.ctx x.cmd = some r →
        (∀ st, launchReject b r = some st → exec .launch s = .next (completeCommand b q st))
        ∧ (launchReject b r = none → ∀ im bind, launchImage b r = some im → launchBinding b r (rivals b none) = some bind →
          (∀ v, reachFits b bind (setPages b r) = true → placeAll bind b (setPages b r) = some v →
            ∃ u k, exec .launch s = .next u ∧ u.nextKid = s.nextKid + 1 ∧ u.kernel? s.nextKid = some k
              ∧ k.st = .preparing ∧ k.bind = bind ∧ k.ctx = r.ctx ∧ k.kseq = (ctxAt s r.ctx).nextKseq
              ∧ k.queue = some q ∧ k.peff = x.atPeff ∧ k.relaunches = 0
              ∧ (ctxAt u r.ctx).nextKseq = (ctxAt s r.ctx).nextKseq + 1)
          ∧ (reachFits b bind (setPages b r) = false ∨ placeAll bind b (setPages b r) = none →
            exec .launch s = .next (completeCommand b q 0x25)))
        ∧ (launchReject b r = none → launchBinding b r (rivals b none) = none →
          exec .launch s = .next (updQueue b q (fun y =>
            { y with st := .blocked, cmd := [], begun := false, peff := x.atPeff }))))
    ∧ (commandHead s 2 q x →
      let b := begun s q
      (∀ st, copyReq b x = .inl st → exec .copy s = .next (completeCommand b q st))
      ∧ (∀ r, copyReq b x = .inr r → exec .copy s = .next (updQueue b q (fun y => { y with copy := some r }))
        ∧ r.beat = 0 ∧ r.failed = false ∧ fieldLE x.cmd 24 8 ≤ 64 * r.beats))
    ∧ (queueAt s q = x →
      (x.copy = none ∨ x.st ≠ .active → exec (.copyComplete q) s = .next s)
      ∧ (∀ c, x.copy = some c → x.st = .active →
        let ended := (c.failed = true ∨ c.beats ≤ c.beat) ∧ wellBusy s (c.whole ++ c.rec_) = false
        (ended → exec (.copyComplete q) s = .next (endCopy s q c))
        ∧ (ended → c.rec_ = [] →
          exec (.copyComplete q) s = .next (completeCommand s q (if c.failed then 0x12 else 0)))
        ∧ (¬ended → exec (.copyComplete q) s = .next s)))
    ∧ (commandHead s 5 q x →
      let b := begun s q
      let off := fieldLE x.cmd 8 8
      let count := fieldLE x.cmd 16 1
      (rcptOk s x.ctx = false → exec .receipt s = .next (completeCommand b q 2))
      ∧ (∀ bufs dest, rcptOk s x.ctx = true → 1 ≤ count → count ≤ 8 → off + 16 * count ≤ Config.qmemSize →
        receiptBuffers b x.ctx off count = some bufs →
        tableRange b x.ctx (fun p => cpReadable p && p.write) (fieldLE x.cmd 24 8) 2956 = some dest →
        (measured b x.ctx = false → leavesUsed s.cp < leavesAll - 4096 →
          ∃ u g, exec .receipt s = .next u ∧ u.cp.signing = s.cp.signing ++ [g] ∧ g.queue = some q ∧ g.ctx = x.ctx
            ∧ g.tree = s.cp.tree ∧ g.leaf = s.cp.leaf ∧ g.dest = dest ∧ g.discard = none
            ∧ leavesUsed u.cp = leavesUsed s.cp + 1 ∧ (ctxAt u x.ctx).cluUnion = 0)
        ∧ (measured b x.ctx = false → leavesAll - 4096 ≤ leavesUsed s.cp →
          exec .receipt s = .next (completeCommand b q 0x0C))
        ∧ (∀ va len ps rest, measured b x.ctx = true → bufs = (va, len, ps) :: rest →
          exec .receipt s = .next (startHash b x.ctx (.result q va len rest dest) ps))))
    ∧ (s.cp.signing = [] → exec .receiptSigned s = .next s)
    ∧ (∀ g rest, s.cp.signing = g :: rest → g.discard = none → ∃ u, exec .receiptSigned s = .next u
      ∧ u.cp.signing = rest
      ∧ u.cp.issued = s.cp.issued ++ [{
                                        tree := g.tree, leaf := g.leaf, ctx := g.ctx, gen := g.gen
                                        time := fieldLE g.body 48 8 }]
      ∧ u.kernels = s.kernels ∧ u.cores = s.cores)
    ∧ (∀ g rest st, s.cp.signing = g :: rest → g.discard = some st → exec .receiptSigned s = .next { s with
      cp := { s.cp with signing := rest }
      mem := { s.mem with qmem := writeBytes (writeBytes s.mem.qmem (g.addr + 2) (natLE 1 st)) g.addr [0] } })
    ∧ (commandHead s 6 q x →
      let b := begun s q
      let span := tableRange b x.ctx (fun p => p.kind == 0) (fieldLE x.cmd 8 8) 192
      (span = none → exec .coll s = .next (completeCommand b q 0x0B))
      ∧ (span ≠ none → exec .coll s = .next { b with
          link := { b.link with colls := b.link.colls ++ [newColl (fieldLE x.cmd 8 8) x.ctx none (some q) none] } }))
    ∧ (commandHead s 7 q x →
      let b := begun s q
      let target := kernelBySeq s x.ctx (fieldLE x.cmd 8 4)
      (1 < fieldLE x.cmd 12 1 → exec .preemptSuspend s = .next (completeCommand b q 3))
      ∧ (fieldLE x.cmd 12 1 = 0 → target = none → exec .preemptSuspend s = .next (completeCommand b q 0x0F))
      ∧ (∀ kid k, fieldLE x.cmd 12 1 = 0 → target = some (kid, k) →
        (k.st = .suspended ∨ k.st = .relaunching → exec .preemptSuspend s = .next (completeCommand b q 0x0F))
        ∧ (k.st ≠ .suspended → k.st ≠ .relaunching → hasPoints s k = false →
          exec .preemptSuspend s = .next (completeCommand b q 0x10))
        ∧ (k.st ≠ .suspended → k.st ≠ .relaunching → hasPoints s k = true → exec .preemptSuspend s = .next
          { b.setKernel kid { k with preemptQ := k.preemptQ ++ [q] } with
            agenda := .row (.preemptLatch kid) :: s.agenda }))
      ∧ (fieldLE x.cmd 12 1 = 1 → target = none → exec .preemptRelease s = .next (completeCommand b q 0x0F))
      ∧ (∀ kid k, fieldLE x.cmd 12 1 = 1 → target = some (kid, k) →
        (k.st = .suspended → exec .preemptRelease s
          = .next (completeCommand (b.setKernel kid { k with userHold := false }) q 0))
        ∧ (k.st ≠ .suspended → exec .preemptRelease s = .next (completeCommand b q 0x0F))))

/-- R107, R108, R117, R183: WAITV compares, at its dispatch, the masked word as the cycles before have left it, and ends
or waits, later evaluations alike, and times out; SIGNAL stores, adds modulo 2^64, or writes a mailbox of a role of a
running or suspended kernel, and ends the cycle after; a kernel that is neither, or no kernel, is NO_TARGET. A command
that ends among the Keystones' operations completes with the completions of its cycle. BAD_DESC for a misaligned word
and for a role from 512 on (log entry 78), and the cycle in which a SIGNAL is performed (log entries 87 and 108), are the
model's choice. -/
def Obligations.WaitsAndSignals : Prop :=
  ∀ (s : State) (q : Nat) (x : Queue),
    let va := fieldLE x.cmd 8 8
    let holds := fun (v : State) (w : WordAt) =>
      let a := wordValue (atCycleStart v) w &&& fieldLE x.cmd 24 8
      let b := fieldLE x.cmd 16 8
      let c := fieldLE x.cmd 32 1
      (c = 0 ∧ a = b) ∨ (c = 1 ∧ a ≠ b) ∨ (c = 2 ∧ b ≤ a) ∨ (c = 3 ∧ a < b)
    (∀ (v : State) (r st : Nat), (finishCommand v r st).cp.finished = v.cp.finished ++ [(r, st, v.cyc)])
    ∧ (commandHead s 3 q x →
      let b := begun s q
      (3 < fieldLE x.cmd 32 1 ∨ va % 8 ≠ 0 → exec .waitv s = .next (completeCommand b q 3))
      ∧ (fieldLE x.cmd 32 1 ≤ 3 → va % 8 = 0 →
        (wordAt b x.ctx va false = none → exec .waitv s = .next (completeCommand b q 0x0B))
        ∧ ∀ w, wordAt b x.ctx va false = some w →
          (holds b w → exec .waitv s = .next (completeCommand b q 0))
          ∧ (¬holds b w → exec .waitv s = .next (updQueue b q (fun y => { y with st := .waiting })))))
    ∧ (queueAt s q = x → x.st = .waiting → fieldLE x.cmd 32 1 ≤ 3 →
      (wordAt s x.ctx va false = none → exec (.waitvEvaluate q) s = .next (finishCommand s q 0x0B))
      ∧ ∀ w, wordAt s x.ctx va false = some w →
        (holds s w → exec (.waitvEvaluate q) s = .next (finishCommand s q 0))
        ∧ (¬holds s w → exec (.waitvEvaluate q) s = .next s))
    ∧ (queueAt s q = x → x.st ≠ .waiting →
      exec (.waitvEvaluate q) s = .next s ∧ exec (.waitTimeout q) s = .next s)
    ∧ (queueAt s q = x → x.st = .waiting →
      (fieldLE x.cmd 36 4 = 0 → exec (.waitTimeout q) s = .next s)
      ∧ (fieldLE x.cmd 36 4 ≠ 0 → x.stamp + 192000 * fieldLE x.cmd 36 4 ≤ s.link.clock →
        exec (.waitTimeout q) s = .next (completeCommand s q 0x0E))
      ∧ (s.link.clock < x.stamp + 192000 * fieldLE x.cmd 36 4 → exec (.waitTimeout q) s = .next s))
    ∧ (commandHead s 4 q x → fieldLE x.cmd 24 8 % 8 = 0 →
      let b := begun s q
      let form := fieldLE x.cmd 8 1
      (wordAt b x.ctx (fieldLE x.cmd 24 8) true = none →
        (form = 0 → exec .signalStore s = .next (finishCommand b q 0x0B))
        ∧ (form = 1 → exec .signalAdd s = .next (finishCommand b q 0x0B)))
      ∧ ∀ w, wordAt b x.ctx (fieldLE x.cmd 24 8) true = some w →
        let done := fun v => Host.Outcome.next (φ := Fault) (ρ := Refusal) (finishLater (noteLine (storeWord b w v) w) q 0 (s.cyc + 1))
        (form = 0 → exec .signalStore s = done (fieldLE x.cmd 16 8))
        ∧ (form = 1 → exec .signalAdd s = done ((wordValue b w + fieldLE x.cmd 16 8) % 2 ^ 64)))
    ∧ (commandHead s 4 q x →
      let form := fieldLE x.cmd 8 1
      (fieldLE x.cmd 24 8 % 8 ≠ 0 →
        (form = 0 → exec .signalStore s = .next (finishCommand (begun s q) q 3))
        ∧ (form = 1 → exec .signalAdd s = .next (finishCommand (begun s q) q 3)))
      ∧ (2 < form → exec .signalStore s = .next (completeCommand (begun s q) q 3)))
    ∧ (commandHead s 4 q x → fieldLE x.cmd 8 1 = 2 →
      let b := begun s q
      let role := fieldLE x.cmd 36 2
      let n := fieldLE x.cmd 38 1
      (512 ≤ role → exec .signalMailbox s = .next (completeCommand b q 3))
      ∧ (role < 512 → kernelBySeq s x.ctx (fieldLE x.cmd 32 4) = none →
        exec .signalMailbox s = .next (completeCommand b q 0x0F))
      ∧ ∀ kid k, role < 512 → kernelBySeq s x.ctx (fieldLE x.cmd 32 4) = some (kid, k) →
        (k.st = .relaunching ∨ k.st = .preparing ∨ k.bind.length ≤ role ∨ 7 < n →
          exec .signalMailbox s = .next (completeCommand b q 0x0F))
        ∧ (k.st ≠ .relaunching → k.st ≠ .preparing → role < k.bind.length → n ≤ 7 →
          exec .signalMailbox s = .next { finishLater b q 0 (s.cyc + 1) with
            agenda := .row (.mailboxWrite kid role n (BitVec.ofNat 64 (fieldLE x.cmd 16 8))) :: s.agenda }))

/-! ## Steps -/

/-- R289, R264, R265, R331: a row of the agenda runs as exec of it. A core that issues fetches its bundle, the target of a
taken branch having left its loop bodies; one that does not fetches nothing. A bundle that no trap meets runs as exec of each of its decoded operations in slot order,
then the bundle's end; a slot that traps adds its trap to those that R265 chooses from, and the later slots go on
without it; the bundle of a core that does not issue changes nothing. -/
def Obligations.StepRunsDecodedInstruction : Prop :=
  ∀ (s : State) (rest : List Item),
    (∀ i, s.agenda = .row i :: rest → step s = exec i { s with agenda := rest })
    ∧ (∀ p, issuesNow s p = false → exec (.fetchBundle p) s = .next s)
    ∧ (∀ p, issuesNow s p = true →
      let w := s.updCore p leaveBodies
      let a := bundleAt w p (w.core p).pc
      ((w.core p).codeSize ≤ a ∨ fetchUe w p a = none → exec (.fetchBundle p) s
        = .next { w.setCore p (fetchInto w p a) with act := p })
      ∧ (∀ u, a < (w.core p).codeSize → fetchUe w p a = some u → exec (.fetchBundle p) s
        = .next { w.setCore p (fetchLost w (w.core p) u a) with act := p }))
    ∧ (∀ p, s.agenda = .issue p :: rest → issuesNow { s with agenda := rest } p = false → (s.core p).engTrap = none →
      step s = .next { s with agenda := rest })
    ∧ (∀ p b u, s.agenda = .issue p :: rest →
      let v := ({ s with agenda := rest } : State).updCore p leaveBodies
      let a := bundleAt v p (v.core p).pc
      let c : Core := { v.core p with
        trapped := false, staged := {}, cur := { addr := a, next := a + b.len, syls := b.syls } }
      let v1 := { v.setCore p c with act := p }
      issuesNow { s with agenda := rest } p = true → (s.core p).engTrap = none → fetchUe v p a = none →
      a < (v.core p).codeSize →
      decodeBundle (fetchLine v p a) = .ok b → b.syls ≠ [] → (∀ y ∈ b.syls, ∃ i, y.decoded = .instr i) →
      (∀ y ∈ b.syls, guardTrap v c y = none) →
      runSlots exec v1 b.syls v1 [] = .inr (u, []) → sequencerTrap u p = none →
      step s = .next (commitBundle u p))
    ∧ (∀ v1 v t i y ys ts, y.decoded = .instr i → exec i v = .next t →
      (t.me.trapped = false → runSlots exec v1 (y :: ys) v ts = runSlots exec v1 ys t ts)
      ∧ (t.me.trapped = true →
        runSlots exec v1 (y :: ys) v ts = runSlots exec v1 ys v (ts ++ [slotTrap v1 y.slot.num t.me])))
    ∧ ∀ v1 v, runSlots exec v1 [] v [] = .inr (v, [])

/-- R40 and the reset values of the registers: the module as shipped is OFF, with no kernel, context, or enabled
queue; every core's registers read 0 but the hard-wired ones, its task is not in a kernel, and sr.ttc, sr.cyc
are 0; no link is up. What memory nothing has written reads as is the model's choice (log entry 2), as is that the
registers and the private memory of a core read 0 before its first launch (log entry 13). -/
def Obligations.ResetState : Prop :=
  let s := State.reset
  s.cyc = 0 ∧ s.mgmt.service = .off ∧ s.kernels = [] ∧ s.mem.wf = true
    ∧ (∀ n, (ctxAt s n).st = .free) ∧ (∀ q, (queueAt s q).st = .disabled) ∧ (∀ p, (portOf s.link p).st = .down)
    ∧ (∀ a, memRead s.mem.phys a = 0 ∧ memRead s.mem.csram a = 0 ∧ memRead s.mem.qmem a = 0)
    ∧ (∀ p, (s.core p).kid = none ∧ (s.core p).mode = .task ∧ (s.core p).pc = 0
      ∧ (∀ n, n < 64 → gRead (s.core p) n = 0) ∧ (∀ n, 2 ≤ n → n < 16 → pRead (s.core p) n = false)
      ∧ (∀ n, 1 ≤ n → n < 16 → mRead (s.core p) n = 0) ∧ (∀ n, n < 8 → xRead (s.core p) n = 0)
      ∧ (∀ n, n < 64 → fRead (s.core p) n = 0 ∧ vRead (s.core p) n = zeroLanes)
      ∧ (∀ n, n < 256 → cRead (s.core p) n = 0) ∧ ∀ a, memRead (s.core p).priv a = 0)

/-- Every step keeps the memories of the package in canonical form, so that equal memories are equal data. -/
def Obligations.StepKeepsMemories : Prop :=
  ∀ s t : State, s.mem.wf = true → step s = .next t → t.mem.wf = true

end
end

