-- ==== Sys2Proof/Laws/Tables.lean ====
section
/-!
SUPPORT. Sparse tables and memories: reads after writes, and the canonical form that every memory
operation keeps.
-/
namespace Sys2Proof.Machine

/-! ## Tables -/

@[simp] theorem tget_tset_self {α : Type} (d : α) (t : Table α) (k : Nat) (v : α) :
    tget d (tset t k v) k = v := by
  induction t with
  | nil => simp [tset, tget]
  | cons p rest ih =>
    obtain ⟨j, w⟩ := p
    simp only [tset]
    split
    · simp [tget]
    · split
      · simp [tget]
      · simp [tget, *]

theorem tget_tset_ne {α : Type} (d : α) (t : Table α) {k i : Nat} (v : α) (h : i ≠ k) :
    tget d (tset t k v) i = tget d t i := by
  induction t with
  | nil => simp [tset, tget, h]
  | cons p rest ih =>
    obtain ⟨j, w⟩ := p
    simp only [tset]
    split
    · subst_vars; simp [tget, h]
    · split
      · simp only [tget, if_neg h]
        split
        · rw [if_neg (by omega), if_pos (by omega)]
        · rfl
      · simp only [tget, ih]

@[simp] theorem tfind_tset_self {α : Type} (t : Table α) (k : Nat) (v : α) :
    tfind (tset t k v) k = some v := by
  induction t with
  | nil => simp [tset, tfind]
  | cons p rest ih =>
    obtain ⟨j, w⟩ := p
    simp only [tset]
    split
    · simp [tfind]
    · split
      · simp [tfind]
      · simp [tfind, *]

theorem tfind_tset_ne {α : Type} (t : Table α) {k i : Nat} (v : α) (h : i ≠ k) :
    tfind (tset t k v) i = tfind t i := by
  induction t with
  | nil => simp [tset, tfind, h]
  | cons p rest ih =>
    obtain ⟨j, w⟩ := p
    simp only [tset]
    split
    · subst_vars; simp [tfind, h]
    · split
      · simp only [tfind, if_neg h]
        split
        · rw [if_neg (by omega), if_pos (by omega)]
        · rfl
      · simp only [tfind, ih]

/-- Every key of a table lies above a bound. -/
def keysAbove {α : Type} (lo : Nat) : Table α → Bool
  | [] => true
  | (k, _) :: _ => decide (lo < k)

theorem tget_of_keysAbove {α : Type} (d : α) (t : Table α) (k : Nat) (h : keysAbove k t = true) :
    tget d t k = d := by
  cases t with
  | nil => rfl
  | cons p rest =>
    obtain ⟨j, w⟩ := p
    simp only [keysAbove, decide_eq_true_eq] at h
    simp only [tget]
    rw [if_neg (by omega), if_pos h]

/-! ## The canonical form -/

theorem wf_cons (a : Nat) (b : Byte) (m : Memory) :
    Memory.wf ((a, b) :: m) = (b != unwritten && keysAbove a m && Memory.wf m) := by
  cases m with
  | nil => rfl
  | cons p rest => rfl

theorem wf_tail {p : Host.Cell} {m : Memory} (h : Memory.wf (p :: m) = true) : Memory.wf m = true := by
  obtain ⟨a, b⟩ := p
  rw [wf_cons] at h
  simp only [Bool.and_eq_true] at h
  exact h.2

theorem keysAbove_tset {α : Type} (lo : Nat) (t : Table α) (k : Nat) (v : α) (hk : lo < k)
    (h : keysAbove lo t = true) : keysAbove lo (tset t k v) = true := by
  cases t with
  | nil => simpa [tset, keysAbove] using hk
  | cons p rest =>
    obtain ⟨j, w⟩ := p
    simp only [keysAbove, decide_eq_true_eq] at h
    simp only [tset]
    split
    · simpa [keysAbove] using hk
    · split <;> simp [keysAbove, h, hk]

theorem keysAbove_mono {α : Type} {lo hi : Nat} (t : Table α) (hlt : lo ≤ hi)
    (h : keysAbove hi t = true) : keysAbove lo t = true := by
  cases t with
  | nil => rfl
  | cons p rest =>
    obtain ⟨j, w⟩ := p
    simp only [keysAbove, decide_eq_true_eq] at h ⊢
    omega

theorem keysAbove_of_wf {a : Nat} {b : Byte} {m : Memory} (h : Memory.wf ((a, b) :: m) = true) :
    keysAbove a m = true := by
  rw [wf_cons] at h
  simp only [Bool.and_eq_true] at h
  exact h.1.2

theorem keysAbove_tdel (lo : Nat) (m : Memory) (k : Nat) (hw : Memory.wf m = true)
    (h : keysAbove lo m = true) : keysAbove lo (tdel m k) = true := by
  cases m with
  | nil => rfl
  | cons p rest =>
    obtain ⟨j, w⟩ := p
    simp only [keysAbove, decide_eq_true_eq] at h
    simp only [tdel]
    split
    · exact keysAbove_mono rest (Nat.le_of_lt h) (keysAbove_of_wf hw)
    · split <;> simp [keysAbove, h]

theorem wf_tset (m : Memory) (a : Nat) (b : Byte) (hb : b ≠ unwritten) (h : Memory.wf m = true) :
    Memory.wf (tset m a b) = true := by
  induction m with
  | nil => simp [tset, wf_cons, keysAbove, hb, Memory.wf]
  | cons p rest ih =>
    obtain ⟨j, w⟩ := p
    have hr := wf_tail h
    have hk := keysAbove_of_wf h
    rw [wf_cons] at h
    simp only [Bool.and_eq_true] at h
    simp only [tset]
    split
    · subst_vars; simp [wf_cons, hb, hk, hr]
    · split
      · next hlt =>
        rw [wf_cons, wf_cons]
        rw [hk, hr, h.1.1]
        simpa [keysAbove, hlt] using hb
      · rw [wf_cons, keysAbove_tset j rest a b (by omega) hk, ih hr]
        simp [h.1.1]

theorem wf_tdel (m : Memory) (a : Nat) (h : Memory.wf m = true) : Memory.wf (tdel m a) = true := by
  induction m with
  | nil => rfl
  | cons p rest ih =>
    obtain ⟨j, w⟩ := p
    have hr := wf_tail h
    have hk := keysAbove_of_wf h
    simp only [tdel]
    split
    · exact hr
    · split
      · exact h
      · rw [wf_cons] at h ⊢
        simp only [Bool.and_eq_true] at h
        rw [keysAbove_tdel j rest a hr hk, ih hr]
        simp [h.1.1]

/-- A write of one byte keeps the canonical form. -/
theorem wf_memWrite (m : Memory) (a : Nat) (b : Byte) (h : Memory.wf m = true) :
    Memory.wf (memWrite m a b) = true := by
  simp only [memWrite]
  split
  · exact wf_tdel m a h
  · next hb => exact wf_tset m a b hb h

/-- So does a write of several. -/
theorem wf_writeBytes (m : Memory) (a : Nat) (bs : List Byte) (h : Memory.wf m = true) :
    Memory.wf (writeBytes m a bs) = true := by
  induction bs generalizing m a with
  | nil => exact h
  | cons b rest ih => exact ih _ _ (wf_memWrite m a b h)

/-- And a write of the cells of a list. -/
theorem wf_writeCells (m : Memory) (cs : List (Nat × Byte)) (h : Memory.wf m = true) :
    Memory.wf (writeCells m cs) = true := by
  induction cs generalizing m with
  | nil => exact h
  | cons c rest ih => exact ih _ (wf_memWrite m c.1 c.2 h)

theorem keysAbove_filter (lo : Nat) (m : Memory) (f : Host.Cell → Bool) (hw : Memory.wf m = true)
    (h : keysAbove lo m = true) : keysAbove lo (m.filter f) = true := by
  induction m with
  | nil => rfl
  | cons p rest ih =>
    obtain ⟨j, w⟩ := p
    simp only [keysAbove, decide_eq_true_eq] at h
    simp only [List.filter_cons]
    split
    · simp [keysAbove, h]
    · exact ih (wf_tail hw) (keysAbove_mono rest (Nat.le_of_lt h) (keysAbove_of_wf hw))

/-- Keeping some of the cells keeps the canonical form. -/
theorem wf_filter (m : Memory) (f : Host.Cell → Bool) (h : Memory.wf m = true) :
    Memory.wf (m.filter f) = true := by
  induction m with
  | nil => rfl
  | cons p rest ih =>
    obtain ⟨j, w⟩ := p
    have hr := wf_tail h
    have hk := keysAbove_of_wf h
    simp only [List.filter_cons]
    split
    · rw [wf_cons] at h ⊢
      simp only [Bool.and_eq_true] at h
      rw [keysAbove_filter j rest f hr hk, ih hr]
      simp [h.1.1]
    · exact ih hr

/-! ## Reads after writes -/

theorem tget_tdel_ne {α : Type} (d : α) (t : Table α) {k i : Nat} (h : i ≠ k)
    (hs : t.Pairwise (fun p q => p.1 < q.1)) : tget d (tdel t k) i = tget d t i := by
  induction t with
  | nil => rfl
  | cons p rest ih =>
    obtain ⟨j, w⟩ := p
    rw [List.pairwise_cons] at hs
    simp only [tdel]
    split
    · subst_vars
      simp only [tget, if_neg h]
      split
      · next hlt =>
        cases rest with
        | nil => rfl
        | cons q rest2 =>
          have hq := hs.1 q (by simp)
          simp only at hq
          simp only [tget]
          rw [if_neg (by omega), if_pos (by omega)]
      · rfl
    · split
      · rfl
      · simp only [tget, ih hs.2]

theorem pairwise_of_wf (m : Memory) (h : Memory.wf m = true) : m.Pairwise (fun p q => p.1 < q.1) := by
  induction m with
  | nil => exact List.Pairwise.nil
  | cons p rest ih =>
    obtain ⟨a, b⟩ := p
    have hr := wf_tail h
    have hk := keysAbove_of_wf h
    have ihr := ih hr
    refine List.pairwise_cons.mpr ⟨?_, ihr⟩
    intro q hq
    cases rest with
    | nil => simp at hq
    | cons x xs =>
      simp only [keysAbove, decide_eq_true_eq] at hk
      rcases List.mem_cons.mp hq with h1 | h1
      · subst h1; exact hk
      · exact Nat.lt_trans hk ((List.pairwise_cons.mp ihr).1 q h1)

theorem tget_tdel_self {α : Type} (d : α) (t : Table α) (k : Nat)
    (hs : t.Pairwise (fun p q => p.1 < q.1)) : tget d (tdel t k) k = d := by
  induction t with
  | nil => rfl
  | cons p rest ih =>
    obtain ⟨j, w⟩ := p
    rw [List.pairwise_cons] at hs
    simp only [tdel]
    split
    · subst_vars
      cases rest with
      | nil => rfl
      | cons q rest2 =>
        have hq := hs.1 q (by simp)
        simp only at hq
        simp only [tget]
        rw [if_neg (by omega), if_pos hq]
    · next hne =>
      split
      · next hlt => simp [tget, hne, hlt]
      · next hge => simp only [tget, if_neg hne, if_neg hge]; exact ih hs.2

/-- A byte reads as it was written. -/
theorem memRead_memWrite_self (m : Memory) (a : Nat) (b : Byte) (h : Memory.wf m = true) :
    memRead (memWrite m a b) a = b := by
  simp only [memRead, memWrite]
  split
  · next hb => subst hb; exact tget_tdel_self _ m a (pairwise_of_wf m h)
  · simp

/-- A write leaves every other byte as it was. -/
theorem memRead_memWrite_ne (m : Memory) {a i : Nat} (b : Byte) (h : Memory.wf m = true) (hi : i ≠ a) :
    memRead (memWrite m a b) i = memRead m i := by
  simp only [memRead, memWrite]
  split
  · exact tget_tdel_ne _ m hi (pairwise_of_wf m h)
  · exact tget_tset_ne _ m b hi

/-- A write of several bytes leaves the rest as it was. -/
theorem memRead_writeBytes_outside (m : Memory) (a : Nat) (bs : List Byte) (i : Nat)
    (h : Memory.wf m = true) (hi : i < a ∨ a + bs.length ≤ i) :
    memRead (writeBytes m a bs) i = memRead m i := by
  induction bs generalizing m a with
  | nil => rfl
  | cons b rest ih =>
    simp only [writeBytes, List.length_cons] at hi ⊢
    rw [ih _ _ (wf_memWrite m a b h) (by omega), memRead_memWrite_ne m b h (by omega)]

/-- The bytes written read back in order. -/
theorem readBytes_writeBytes (m : Memory) (a : Nat) (bs : List Byte) (h : Memory.wf m = true) :
    readBytes (writeBytes m a bs) a bs.length = bs := by
  induction bs generalizing m a with
  | nil => rfl
  | cons b rest ih =>
    simp only [writeBytes, List.length_cons, readBytes]
    rw [ih _ _ (wf_memWrite m a b h),
      memRead_writeBytes_outside _ _ _ _ (wf_memWrite m a b h) (by omega),
      memRead_memWrite_self m a b h]

end Sys2Proof.Machine
end

