-- ==== Sys2Proof/Laws/Memories.lean ====
section
/-!
SUPPORT. The memories of the package keep their canonical form under every operation on them.
-/
namespace Sys2Proof.Machine

/-! ## Joining and selecting -/

theorem keysAbove_of_mem {lo : Nat} {m : Memory} (h : ∀ p ∈ m, lo < p.1) : keysAbove lo m = true := by
  cases m with
  | nil => rfl
  | cons p rest => simpa [keysAbove] using h p (by simp)

theorem mem_above_of_wf {a : Nat} {b : Byte} {m : Memory} (h : Memory.wf ((a, b) :: m) = true) :
    ∀ p ∈ m, a < p.1 :=
  fun p hp => (List.pairwise_cons.mp (pairwise_of_wf _ h)).1 p hp

/-- Two canonical memories join when the addresses of the first lie below those of the second. -/
theorem wf_append (l r : Memory) (hl : Memory.wf l = true) (hr : Memory.wf r = true)
    (h : ∀ p ∈ l, ∀ q ∈ r, p.1 < q.1) : Memory.wf (l ++ r) = true := by
  induction l with
  | nil => exact hr
  | cons p rest ih =>
    obtain ⟨a, b⟩ := p
    have ha := mem_above_of_wf hl
    have ht := wf_tail hl
    rw [List.cons_append, wf_cons, ih ht (fun p hp q hq => h p (by simp [hp]) q hq)]
    rw [wf_cons] at hl
    simp only [Bool.and_eq_true] at hl
    rw [hl.1.1, keysAbove_of_mem]
    · rfl
    · intro q hq
      rcases List.mem_append.mp hq with h1 | h1
      · exact ha q h1
      · exact h (a, b) (by simp) q h1

theorem canonCells_range (lo hi : Nat) (cs : List (Nat × Byte)) :
    ∀ p ∈ canonCells lo hi cs, lo ≤ p.1 ∧ p.1 < hi := by
  induction cs generalizing lo with
  | nil => intro p hp; simp [canonCells] at hp
  | cons c rest ih =>
    obtain ⟨a, b⟩ := c
    intro p hp
    simp only [canonCells] at hp
    split at hp
    · next h =>
      rcases List.mem_cons.mp hp with h1 | h1
      · subst h1; exact ⟨h.1, h.2.1⟩
      · have := ih (a + 1) p h1; omega
    · exact ih lo p hp

theorem wf_canonCells (lo hi : Nat) (cs : List (Nat × Byte)) : Memory.wf (canonCells lo hi cs) = true := by
  induction cs generalizing lo with
  | nil => rfl
  | cons c rest ih =>
    obtain ⟨a, b⟩ := c
    simp only [canonCells]
    split
    · next h =>
      rw [wf_cons, ih, keysAbove_of_mem]
      · simpa using h.2.2
      · intro p hp; have := canonCells_range (a + 1) hi rest p hp; omega
    · exact ih lo

theorem wf_memSlice (m : Memory) (a n : Nat) (h : Memory.wf m = true) : Memory.wf (memSlice m a n) = true :=
  wf_filter m _ h

theorem wf_memClear (m : Memory) (a n : Nat) (h : Memory.wf m = true) : Memory.wf (memClear m a n) = true :=
  wf_filter m _ h

/-- A memory whose range lo to hi − 1 is replaced by cells. -/
theorem wf_replaced (m : Memory) (lo hi : Nat) (cs : List (Nat × Byte)) (hlh : lo ≤ hi)
    (h : Memory.wf m = true) :
    Memory.wf (m.filter (fun c => decide (c.1 < lo))
      ++ (canonCells lo hi cs ++ m.filter (fun c => decide (hi ≤ c.1)))) = true := by
  refine wf_append _ _ (wf_filter _ _ h) (wf_append _ _ (wf_canonCells _ _ _) (wf_filter _ _ h) ?_) ?_
  · intro p hp q hq
    have h1 := canonCells_range lo hi cs p hp
    have h2 := of_decide_eq_true (List.mem_filter.mp hq).2
    omega
  · intro p hp q hq
    have h1 := of_decide_eq_true (List.mem_filter.mp hp).2
    rcases List.mem_append.mp hq with h2 | h2
    · have h3 := canonCells_range lo hi cs q h2; omega
    · have h3 := of_decide_eq_true (List.mem_filter.mp h2).2; omega

/-! ## The package's memories -/

theorem memWf_iff (m : Mem) : m.wf = true ↔
    Memory.wf m.phys = true ∧ Memory.wf m.csram = true ∧ Memory.wf m.kmem = true ∧ Memory.wf m.qmem = true := by
  simp [Mem.wf, and_assoc]

theorem memWf_retag (m : Mem) (key u : Nat) (h : m.wf = true) : (retag m key u).wf = true := by
  unfold retag
  split
  · exact h
  · rw [memWf_iff] at h ⊢
    exact ⟨wf_writeBytes _ _ _ h.1, h.2⟩

theorem memWf_physWriteByte (m : Mem) (key a : Nat) (b : Byte) (h : m.wf = true) :
    (physWriteByte m key a b).wf = true := by
  have h1 := memWf_retag m key (a / 64) h
  rw [memWf_iff] at h1 ⊢
  exact ⟨wf_memWrite _ _ _ h1.1, h1.2⟩

/-- A write under a key. -/
theorem memWf_physWrite (m : Mem) (key a : Nat) (bs : List Byte) (h : m.wf = true) :
    (physWrite m key a bs).wf = true := by
  induction bs generalizing m a with
  | nil => exact h
  | cons b rest ih => exact ih _ _ (memWf_physWriteByte m key a b h)

theorem memWf_landWrite (m : Mem) (w : Nat × Nat × Byte) (h : m.wf = true) : (landWrite m w).wf = true := by
  unfold landWrite
  split
  · rw [memWf_iff] at h ⊢
    exact ⟨h.1, wf_memWrite _ _ _ h.2.1, h.2.2⟩
  · exact memWf_physWriteByte m _ _ _ h

/-- What lands at the end of a cycle. -/
theorem memWf_landMemory (m : Mem) (h : m.wf = true) : (landMemory m).wf = true := by
  have hf : ∀ (ws : List (Nat × Nat × Byte)) (m : Mem), m.wf = true → (ws.foldl landWrite m).wf = true := by
    intro ws
    induction ws with
    | nil => intro m h; exact h
    | cons w rest ih => intro m h; exact ih _ (memWf_landWrite m w h)
  have := hf m.writes m h
  rw [memWf_iff] at this ⊢
  exact this

/-- A frame, or a page written back. -/
theorem memWf_replaceRange (m : Mem) (key base len : Nat) (cells : Memory) (h : m.wf = true) :
    (replaceRange m key base len cells).wf = true := by
  rw [memWf_iff] at h ⊢
  exact ⟨wf_replaced _ _ _ _ (by omega) h.1, h.2⟩

/-- A cluster SRAM restored. -/
theorem memWf_setSram (m : Mem) (cluster : Nat) (cells : Memory) (h : m.wf = true) :
    (setSram m cluster cells).wf = true := by
  rw [memWf_iff] at h ⊢
  exact ⟨h.1, wf_replaced _ _ _ _ (by omega) h.2.1, h.2.2⟩

/-- A sync page loaded into its Keystone. -/
theorem memWf_loadPage (s : State) (p : PageT) (h : s.mem.wf = true) : (loadPage s p).mem.wf = true := by
  rw [memWf_iff] at h ⊢
  refine ⟨h.1, h.2.1, ?_, h.2.2.2⟩
  show Memory.wf (if _ then _ else _) = true
  split
  · exact wf_writeCells _ _ (wf_memClear _ _ _ h.2.2.1)
  · exact wf_writeBytes _ _ _ (wf_memClear _ _ _ h.2.2.1)

/-- A core's private memory at the end of a cycle. -/
theorem wf_landPrivate (c : Core) (h : Memory.wf c.priv = true) : Memory.wf (landPrivate c).priv = true :=
  wf_writeCells _ _ h

theorem memWf_reset : State.reset.mem.wf = true := rfl

end Sys2Proof.Machine
end

