-- ==== Sys2Proof/Laws/Syllables.lean ====
section
/-!
SUPPORT. Packing and unpacking of a syllable's fields (R284), and decoding of the encoder's forms.
-/
namespace Sys2Proof

/-! ## Fields of joined words -/

/-- A field of a joined word that lies in its high part. -/
theorem field_high {p q : Nat} (x : BitVec p) (y : BitVec q) (k n : Nat) (h : q ≤ k) :
    (x ++ y).extractLsb' k n = x.extractLsb' (k - q) n := by
  ext i hi
  rw [BitVec.getElem_extractLsb', BitVec.getElem_extractLsb', BitVec.getLsbD_append,
    if_neg (by omega), show k + i - q = k - q + i by omega]

/-- A field of a joined word that lies in its low part. -/
theorem field_low {p q : Nat} (x : BitVec p) (y : BitVec q) (k n : Nat) (h : k + n ≤ q) :
    (x ++ y).extractLsb' k n = y.extractLsb' k n := by
  ext i hi
  rw [BitVec.getElem_extractLsb', BitVec.getElem_extractLsb', BitVec.getLsbD_append, if_pos (by omega)]

/-- A whole word as its own field. -/
theorem field_all {n : Nat} (x : BitVec n) : x.extractLsb' 0 n = x := by
  ext i hi
  rw [BitVec.getElem_extractLsb', Nat.zero_add, BitVec.getLsbD_eq_getElem hi]

theorem bit_high {p q : Nat} (x : BitVec p) (y : BitVec q) (k : Nat) (h : q ≤ k) :
    (x ++ y).getLsbD k = x.getLsbD (k - q) := by
  rw [BitVec.getLsbD_append, if_neg (by omega)]

theorem bit_low {p q : Nat} (x : BitVec p) (y : BitVec q) (k : Nat) (h : k < q) :
    (x ++ y).getLsbD k = y.getLsbD k := by
  rw [BitVec.getLsbD_append, if_pos h]

theorem unpack_pack (f : Fields) : unpackFields (packFields f) = f := by
  obtain ⟨neg, pred, op, d, a, b, c, var, l⟩ := f
  simp only [unpackFields, packFields, Fields.mk.injEq]
  refine ⟨?_, ?_, ?_, ?_, ?_, ?_, ?_, ?_, ?_⟩
  · repeat rw [bit_high _ _ _ (by decide)]
    cases neg <;> rfl
  · repeat rw [field_high _ _ _ _ (by decide)]
    rw [field_low _ _ _ _ (by decide)]; exact field_all _
  · repeat rw [field_high _ _ _ _ (by decide)]
    rw [field_low _ _ _ _ (by decide)]; exact field_all _
  · repeat rw [field_high _ _ _ _ (by decide)]
    rw [field_low _ _ _ _ (by decide)]; exact field_all _
  · repeat rw [field_high _ _ _ _ (by decide)]
    rw [field_low _ _ _ _ (by decide)]; exact field_all _
  · repeat rw [field_high _ _ _ _ (by decide)]
    rw [field_low _ _ _ _ (by decide)]; exact field_all _
  · repeat rw [field_high _ _ _ _ (by decide)]
    rw [field_low _ _ _ _ (by decide)]; exact field_all _
  · rw [field_high _ _ _ _ (by decide), field_low _ _ _ _ (by decide)]; exact field_all _
  · rw [bit_low _ _ _ (by decide)]
    cases l <;> rfl

/-! ## The imm20 form -/

theorem join_three (imm : BitVec 20) :
    imm.extractLsb' 14 6 ++ imm.extractLsb' 8 6 ++ imm.extractLsb' 0 8 = imm := by
  ext i hi
  rw [← BitVec.getLsbD_eq_getElem, ← BitVec.getLsbD_eq_getElem, BitVec.getLsbD_append,
    BitVec.getLsbD_append]
  by_cases h1 : i < 8
  · rw [if_pos h1, BitVec.getLsbD_extractLsb']; simp [h1]
  · rw [if_neg h1]
    by_cases h2 : i - 8 < 6
    · rw [if_pos h2, BitVec.getLsbD_extractLsb', show 8 + (i - 8) = i by omega]; simp [h2]
    · rw [if_neg h2, BitVec.getLsbD_extractLsb', show 14 + (i - 8 - 6) = i by omega]
      have : i - 8 - 6 < 6 := by omega
      simp [this]

/-- The fields of an imm20-form syllable. -/
abbrev immFields (h : Hd) (op : BitVec 8) (d a : BitVec 6) (imm : BitVec 20) (v2 : BitVec 2) : Fields :=
  ⟨h.neg, h.pred, op, d, a, imm.extractLsb' 14 6, imm.extractLsb' 8 6, imm.extractLsb' 0 8 ++ v2, false⟩

@[simp] theorem imm_immFields (h : Hd) (op : BitVec 8) (d a : BitVec 6) (imm : BitVec 20) (v2 : BitVec 2) :
    (immFields h op d a imm v2).imm = imm := by
  have : (imm.extractLsb' 0 8 ++ v2).extractLsb' 2 8 = imm.extractLsb' 0 8 := by
    rw [field_high _ _ _ _ (by decide)]; exact field_all _
  simp only [Fields.imm, this]
  exact join_three imm

@[simp] theorem v2_immFields (h : Hd) (op : BitVec 8) (d a : BitVec 6) (imm : BitVec 20) (v2 : BitVec 2) :
    (immFields h op d a imm v2).v2 = v2 := by
  simp only [Fields.v2]
  rw [field_low _ _ _ _ (by decide)]; exact field_all _

/-! ## Decoding what the encoder writes -/

/-- What the decoder reads from an encoded syllable. -/
def Encoded.reads (e : Encoded) : SlotWord := decodeSyllable e.slot e.word (e.lit.getD 0)

theorem decode_at {sl : Slot} {f : Fields} {lit : Word32} {r : OpRow} (hop : f.op ≠ 0)
    (hrow : findRow sl f.op = some r) (hsub : r.subcode f = 0) :
    decodeSyllable sl (packFields f) lit = .instr (r.build ⟨sl, f.neg, f.pred⟩ f lit) := by
  have h0 : (f.op == 0) = false := by simpa using hop
  unfold decodeSyllable
  simp only [unpack_pack, h0, Bool.false_eq_true, if_false, hrow, hsub]

theorem encR_reads {h : Hd} {op : BitVec 8} {d a b c : BitVec 6} {var : BitVec 10} {r : OpRow} {i : Instr}
    (hop : op ≠ 0) (hrow : findRow h.slot op = some r)
    (hsub : r.subcode ⟨h.neg, h.pred, op, d, a, b, c, var, false⟩ = 0)
    (hb : r.build h ⟨h.neg, h.pred, op, d, a, b, c, var, false⟩ 0 = i) :
    (encR h op d a b c var).reads = .instr i := by
  subst hb
  exact decode_at (f := ⟨h.neg, h.pred, op, d, a, b, c, var, false⟩) hop hrow hsub

theorem encL_reads {h : Hd} {op : BitVec 8} {d a b c : BitVec 6} {var : BitVec 10} {w : Word32} {r : OpRow}
    {i : Instr} (hop : op ≠ 0) (hrow : findRow h.slot op = some r)
    (hsub : r.subcode ⟨h.neg, h.pred, op, d, a, b, c, var, true⟩ = 0)
    (hb : r.build h ⟨h.neg, h.pred, op, d, a, b, c, var, true⟩ w = i) :
    (encL h op d a b c var w).reads = .instr i := by
  subst hb
  exact decode_at (f := ⟨h.neg, h.pred, op, d, a, b, c, var, true⟩) hop hrow hsub

theorem encI_reads {h : Hd} {op : BitVec 8} {d a : BitVec 6} {imm : BitVec 20} {v2 : BitVec 2} {r : OpRow}
    {i : Instr} (hop : op ≠ 0) (hrow : findRow h.slot op = some r)
    (hsub : r.subcode (immFields h op d a imm v2) = 0)
    (hb : r.build h (immFields h op d a imm v2) 0 = i) :
    (encI h op d a imm v2).reads = .instr i := encR_reads hop hrow hsub hb

/-- The variant field with a constant's index in it (R286). -/
def varConst (var : BitVec 10) (k : BitVec 8) : BitVec 10 := var ||| (1#1 ++ k.extractLsb' 6 2 ++ 0#7)

theorem const_join (k : BitVec 8) : k.extractLsb' 6 2 ++ low 6 k = k := by decide +revert

/-- A b* opcode decodes in each of its three forms: the fields of the row besides b are in order, and the
variant field leaves bits 9:7 free. -/
theorem encB_reads {h : Hd} {op : BitVec 8} {d a c : BitVec 6} {b : OpB} {var : BitVec 10} {r : OpRow}
    {i : Instr} (k : OpB → Fields → Instr) (hop : op ≠ 0) (hrow : findRow h.slot op = some r)
    (hk : ∀ f lit, r.build h f lit = k (f.opB lit) f)
    (hhi : ∀ j : BitVec 2, (var ||| (1#1 ++ j ++ 0#7)).extractLsb' 7 2 = j
      ∧ (var ||| (1#1 ++ j ++ 0#7)).getLsbD 9 = true)
    (hlo : var.getLsbD 9 = false ∧ var.extractLsb' 7 2 = 0)
    (hreg : ∀ x, r.subcode ⟨h.neg, h.pred, op, d, a, x, c, var, false⟩ = 0)
    (hconst : ∀ x (j : BitVec 2), r.subcode ⟨h.neg, h.pred, op, d, a, x, c, var ||| (1#1 ++ j ++ 0#7), false⟩ = 0)
    (hlit : r.subcode ⟨h.neg, h.pred, op, d, a, 0, c, var, true⟩ = 0)
    (hi : ∀ x v l, (v = var ∨ ∃ j : BitVec 2, v = var ||| (1#1 ++ j ++ 0#7)) →
      k b ⟨h.neg, h.pred, op, d, a, x, c, v, l⟩ = i) :
    (encB h op d a b c var).reads = .instr i := by
  cases b with
  | reg x =>
    refine encR_reads hop hrow (hreg x) ?_
    rw [hk]
    simp only [Fields.opB, hlo.1, Bool.false_eq_true, if_false]
    exact hi x var false (.inl rfl)
  | const x =>
    refine encR_reads hop hrow (hconst _ _) ?_
    rw [hk]
    have h1 := hhi (x.extractLsb' 6 2)
    simp only [Fields.opB, h1.1, h1.2, Bool.false_eq_true, if_false, if_true, const_join]
    exact hi _ _ false (.inr ⟨_, rfl⟩)
  | lit w =>
    refine encL_reads hop hrow hlit ?_
    rw [hk]
    simp only [Fields.opB, if_true]
    exact hi 0 var true (.inl rfl)

end Sys2Proof
end

