-- ==== Sys2Proof/Laws/PerInstr.lean ====
section
/-!
SUPPORT. For every instruction: a well-formed bundle operation decodes from its encoded syllable, with
every operand at every value (R284 to R287, R302 to R312); an event of the package has no syllable.
-/
namespace Sys2Proof.Laws.Encodes

/-- The syllable that the encoder writes for a well-formed instruction decodes to that instruction. -/
def Statement (i : Instr) : Prop := i.wf = true → ∀ e, encodeSyllable i = some e → e.reads = .instr i

/-! ## Slots -/

theorem slotSA {h : Hd} (hw : inSA h = true) : h.slot = .s ∨ h.slot = .a := by simpa [inSA] using hw
theorem slotV {h : Hd} (hw : inV h = true) : h.slot = .v0 ∨ h.slot = .v1 := by simpa [inV] using hw
theorem slotA {h : Hd} (hw : inA h = true) : h.slot = .a := by simpa [inA] using hw
theorem slotS {h : Hd} (hw : inS h = true) : h.slot = .s := by simpa [inS] using hw
theorem slotM {h : Hd} (hw : inM h = true) : h.slot = .m := by simpa [inM] using hw
theorem slotV1 {h : Hd} (hw : inV1 h = true) : h.slot = .v1 := by simpa [inV1] using hw
theorem slotX {h : Hd} (hw : inX h = true) : h.slot = .x := by simpa [inX] using hw
theorem slotE {h : Hd} (hw : inE h = true) : h.slot = .e := by simpa [inE] using hw
theorem slotY {h : Hd} (hw : inY h = true) : h.slot = .y := by simpa [inY] using hw

/-! ## Fields of small values -/

theorem pair_lt (k : BitVec 3) : 16 ≤ (pairField k).toNat ↔ False := by revert k; decide
theorem pair_even (k : BitVec 3) : (pairField k)[0] = false := by revert k; decide
theorem pair_back (k : BitVec 3) : (pairField k).extractLsb' 1 3 = k := by revert k; decide
theorem widen4_lt (k : BitVec 4) : 16 ≤ (widen k).toNat ↔ False := by revert k; decide
theorem widen4_back (k : BitVec 4) : low 4 (widen k) = k := by revert k; decide
theorem widen3_lt (k : BitVec 3) : 8 ≤ (widen k).toNat ↔ False := by revert k; decide
theorem widen3_back (k : BitVec 3) : low 3 (widen k) = k := by revert k; decide
theorem tag_join (k : BitVec 12) : k.extractLsb' 6 6 ++ low 6 k = k := by
  ext i hi
  rw [← BitVec.getLsbD_eq_getElem, ← BitVec.getLsbD_eq_getElem, BitVec.getLsbD_append]
  by_cases h : i < 6
  · rw [if_pos h]; simp [low, h]
  · rw [if_neg h, BitVec.getLsbD_extractLsb', show 6 + (i - 6) = i by omega]
    have : i - 6 < 6 := by omega
    simp [this]
theorem low12 (num : BitVec 12) : low 12 (0#8 ++ num) = num := by
  ext i hi
  rw [← BitVec.getLsbD_eq_getElem, ← BitVec.getLsbD_eq_getElem, low, BitVec.getLsbD_setWidth,
    BitVec.getLsbD_append, if_pos hi]
  simp [hi]
theorem high8 (num : BitVec 12) : (0#8 ++ num).extractLsb' 12 8 = 0 := by
  rw [field_high _ _ _ _ (by decide)]; rfl

/-! ## Shapes -/

theorem star_hi0 (j : BitVec 2) : ((0 : BitVec 10) ||| (1#1 ++ j ++ 0#7)).extractLsb' 7 2 = j
    ∧ ((0 : BitVec 10) ||| (1#1 ++ j ++ 0#7)).getLsbD 9 = true := by revert j; decide

theorem star_lo0 : (0 : BitVec 10).getLsbD 9 = false ∧ (0 : BitVec 10).extractLsb' 7 2 = 0 := by decide

theorem g3 {op : BitVec 8} {k : G3 → Instr} {o : G3} {sl : List Slot} (hop : op ≠ 0)
    (hrow : findRow o.hd.slot op = some { rowG3 op k with slots := sl }) :
    (encG3 op o).reads = .instr (k o) := by
  refine encB_reads (fun b f => k ⟨o.hd, f.d, f.a, b⟩) hop hrow (fun f lit => rfl) star_hi0 star_lo0 ?_ ?_ ?_ ?_
  · intro x; simp [OpRow.subcode, rowG3, FieldKind.outOfRange, FieldKind.oddPair, FieldKind.usedAmiss, OpRow.usedBits]
  · intro x j
    revert j
    simp [OpRow.subcode, rowG3, FieldKind.outOfRange, FieldKind.oddPair, FieldKind.usedAmiss, OpRow.usedBits]
    decide
  · simp [OpRow.subcode, rowG3, FieldKind.outOfRange, FieldKind.oddPair, FieldKind.usedAmiss, OpRow.usedBits]
  · intro x v l _; rfl

theorem gi {op : BitVec 8} {k : GI → Instr} {o : GI} {sl : List Slot} (hop : op ≠ 0)
    (hrow : findRow o.hd.slot op = some { rowGI op k with slots := sl }) :
    (encGI op o).reads = .instr (k o) :=
  encI_reads hop hrow (by simp [OpRow.subcode, FieldKind.outOfRange, FieldKind.oddPair, FieldKind.usedAmiss, OpRow.usedBits, rowGI]) (by simp [rowGI])

theorem gm {op : BitVec 8} {k : GM → Instr} {o : GM} {sl : List Slot} (hop : op ≠ 0)
    (hrow : findRow o.hd.slot op = some { rowGM op k with slots := sl }) :
    (encGM op o).reads = .instr (k o) :=
  encI_reads hop hrow (by simp [OpRow.subcode, FieldKind.outOfRange, FieldKind.oddPair, FieldKind.usedAmiss, OpRow.usedBits, rowGM]) (by simp [rowGM])

theorem p3 {op : BitVec 8} {k : P3 → Instr} {o : P3} (hop : op ≠ 0)
    (hrow : findRow o.hd.slot op = some (rowP3 op k)) : (encP3 op o).reads = .instr (k o) :=
  encR_reads hop hrow (by simp [OpRow.subcode, FieldKind.outOfRange, FieldKind.oddPair, FieldKind.usedAmiss, OpRow.usedBits, rowP3, pair_lt, pair_even, widen4_lt])
    (by simp [rowP3, pair_back, widen4_back])

theorem lm_only (n : Bool) (q : BitVec 4) (op : BitVec 8) (d a b c : BitVec 6) (l : Bool) (lm : BitVec 4) :
    Fields.lm ⟨n, q, op, d, a, b, c, varM lm 0, l⟩ = lm := by
  simp only [Fields.lm]; revert lm; decide

/-- The lane mask of a b* row comes back whatever constant index stands above it. -/
theorem lm_back {lo : BitVec 3} {lm : BitVec 4} {v : BitVec 10} {n : Bool} {q : BitVec 4} {op : BitVec 8}
    {d a b c : BitVec 6} {l : Bool}
    (hv : v = varM lm lo ∨ ∃ j : BitVec 2, v = varM lm lo ||| (1#1 ++ j ++ 0#7)) :
    Fields.lm ⟨n, q, op, d, a, b, c, v, l⟩ = lm := by
  simp only [Fields.lm]
  rcases hv with h | ⟨j, h⟩ <;> subst h
  · revert lo lm; decide
  · revert lo lm j; decide

theorem v3 {op : BitVec 8} {k : V3 → Instr} {o : V3} {sl : List Slot} (hop : op ≠ 0)
    (hrow : findRow o.hd.slot op = some { rowV3 op k with slots := sl }) :
    (encV3 op o).reads = .instr (k o) := by
  refine encB_reads (fun b f => k ⟨o.hd, f.d, f.a, b, f.lm⟩) hop hrow (fun f lit => rfl)
    (by intro j; generalize o.lm = lm; revert j lm; decide) (by generalize o.lm = lm; revert lm; decide)
    ?_ ?_ ?_ ?_
  · intro x; generalize o.lm = lm; simp [OpRow.subcode, FieldKind.outOfRange, FieldKind.oddPair, FieldKind.usedAmiss, OpRow.usedBits, rowV3]; revert lm; decide
  · intro x j; generalize o.lm = lm; simp [OpRow.subcode, FieldKind.outOfRange, FieldKind.oddPair, FieldKind.usedAmiss, OpRow.usedBits, rowV3]; revert j lm; decide
  · generalize o.lm = lm; simp [OpRow.subcode, FieldKind.outOfRange, FieldKind.oddPair, FieldKind.usedAmiss, OpRow.usedBits, rowV3]; revert lm; decide
  · intro x v l hv; simp only [lm_back hv]

theorem v2 {op : BitVec 8} {k : V2 → Instr} {o : V2} (hop : op ≠ 0)
    (hrow : findRow o.hd.slot op = some (rowV2 op k)) : (encV2 op o).reads = .instr (k o) := by
  refine encR_reads hop hrow ?_ ?_
  · generalize o.lm = lm; simp [OpRow.subcode, FieldKind.outOfRange, FieldKind.oddPair, FieldKind.usedAmiss, OpRow.usedBits, rowV2]; revert lm; decide
  · simp only [rowV2, lm_only]

theorem cc_back3 {lm : BitVec 4} {cc : BitVec 3} {v : BitVec 10}
    (hv : v = varM lm cc ∨ ∃ j : BitVec 2, v = varM lm cc ||| (1#1 ++ j ++ 0#7)) : low 3 v = cc := by
  rcases hv with h | ⟨j, h⟩ <;> subst h
  · revert lm cc; decide
  · revert lm cc j; decide

theorem vcmp {op : BitVec 8} {k : VCmpOps → Instr} {o : VCmpOps} (hop : op ≠ 0)
    (hrow : findRow o.hd.slot op = some (rowVCmp op k)) (hk : o.cc.toNat < 4) :
    (encVCmp op o).reads = .instr (k o) := by
  refine encB_reads (fun b f => k ⟨o.hd, f.d.extractLsb' 1 3, f.a, b, low 3 f.var, f.lm⟩) hop hrow
    (fun f lit => rfl) (by intro j; generalize o.lm = lm; generalize o.cc = q; revert j lm q; decide)
    (by generalize o.lm = lm; generalize o.cc = q; revert lm q; decide) ?_ ?_ ?_ ?_
  · intro x; revert hk; generalize o.lm = lm; generalize o.cc = q
    simp [OpRow.subcode, FieldKind.outOfRange, FieldKind.oddPair, FieldKind.usedAmiss, OpRow.usedBits, rowVCmp, pair_lt, pair_even]; revert lm q; decide
  · intro x j; revert hk; generalize o.lm = lm; generalize o.cc = q
    simp [OpRow.subcode, FieldKind.outOfRange, FieldKind.oddPair, FieldKind.usedAmiss, OpRow.usedBits, rowVCmp, pair_lt, pair_even]; revert j lm q; decide
  · revert hk; generalize o.lm = lm; generalize o.cc = q
    simp [OpRow.subcode, FieldKind.outOfRange, FieldKind.oddPair, FieldKind.usedAmiss, OpRow.usedBits, rowVCmp, pair_lt, pair_even]; revert lm q; decide
  · intro x v l hv; simp only [lm_back hv, cc_back3 hv, pair_back]

theorem red_back (lm : BitVec 4) (op : BitVec 2) : low 2 (varM lm (0#1 ++ op)) = op
    ∧ (varM lm (0#1 ++ op)).extractLsb' 3 4 = lm := by revert lm op; decide

theorem vred {op : BitVec 8} {k : VRedOps → Instr} {o : VRedOps} (hop : op ≠ 0)
    (hrow : findRow o.hd.slot op = some (rowVRed op k)) (hk : o.op ≠ 3) :
    (encVRed op o).reads = .instr (k o) := by
  refine encR_reads hop hrow ?_ ?_
  · revert hk; generalize o.lm = lm; generalize o.op = q; simp [OpRow.subcode, FieldKind.outOfRange, FieldKind.oddPair, FieldKind.usedAmiss, OpRow.usedBits, rowVRed]; revert lm q; decide
  · have h := red_back o.lm o.op; simp only [rowVRed, Fields.lm, h.1, h.2]

theorem low3 (k : BitVec 3) : low 3 (varL k) = k := by revert k; decide
theorem low2 (k : BitVec 2) : low 2 (varL k) = k := by revert k; decide
theorem low7 (k : BitVec 7) : low 7 (varL k) = k := by revert k; decide

theorem slotRow {op : BitVec 8} {k : SlotOps → Instr} {o : SlotOps} (hop : op ≠ 0)
    (hrow : findRow o.hd.slot op = some (rowSlot op k)) : (encSlot op o).reads = .instr (k o) := by
  refine encR_reads hop hrow ?_ ?_
  · generalize o.k = q; simp [OpRow.subcode, FieldKind.outOfRange, FieldKind.oddPair, FieldKind.usedAmiss, OpRow.usedBits, rowSlot]; revert q; decide
  · simp only [rowSlot, low3]

theorem blk {op : BitVec 8} {k : BlkOps → Instr} {o : BlkOps} (hop : op ≠ 0)
    (hrow : findRow o.hd.slot op = some (rowBlk op k)) : (encBlk op o).reads = .instr (k o) :=
  encR_reads hop hrow (by simp [OpRow.subcode, FieldKind.outOfRange, FieldKind.oddPair, FieldKind.usedAmiss, OpRow.usedBits, rowBlk]) rfl

theorem varT_back (hi : BitVec 5) (ty : BitVec 3) (scope : BitVec 2) : low 3 (varT hi ty scope) = ty
    ∧ (varT hi ty scope).extractLsb' 3 2 = scope ∧ (varT hi ty scope).extractLsb' 5 5 = hi := by
  refine ⟨?_, ?_, ?_⟩
  · ext i h
    rw [← BitVec.getLsbD_eq_getElem, ← BitVec.getLsbD_eq_getElem, low, BitVec.getLsbD_setWidth, varT,
      bit_low _ _ _ h]
    simp [h]
  · rw [varT, field_high _ _ _ _ (by decide), field_low _ _ _ _ (by decide)]; exact field_all _
  · rw [varT, field_high _ _ _ _ (by decide), field_high _ _ _ _ (by decide)]; exact field_all _

theorem varT_used (ty : BitVec 3) (scope : BitVec 2) : varT 0 ty scope &&& ~~~(0x1F : BitVec 10) = 0 := by
  revert ty scope; decide

theorem katom {op : BitVec 8} {types : BitVec 3 → Bool} {k : KOps → Instr} {o : KOps} (hop : op ≠ 0)
    (hrow : findRow o.hd.slot op = some (rowK op types k)) (hk : types o.ty = true) :
    (encK op o).reads = .instr (k o) := by
  have h := varT_back 0#5 o.ty o.scope
  refine encR_reads hop hrow ?_ ?_
  · have hu := varT_used o.ty o.scope
    simp [OpRow.subcode, FieldKind.outOfRange, FieldKind.oddPair, FieldKind.usedAmiss, OpRow.usedBits, rowK, h.1, hk]
    simpa using hu
  · simp only [rowK]; rw [show (varT 0 o.ty o.scope) = varT 0#5 o.ty o.scope from rfl, h.1, h.2.1]

theorem pump_back (ctab : BitVec 2) (bar : Bool) (elem : BitVec 4) :
    low 4 (0#3 ++ ctab ++ BitVec.ofBool bar ++ elem) = elem
    ∧ (0#3 ++ ctab ++ BitVec.ofBool bar ++ elem).getLsbD 4 = bar
    ∧ (0#3 ++ ctab ++ BitVec.ofBool bar ++ elem).extractLsb' 5 2 = ctab := by
  revert ctab bar elem; decide

theorem pumpA {op : BitVec 8} {k : PumpOps → Instr} {o : PumpOps} (hop : op ≠ 0)
    (hrow : findRow o.hd.slot op = some (rowPump op 0x1F k)) (he : o.elem.toNat < 13) (hc : o.ctab = 0) :
    (encPump op o).reads = .instr (k o) := by
  obtain ⟨hd, a, b, c, elem, bar, ctab⟩ := o
  simp only at he hc
  subst hc
  refine encR_reads hop hrow ?_ ?_
  · simp only [varP]; simp [OpRow.subcode, FieldKind.outOfRange, FieldKind.oddPair, FieldKind.usedAmiss, OpRow.usedBits, rowPump]; clear hrow; revert elem bar; decide
  · have h := pump_back 0 bar elem
    simp only [rowPump, varP, h.1, h.2.1, h.2.2]

theorem pumpB {op : BitVec 8} {k : PumpOps → Instr} {o : PumpOps} (hop : op ≠ 0)
    (hrow : findRow o.hd.slot op = some (rowPump op 0x7F k)) (he : o.elem.toNat < 13) :
    (encPump op o).reads = .instr (k o) := by
  obtain ⟨hd, a, b, c, elem, bar, ctab⟩ := o
  simp only at he
  refine encR_reads hop hrow ?_ ?_
  · simp only [varP]; simp [OpRow.subcode, FieldKind.outOfRange, FieldKind.oddPair, FieldKind.usedAmiss, OpRow.usedBits, rowPump]; clear hrow; revert elem bar ctab; decide
  · have h := pump_back ctab bar elem
    simp only [rowPump, varP, h.1, h.2.1, h.2.2]

theorem low_mask (v : BitVec 2) : v &&& ~~~(low 2 3#10) = 0#2 := by revert v; decide

theorem cc_back {cc : BitVec 3} {v : BitVec 10}
    (hv : v = varL cc ∨ ∃ j : BitVec 2, v = varL cc ||| (1#1 ++ j ++ 0#7)) : low 3 v = cc := by
  rcases hv with h | ⟨j, h⟩ <;> subst h
  · revert cc; decide
  · revert cc j; decide

theorem w_back {w : BitVec 2} {v : BitVec 10}
    (hv : v = varL w ∨ ∃ j : BitVec 2, v = varL w ||| (1#1 ++ j ++ 0#7)) : low 2 v = w := by
  rcases hv with h | ⟨j, h⟩ <;> subst h
  · revert w; decide
  · revert w j; decide

theorem fma_back {lm : BitVec 4} {p q : Bool} {v : BitVec 10}
    (hv : v = varM lm (0#1 ++ BitVec.ofBool p ++ BitVec.ofBool q)
      ∨ ∃ j : BitVec 2, v = varM lm (0#1 ++ BitVec.ofBool p ++ BitVec.ofBool q) ||| (1#1 ++ j ++ 0#7)) :
    v.getLsbD 0 = q ∧ v.getLsbD 1 = p ∧ v.extractLsb' 3 4 = lm := by
  rcases hv with h | ⟨j, h⟩ <;> subst h
  · revert lm p q; decide
  · revert lm p q j; decide

theorem varC_back (code : BitVec 5) (lm : BitVec 4) :
    (varC code lm).extractLsb' 7 2 ++ (varC code lm).extractLsb' 0 3 = code
    ∧ (varC code lm).extractLsb' 3 4 = lm := by revert code lm; decide

theorem varC_used (code : BitVec 5) (lm : BitVec 4) : varC code lm &&& ~~~(0x1FF : BitVec 10) = 0 := by
  revert code lm; decide

theorem wload_back (b : Bool) (k : BitVec 3) : low 3 (0#6 ++ BitVec.ofBool b ++ k) = k
    ∧ (0#6 ++ BitVec.ofBool b ++ k).getLsbD 3 = b := by revert b k; decide

theorem sparse_back (n : BitVec 2) (q : BitVec 3) (c : BitVec 2) :
    low 3 (varT (0#3 ++ n) q c) = q ∧ (varT (0#3 ++ n) q c).extractLsb' 3 2 = c
    ∧ (varT (0#3 ++ n) q c).extractLsb' 5 2 = n := by revert n q c; decide

theorem addb_back (p t : BitVec 3) (q : BitVec 2) :
    low 3 (varT (0#1 ++ p ++ 0#1) t q) = t ∧ (varT (0#1 ++ p ++ 0#1) t q).extractLsb' 3 2 = q
    ∧ (varT (0#1 ++ p ++ 0#1) t q).extractLsb' 6 3 = p := by revert p t q; decide

theorem ctab_back (q : BitVec 2) : (0#3 ++ q ++ 0#5).extractLsb' 5 2 = q := by revert q; decide

theorem scope_back (q : BitVec 3) : (0#4 ++ q ++ 0#3).extractLsb' 3 3 = q := by revert q; decide

theorem bfmt_facts (b : BitVec 4) :
    ((low 12 (0x0002#16 ++ b : BitVec 20)) == (0x00D : BitVec 12)) = false
    ∧ (decide (0x020 ≤ (low 12 (0x0002#16 ++ b : BitVec 20)).toNat)
        && decide ((low 12 (0x0002#16 ++ b : BitVec 20)).toNat ≤ 0x02F)) = true
    ∧ low 4 (low 12 (0x0002#16 ++ b : BitVec 20)) = b := by revert b; decide

/-- The row of SWR. -/
abbrev swrRow : OpRow :=
  { slots := [.s], code := 0x49, imm20 := true, a := .any,
    reserved := fun f => f.imm.extractLsb' 12 8 != 0,
    build := fun h f _ => buildSwr h f }

/-! ## The instructions -/


theorem add (o : G3) : Statement (.add o) := fun hw e he => by
  cases he
  exact g3 (k := .add) (sl := [.s, .a]) (by decide) (by rcases slotSA hw with h | h <;> rw [h] <;> rfl)

theorem sub (o : G3) : Statement (.sub o) := fun hw e he => by
  cases he
  exact g3 (k := .sub) (sl := [.s, .a]) (by decide) (by rcases slotSA hw with h | h <;> rw [h] <;> rfl)

theorem and (o : G3) : Statement (.and o) := fun hw e he => by
  cases he
  exact g3 (k := .and) (sl := [.s, .a]) (by decide) (by rcases slotSA hw with h | h <;> rw [h] <;> rfl)

theorem or (o : G3) : Statement (.or o) := fun hw e he => by
  cases he
  exact g3 (k := .or) (sl := [.s, .a]) (by decide) (by rcases slotSA hw with h | h <;> rw [h] <;> rfl)

theorem xor (o : G3) : Statement (.xor o) := fun hw e he => by
  cases he
  exact g3 (k := .xor) (sl := [.s, .a]) (by decide) (by rcases slotSA hw with h | h <;> rw [h] <;> rfl)

theorem shl (o : G3) : Statement (.shl o) := fun hw e he => by
  cases he
  exact g3 (k := .shl) (sl := [.s, .a]) (by decide) (by rcases slotSA hw with h | h <;> rw [h] <;> rfl)

theorem shr (o : G3) : Statement (.shr o) := fun hw e he => by
  cases he
  exact g3 (k := .shr) (sl := [.s, .a]) (by decide) (by rcases slotSA hw with h | h <;> rw [h] <;> rfl)

theorem sra (o : G3) : Statement (.sra o) := fun hw e he => by
  cases he
  exact g3 (k := .sra) (sl := [.s, .a]) (by decide) (by rcases slotSA hw with h | h <;> rw [h] <;> rfl)

theorem mul (o : G3) : Statement (.mul o) := fun hw e he => by
  cases he
  exact g3 (k := .mul) (sl := [.s, .a]) (by decide) (by rcases slotSA hw with h | h <;> rw [h] <;> rfl)

theorem mulh (o : G3) : Statement (.mulh o) := fun hw e he => by
  cases he
  exact g3 (k := .mulh) (sl := [.s, .a]) (by decide) (by rcases slotSA hw with h | h <;> rw [h] <;> rfl)

theorem mulhu (o : G3) : Statement (.mulhu o) := fun hw e he => by
  cases he
  exact g3 (k := .mulhu) (sl := [.s, .a]) (by decide) (by rcases slotSA hw with h | h <;> rw [h] <;> rfl)

theorem div (o : G3) : Statement (.div o) := fun hw e he => by
  cases he
  exact g3 (k := .div) (sl := [.s, .a]) (by decide) (by rcases slotSA hw with h | h <;> rw [h] <;> rfl)

theorem divu (o : G3) : Statement (.divu o) := fun hw e he => by
  cases he
  exact g3 (k := .divu) (sl := [.s, .a]) (by decide) (by rcases slotSA hw with h | h <;> rw [h] <;> rfl)

theorem rem (o : G3) : Statement (.rem o) := fun hw e he => by
  cases he
  exact g3 (k := .rem) (sl := [.s, .a]) (by decide) (by rcases slotSA hw with h | h <;> rw [h] <;> rfl)

theorem remu (o : G3) : Statement (.remu o) := fun hw e he => by
  cases he
  exact g3 (k := .remu) (sl := [.s, .a]) (by decide) (by rcases slotSA hw with h | h <;> rw [h] <;> rfl)

theorem min (o : G3) : Statement (.min o) := fun hw e he => by
  cases he
  exact g3 (k := .min) (sl := [.s, .a]) (by decide) (by rcases slotSA hw with h | h <;> rw [h] <;> rfl)

theorem minu (o : G3) : Statement (.minu o) := fun hw e he => by
  cases he
  exact g3 (k := .minu) (sl := [.s, .a]) (by decide) (by rcases slotSA hw with h | h <;> rw [h] <;> rfl)

theorem max (o : G3) : Statement (.max o) := fun hw e he => by
  cases he
  exact g3 (k := .max) (sl := [.s, .a]) (by decide) (by rcases slotSA hw with h | h <;> rw [h] <;> rfl)

theorem maxu (o : G3) : Statement (.maxu o) := fun hw e he => by
  cases he
  exact g3 (k := .maxu) (sl := [.s, .a]) (by decide) (by rcases slotSA hw with h | h <;> rw [h] <;> rfl)

theorem ldIndexed (o : G3) : Statement (.ldIndexed o) := fun hw e he => by
  cases he
  exact g3 (k := .ldIndexed) (sl := [.m]) (by decide) (by rw [slotM hw]; rfl)

theorem stIndexed (o : G3) : Statement (.stIndexed o) := fun hw e he => by
  cases he
  exact g3 (k := .stIndexed) (sl := [.m]) (by decide) (by rw [slotM hw]; rfl)

theorem addImm (o : GI) : Statement (.addImm o) := fun hw e he => by
  cases he
  exact gi (k := .addImm) (sl := [.s, .a]) (by decide) (by rcases slotSA hw with h | h <;> rw [h] <;> rfl)

theorem subImm (o : GI) : Statement (.subImm o) := fun hw e he => by
  cases he
  exact gi (k := .subImm) (sl := [.s, .a]) (by decide) (by rcases slotSA hw with h | h <;> rw [h] <;> rfl)

theorem andImm (o : GI) : Statement (.andImm o) := fun hw e he => by
  cases he
  exact gi (k := .andImm) (sl := [.s, .a]) (by decide) (by rcases slotSA hw with h | h <;> rw [h] <;> rfl)

theorem orImm (o : GI) : Statement (.orImm o) := fun hw e he => by
  cases he
  exact gi (k := .orImm) (sl := [.s, .a]) (by decide) (by rcases slotSA hw with h | h <;> rw [h] <;> rfl)

theorem xorImm (o : GI) : Statement (.xorImm o) := fun hw e he => by
  cases he
  exact gi (k := .xorImm) (sl := [.s, .a]) (by decide) (by rcases slotSA hw with h | h <;> rw [h] <;> rfl)

theorem shlImm (o : GI) : Statement (.shlImm o) := fun hw e he => by
  cases he
  exact gi (k := .shlImm) (sl := [.s, .a]) (by decide) (by rcases slotSA hw with h | h <;> rw [h] <;> rfl)

theorem shrImm (o : GI) : Statement (.shrImm o) := fun hw e he => by
  cases he
  exact gi (k := .shrImm) (sl := [.s, .a]) (by decide) (by rcases slotSA hw with h | h <;> rw [h] <;> rfl)

theorem sraImm (o : GI) : Statement (.sraImm o) := fun hw e he => by
  cases he
  exact gi (k := .sraImm) (sl := [.s, .a]) (by decide) (by rcases slotSA hw with h | h <;> rw [h] <;> rfl)

theorem mulImm (o : GI) : Statement (.mulImm o) := fun hw e he => by
  cases he
  exact gi (k := .mulImm) (sl := [.s, .a]) (by decide) (by rcases slotSA hw with h | h <;> rw [h] <;> rfl)

theorem ld (o : GI) : Statement (.ld o) := fun hw e he => by
  cases he
  exact gi (k := .ld) (sl := [.m]) (by decide) (by rw [slotM hw]; rfl)

theorem st (o : GI) : Statement (.st o) := fun hw e he => by
  cases he
  exact gi (k := .st) (sl := [.m]) (by decide) (by rw [slotM hw]; rfl)

theorem vld (o : GI) : Statement (.vld o) := fun hw e he => by
  cases he
  exact gi (k := .vld) (sl := [.m]) (by decide) (by rw [slotM hw]; rfl)

theorem vst (o : GI) : Statement (.vst o) := fun hw e he => by
  cases he
  exact gi (k := .vst) (sl := [.m]) (by decide) (by rw [slotM hw]; rfl)

theorem vaddF32Imm (o : GI) : Statement (.vaddF32Imm o) := fun hw e he => by
  cases he
  exact gi (k := .vaddF32Imm) (sl := [.v0, .v1]) (by decide) (by rcases slotV hw with h | h <;> rw [h] <;> rfl)

theorem vaddI32Imm (o : GI) : Statement (.vaddI32Imm o) := fun hw e he => by
  cases he
  exact gi (k := .vaddI32Imm) (sl := [.v0, .v1]) (by decide) (by rcases slotV hw with h | h <;> rw [h] <;> rfl)

theorem vmulF32Imm (o : GI) : Statement (.vmulF32Imm o) := fun hw e he => by
  cases he
  exact gi (k := .vmulF32Imm) (sl := [.v0, .v1]) (by decide) (by rcases slotV hw with h | h <;> rw [h] <;> rfl)

theorem vmulI32Imm (o : GI) : Statement (.vmulI32Imm o) := fun hw e he => by
  cases he
  exact gi (k := .vmulI32Imm) (sl := [.v0, .v1]) (by decide) (by rcases slotV hw with h | h <;> rw [h] <;> rfl)

theorem movImm (o : GM) : Statement (.movImm o) := fun hw e he => by
  cases he
  exact gm (k := .movImm) (sl := [.s, .a]) (by decide) (by rcases slotSA hw with h | h <;> rw [h] <;> rfl)

theorem movFimm (o : GM) : Statement (.movFimm o) := fun hw e he => by
  cases he
  exact gm (k := .movFimm) (sl := [.s, .a]) (by decide) (by rcases slotSA hw with h | h <;> rw [h] <;> rfl)

theorem vmovImm (o : GM) : Statement (.vmovImm o) := fun hw e he => by
  cases he
  exact gm (k := .vmovImm) (sl := [.v0, .v1]) (by decide) (by rcases slotV hw with h | h <;> rw [h] <;> rfl)

theorem vmovFimm (o : GM) : Statement (.vmovFimm o) := fun hw e he => by
  cases he
  exact gm (k := .vmovFimm) (sl := [.v0, .v1]) (by decide) (by rcases slotV hw with h | h <;> rw [h] <;> rfl)

theorem pand (o : P3) : Statement (.pand o) := fun hw e he => by
  cases he
  exact p3 (k := .pand) (by decide) (by rcases slotSA hw with h | h <;> rw [h] <;> rfl)

theorem por (o : P3) : Statement (.por o) := fun hw e he => by
  cases he
  exact p3 (k := .por) (by decide) (by rcases slotSA hw with h | h <;> rw [h] <;> rfl)

theorem pxor (o : P3) : Statement (.pxor o) := fun hw e he => by
  cases he
  exact p3 (k := .pxor) (by decide) (by rcases slotSA hw with h | h <;> rw [h] <;> rfl)

theorem pandn (o : P3) : Statement (.pandn o) := fun hw e he => by
  cases he
  exact p3 (k := .pandn) (by decide) (by rcases slotSA hw with h | h <;> rw [h] <;> rfl)

theorem vaddF32 (o : V3) : Statement (.vaddF32 o) := fun hw e he => by
  cases he
  exact v3 (k := .vaddF32) (sl := [.v0, .v1]) (by decide) (by rcases slotV hw with h | h <;> rw [h] <;> rfl)

theorem vaddI32 (o : V3) : Statement (.vaddI32 o) := fun hw e he => by
  cases he
  exact v3 (k := .vaddI32) (sl := [.v0, .v1]) (by decide) (by rcases slotV hw with h | h <;> rw [h] <;> rfl)

theorem vmulF32 (o : V3) : Statement (.vmulF32 o) := fun hw e he => by
  cases he
  exact v3 (k := .vmulF32) (sl := [.v0, .v1]) (by decide) (by rcases slotV hw with h | h <;> rw [h] <;> rfl)

theorem vmulI32 (o : V3) : Statement (.vmulI32 o) := fun hw e he => by
  cases he
  exact v3 (k := .vmulI32) (sl := [.v0, .v1]) (by decide) (by rcases slotV hw with h | h <;> rw [h] <;> rfl)

theorem vsubF32 (o : V3) : Statement (.vsubF32 o) := fun hw e he => by
  cases he
  exact v3 (k := .vsubF32) (sl := [.v0, .v1]) (by decide) (by rcases slotV hw with h | h <;> rw [h] <;> rfl)

theorem vsubI32 (o : V3) : Statement (.vsubI32 o) := fun hw e he => by
  cases he
  exact v3 (k := .vsubI32) (sl := [.v0, .v1]) (by decide) (by rcases slotV hw with h | h <;> rw [h] <;> rfl)

theorem vminF32 (o : V3) : Statement (.vminF32 o) := fun hw e he => by
  cases he
  exact v3 (k := .vminF32) (sl := [.v0, .v1]) (by decide) (by rcases slotV hw with h | h <;> rw [h] <;> rfl)

theorem vminI32 (o : V3) : Statement (.vminI32 o) := fun hw e he => by
  cases he
  exact v3 (k := .vminI32) (sl := [.v0, .v1]) (by decide) (by rcases slotV hw with h | h <;> rw [h] <;> rfl)

theorem vminN32 (o : V3) : Statement (.vminN32 o) := fun hw e he => by
  cases he
  exact v3 (k := .vminN32) (sl := [.v0, .v1]) (by decide) (by rcases slotV hw with h | h <;> rw [h] <;> rfl)

theorem vmaxF32 (o : V3) : Statement (.vmaxF32 o) := fun hw e he => by
  cases he
  exact v3 (k := .vmaxF32) (sl := [.v0, .v1]) (by decide) (by rcases slotV hw with h | h <;> rw [h] <;> rfl)

theorem vmaxI32 (o : V3) : Statement (.vmaxI32 o) := fun hw e he => by
  cases he
  exact v3 (k := .vmaxI32) (sl := [.v0, .v1]) (by decide) (by rcases slotV hw with h | h <;> rw [h] <;> rfl)

theorem vmaxN32 (o : V3) : Statement (.vmaxN32 o) := fun hw e he => by
  cases he
  exact v3 (k := .vmaxN32) (sl := [.v0, .v1]) (by decide) (by rcases slotV hw with h | h <;> rw [h] <;> rfl)

theorem vand (o : V3) : Statement (.vand o) := fun hw e he => by
  cases he
  exact v3 (k := .vand) (sl := [.v0, .v1]) (by decide) (by rcases slotV hw with h | h <;> rw [h] <;> rfl)

theorem vor (o : V3) : Statement (.vor o) := fun hw e he => by
  cases he
  exact v3 (k := .vor) (sl := [.v0, .v1]) (by decide) (by rcases slotV hw with h | h <;> rw [h] <;> rfl)

theorem vxor (o : V3) : Statement (.vxor o) := fun hw e he => by
  cases he
  exact v3 (k := .vxor) (sl := [.v0, .v1]) (by decide) (by rcases slotV hw with h | h <;> rw [h] <;> rfl)

theorem vshl (o : V3) : Statement (.vshl o) := fun hw e he => by
  cases he
  exact v3 (k := .vshl) (sl := [.v0, .v1]) (by decide) (by rcases slotV hw with h | h <;> rw [h] <;> rfl)

theorem vshr (o : V3) : Statement (.vshr o) := fun hw e he => by
  cases he
  exact v3 (k := .vshr) (sl := [.v0, .v1]) (by decide) (by rcases slotV hw with h | h <;> rw [h] <;> rfl)

theorem vsra (o : V3) : Statement (.vsra o) := fun hw e he => by
  cases he
  exact v3 (k := .vsra) (sl := [.v0, .v1]) (by decide) (by rcases slotV hw with h | h <;> rw [h] <;> rfl)

theorem vperm (o : V3) : Statement (.vperm o) := fun hw e he => by
  cases he
  exact v3 (k := .vperm) (sl := [.v0, .v1]) (by decide) (by rcases slotV hw with h | h <;> rw [h] <;> rfl)

theorem vldIndexed (o : V3) : Statement (.vldIndexed o) := fun hw e he => by
  cases he
  exact v3 (k := .vldIndexed) (sl := [.m]) (by decide) (by rw [slotM hw]; rfl)

theorem vstIndexed (o : V3) : Statement (.vstIndexed o) := fun hw e he => by
  cases he
  exact v3 (k := .vstIndexed) (sl := [.m]) (by decide) (by rw [slotM hw]; rfl)

theorem vbcast (o : V2) : Statement (.vbcast o) := fun hw e he => by
  cases he
  exact v2 (k := .vbcast) (by decide) (by rcases slotV hw with h | h <;> rw [h] <;> rfl)

theorem vabs (o : V2) : Statement (.vabs o) := fun hw e he => by
  cases he
  exact v2 (k := .vabs) (by decide) (by rcases slotV hw with h | h <;> rw [h] <;> rfl)

theorem vneg (o : V2) : Statement (.vneg o) := fun hw e he => by
  cases he
  exact v2 (k := .vneg) (by decide) (by rcases slotV hw with h | h <;> rw [h] <;> rfl)

theorem vcmpF32 (o : VCmpOps) : Statement (.vcmpF32 o) := fun hw e he => by
  cases he
  simp only [Instr.wf, Bool.and_eq_true] at hw
  exact vcmp (k := .vcmpF32) (by decide) (by rcases slotV hw.1 with h | h <;> rw [h] <;> rfl) (of_decide_eq_true hw.2)

theorem vcmpI32 (o : VCmpOps) : Statement (.vcmpI32 o) := fun hw e he => by
  cases he
  simp only [Instr.wf, Bool.and_eq_true] at hw
  exact vcmp (k := .vcmpI32) (by decide) (by rcases slotV hw.1 with h | h <;> rw [h] <;> rfl) (of_decide_eq_true hw.2)

theorem vcmpN32 (o : VCmpOps) : Statement (.vcmpN32 o) := fun hw e he => by
  cases he
  simp only [Instr.wf, Bool.and_eq_true] at hw
  exact vcmp (k := .vcmpN32) (by decide) (by rcases slotV hw.1 with h | h <;> rw [h] <;> rfl) (of_decide_eq_true hw.2)

theorem vredF32 (o : VRedOps) : Statement (.vredF32 o) := fun hw e he => by
  cases he
  simp only [Instr.wf, Bool.and_eq_true] at hw
  exact vred (k := .vredF32) (by decide) (by rcases slotV hw.1 with h | h <;> rw [h] <;> rfl) (by simpa using hw.2)

theorem vredI32 (o : VRedOps) : Statement (.vredI32 o) := fun hw e he => by
  cases he
  simp only [Instr.wf, Bool.and_eq_true] at hw
  exact vred (k := .vredI32) (by decide) (by rcases slotV hw.1 with h | h <;> rw [h] <;> rfl) (by simpa using hw.2)

theorem vredN32 (o : VRedOps) : Statement (.vredN32 o) := fun hw e he => by
  cases he
  simp only [Instr.wf, Bool.and_eq_true] at hw
  exact vred (k := .vredN32) (by decide) (by rcases slotV hw.1 with h | h <;> rw [h] <;> rfl) (by simpa using hw.2)

theorem wclaim (o : SlotOps) : Statement (.wclaim o) := fun hw e he => by
  cases he
  exact slotRow (k := .wclaim) (by decide) (by rw [slotX hw]; rfl)

theorem wrel (o : SlotOps) : Statement (.wrel o) := fun hw e he => by
  cases he
  exact slotRow (k := .wrel) (by decide) (by rw [slotX hw]; rfl)

theorem oclaim (o : SlotOps) : Statement (.oclaim o) := fun hw e he => by
  cases he
  exact slotRow (k := .oclaim) (by decide) (by rw [slotX hw]; rfl)

theorem orel (o : SlotOps) : Statement (.orel o) := fun hw e he => by
  cases he
  exact slotRow (k := .orel) (by decide) (by rw [slotX hw]; rfl)

theorem blkAlloc (o : BlkOps) : Statement (.blkAlloc o) := fun hw e he => by
  cases he
  exact blk (k := .blkAlloc) (by decide) (by rw [slotE hw]; rfl)

theorem blkXlat (o : BlkOps) : Statement (.blkXlat o) := fun hw e he => by
  cases he
  exact blk (k := .blkXlat) (by decide) (by rw [slotE hw]; rfl)

theorem blkFree (o : BlkOps) : Statement (.blkFree o) := fun hw e he => by
  cases he
  exact blk (k := .blkFree) (by decide) (by rw [slotE hw]; rfl)

theorem pmpCp (o : PumpOps) : Statement (.pmpCp o) := fun hw e he => by
  cases he
  simp only [Instr.wf, Bool.and_eq_true] at hw
  exact pumpA (k := .pmpCp) (by decide) (by rw [slotE hw.1.1]; rfl) (of_decide_eq_true hw.1.2) (by simpa using hw.2)

theorem pmpGth (o : PumpOps) : Statement (.pmpGth o) := fun hw e he => by
  cases he
  simp only [Instr.wf, Bool.and_eq_true] at hw
  exact pumpA (k := .pmpGth) (by decide) (by rw [slotE hw.1.1]; rfl) (of_decide_eq_true hw.1.2) (by simpa using hw.2)

theorem pmpSct (o : PumpOps) : Statement (.pmpSct o) := fun hw e he => by
  cases he
  simp only [Instr.wf, Bool.and_eq_true] at hw
  exact pumpA (k := .pmpSct) (by decide) (by rw [slotE hw.1.1]; rfl) (of_decide_eq_true hw.1.2) (by simpa using hw.2)

theorem pmpDec (o : PumpOps) : Statement (.pmpDec o) := fun hw e he => by
  cases he
  simp only [Instr.wf, Bool.and_eq_true] at hw
  exact pumpB (k := .pmpDec) (by decide) (by rw [slotE hw.1]; rfl) (of_decide_eq_true hw.2)

theorem pmpCmp (o : PumpOps) : Statement (.pmpCmp o) := fun hw e he => by
  cases he
  simp only [Instr.wf, Bool.and_eq_true] at hw
  exact pumpB (k := .pmpCmp) (by decide) (by rw [slotE hw.1]; rfl) (of_decide_eq_true hw.2)

theorem aadd (o : KOps) : Statement (.aadd o) := fun hw e he => by
  cases he
  simp only [Instr.wf, Bool.and_eq_true] at hw
  exact katom (types := tyAll) (k := .aadd) (by decide) (by rw [slotE hw.1]; rfl) hw.2

theorem aincw (o : KOps) : Statement (.aincw o) := fun hw e he => by
  cases he
  simp only [Instr.wf, Bool.and_eq_true] at hw
  exact katom (types := tyNat) (k := .aincw) (by decide) (by rw [slotE hw.1]; rfl) hw.2

theorem axchg (o : KOps) : Statement (.axchg o) := fun hw e he => by
  cases he
  simp only [Instr.wf, Bool.and_eq_true] at hw
  exact katom (types := tyAll) (k := .axchg) (by decide) (by rw [slotE hw.1]; rfl) hw.2

theorem amin (o : KOps) : Statement (.amin o) := fun hw e he => by
  cases he
  simp only [Instr.wf, Bool.and_eq_true] at hw
  exact katom (types := tyAll) (k := .amin) (by decide) (by rw [slotE hw.1]; rfl) hw.2

theorem amax (o : KOps) : Statement (.amax o) := fun hw e he => by
  cases he
  simp only [Instr.wf, Bool.and_eq_true] at hw
  exact katom (types := tyAll) (k := .amax) (by decide) (by rw [slotE hw.1]; rfl) hw.2

theorem aand (o : KOps) : Statement (.aand o) := fun hw e he => by
  cases he
  simp only [Instr.wf, Bool.and_eq_true] at hw
  exact katom (types := tyNat) (k := .aand) (by decide) (by rw [slotE hw.1]; rfl) hw.2

theorem aor (o : KOps) : Statement (.aor o) := fun hw e he => by
  cases he
  simp only [Instr.wf, Bool.and_eq_true] at hw
  exact katom (types := tyNat) (k := .aor) (by decide) (by rw [slotE hw.1]; rfl) hw.2

theorem axor (o : KOps) : Statement (.axor o) := fun hw e he => by
  cases he
  simp only [Instr.wf, Bool.and_eq_true] at hw
  exact katom (types := tyNat) (k := .axor) (by decide) (by rw [slotE hw.1]; rfl) hw.2

theorem movToX (o : MovX) : Statement (.movToX o) := fun hw e he => by
  cases he
  exact encR_reads (by decide) (by rw [slotA hw]; rfl)
    (by simp [OpRow.subcode, FieldKind.outOfRange, FieldKind.oddPair, FieldKind.usedAmiss, OpRow.usedBits, widen3_lt])
    (by simp [widen3_back])

theorem movFromX (o : MovGX) : Statement (.movFromX o) := fun hw e he => by
  cases he
  exact encR_reads (by decide) (by rw [slotA hw]; rfl)
    (by simp [OpRow.subcode, FieldKind.outOfRange, FieldKind.oddPair, FieldKind.usedAmiss, OpRow.usedBits, widen3_lt])
    (by simp [widen3_back])

theorem movToM (o : MovM) : Statement (.movToM o) := fun hw e he => by
  cases he
  exact encR_reads (by decide) (by rw [slotA hw]; rfl)
    (by simp [OpRow.subcode, FieldKind.outOfRange, FieldKind.oddPair, FieldKind.usedAmiss, OpRow.usedBits, widen4_lt])
    (by simp [widen4_back])

theorem movFromM (o : MovGM) : Statement (.movFromM o) := fun hw e he => by
  cases he
  exact encR_reads (by decide) (by rw [slotA hw]; rfl)
    (by simp [OpRow.subcode, FieldKind.outOfRange, FieldKind.oddPair, FieldKind.usedAmiss, OpRow.usedBits, widen4_lt])
    (by simp [widen4_back])

theorem movToF (o : RR) : Statement (.movToF o) := fun hw e he => by
  cases he
  exact encR_reads (by decide) (by rw [slotA hw]; rfl)
    (by simp [OpRow.subcode, FieldKind.outOfRange, FieldKind.oddPair, FieldKind.usedAmiss, OpRow.usedBits])
    (rfl)

theorem movFromF (o : RR) : Statement (.movFromF o) := fun hw e he => by
  cases he
  exact encR_reads (by decide) (by rw [slotA hw]; rfl)
    (by simp [OpRow.subcode, FieldKind.outOfRange, FieldKind.oddPair, FieldKind.usedAmiss, OpRow.usedBits])
    (rfl)

theorem movFromLc (o : RR) : Statement (.movFromLc o) := fun hw e he => by
  cases he
  simp only [Instr.wf, Bool.and_eq_true] at hw
  have hk := of_decide_eq_true hw.2
  exact encR_reads (by decide) (by rw [slotA hw.1]; rfl) (by simp [OpRow.subcode, FieldKind.outOfRange, FieldKind.oddPair, FieldKind.usedAmiss, OpRow.usedBits, hk]) rfl

theorem br (o : ImmOps) : Statement (.br o) := fun hw e he => by
  cases he
  exact encI_reads (by decide) (by rw [slotS hw]; rfl)
    (by simp [OpRow.subcode, FieldKind.outOfRange, FieldKind.oddPair, FieldKind.usedAmiss, OpRow.usedBits])
    (by simp [imm_immFields])

theorem call (o : ImmOps) : Statement (.call o) := fun hw e he => by
  cases he
  exact encI_reads (by decide) (by rw [slotS hw]; rfl)
    (by simp [OpRow.subcode, FieldKind.outOfRange, FieldKind.oddPair, FieldKind.usedAmiss, OpRow.usedBits])
    (by simp [imm_immFields])

theorem ret (hd : Hd) : Statement (.ret hd) := fun hw e he => by
  cases he
  exact encR_reads (by decide) (by rw [slotS hw]; rfl)
    (by simp [OpRow.subcode, FieldKind.outOfRange, FieldKind.oddPair, FieldKind.usedAmiss, OpRow.usedBits])
    (rfl)

theorem jmpi (o : RA) : Statement (.jmpi o) := fun hw e he => by
  cases he
  exact encR_reads (by decide) (by rw [slotS hw]; rfl)
    (by simp [OpRow.subcode, FieldKind.outOfRange, FieldKind.oddPair, FieldKind.usedAmiss, OpRow.usedBits])
    (rfl)

theorem nopn (o : ImmOps) : Statement (.nopn o) := fun hw e he => by
  cases he
  simp only [Instr.wf, Bool.and_eq_true] at hw
  exact encI_reads (by decide) (by rw [slotS hw.1]; rfl)
    (by simp [OpRow.subcode, FieldKind.outOfRange, FieldKind.oddPair, FieldKind.usedAmiss, OpRow.usedBits, hw.2])
    (by simp [imm_immFields])

theorem srd (o : SrdOps) : Statement (.srd o) := fun hw e he => by
  cases he
  exact encI_reads (by decide) (by rw [slotS hw]; rfl)
    (by simp [OpRow.subcode, FieldKind.outOfRange, FieldKind.oddPair, FieldKind.usedAmiss, OpRow.usedBits, high8])
    (by simp [low12])

theorem swr (o : SwrOps) : Statement (.swr o) := fun hw e he => by
  cases he
  simp only [Instr.wf, Bool.and_eq_true, Bool.not_eq_true', swrOwnRow, Bool.or_eq_false_iff] at hw
  refine encI_reads (r := swrRow) (by decide) (by rw [slotS hw.1]; rfl) (by simp [OpRow.subcode, FieldKind.outOfRange, FieldKind.oddPair, FieldKind.usedAmiss, OpRow.usedBits, swrRow, high8]) ?_
  have h1 : (o.num == 0x00D) = false := hw.2.1
  have h2 : (decide (0x020 ≤ o.num.toNat) && decide (o.num.toNat ≤ 0x02F)) = false := hw.2.2
  simp only [swrRow, buildSwr, imm_immFields, low12, h1, h2, Bool.false_eq_true, if_false]

theorem swrRmode (o : RA) : Statement (.swrRmode o) := fun hw e he => by
  cases he
  refine encI_reads (r := swrRow) (by decide) (by rw [slotS hw]; rfl) (by simp [OpRow.subcode, FieldKind.outOfRange, FieldKind.oddPair, FieldKind.usedAmiss, OpRow.usedBits, swrRow]) ?_
  simp only [swrRow, buildSwr, imm_immFields]
  rfl

theorem swrBfmt (o : SwrBfmtOps) : Statement (.swrBfmt o) := fun hw e he => by
  cases he
  refine encI_reads (r := swrRow) (by decide) (by rw [slotS hw]; rfl) ?_ ?_
  · have : ((0x0002#16 ++ o.bank : BitVec 20).extractLsb' 12 8) = 0 := by generalize o.bank = b; revert b; decide
    simp [OpRow.subcode, FieldKind.outOfRange, FieldKind.oddPair, FieldKind.usedAmiss, OpRow.usedBits, swrRow, this]
  · have h := bfmt_facts o.bank
    simp only [swrRow, buildSwr, imm_immFields, h.1, h.2.1, h.2.2, Bool.false_eq_true, if_false, if_true]

theorem loop (o : LoopOps) : Statement (.loop o) := fun hw e he => by
  cases he
  simp only [Instr.wf, Bool.and_eq_true] at hw
  exact encL_reads (by decide) (by rw [slotS hw.1]; rfl)
    (by have h := hw.2; revert h; generalize o.ii = q; intro h; simp [OpRow.subcode, FieldKind.outOfRange, FieldKind.oddPair, FieldKind.usedAmiss, OpRow.usedBits]; revert q; decide)
    (by have : low 7 (varL o.ii) = o.ii := low7 _; simp [this])

theorem loopn (o : LoopnOps) : Statement (.loopn o) := fun hw e he => by
  cases he
  exact encL_reads (by decide) (by rw [slotS hw]; rfl)
    (by simp [OpRow.subcode, FieldKind.outOfRange, FieldKind.oddPair, FieldKind.usedAmiss, OpRow.usedBits])
    (rfl)

theorem cmpImm (o : PCI) : Statement (.cmpImm o) := fun hw e he => by
  cases he
  exact encI_reads (by decide) (by rcases slotSA hw with h | h <;> rw [h] <;> rfl)
    (by simp [OpRow.subcode, FieldKind.outOfRange, FieldKind.oddPair, FieldKind.usedAmiss, OpRow.usedBits, pair_lt, pair_even, low_mask])
    (by simp [pair_back])

theorem cmpImmUnsigned (o : PCI) : Statement (.cmpImmUnsigned o) := fun hw e he => by
  cases he
  simp only [Instr.wf, Bool.and_eq_true] at hw
  have hk := of_decide_eq_true hw.2
  exact encI_reads (by decide) (by rcases slotSA hw.1 with h | h <;> rw [h] <;> rfl) (by simp [OpRow.subcode, FieldKind.outOfRange, FieldKind.oddPair, FieldKind.usedAmiss, OpRow.usedBits, pair_lt, pair_even, low_mask, hk]) (by simp [pair_back])

theorem ldRaw (o : MIW) : Statement (.ldRaw o) := fun hw e he => by
  cases he
  exact encI_reads (by decide) (by rw [slotM hw]; rfl)
    (by simp [OpRow.subcode, FieldKind.outOfRange, FieldKind.oddPair, FieldKind.usedAmiss, OpRow.usedBits, low_mask])
    (by simp [imm_immFields])

theorem stRaw (o : MIW) : Statement (.stRaw o) := fun hw e he => by
  cases he
  exact encI_reads (by decide) (by rw [slotM hw]; rfl)
    (by simp [OpRow.subcode, FieldKind.outOfRange, FieldKind.oddPair, FieldKind.usedAmiss, OpRow.usedBits, low_mask])
    (by simp [imm_immFields])

theorem movG (o : G2) : Statement (.movG o) := fun hw e he => by
  cases he
  refine encB_reads (fun b f => .movG ⟨o.hd, f.d, b⟩) (by decide) (by rcases slotSA hw with h | h <;> rw [h] <;> rfl) (fun f lit => rfl)
    (star_hi0) (star_lo0) ?_ ?_ ?_ ?_
  · intro x; simp [OpRow.subcode, FieldKind.outOfRange, FieldKind.oddPair, FieldKind.usedAmiss, OpRow.usedBits]
  · intro x j; revert j; simp [OpRow.subcode, FieldKind.outOfRange, FieldKind.oddPair, FieldKind.usedAmiss, OpRow.usedBits]; decide
  · simp [OpRow.subcode, FieldKind.outOfRange, FieldKind.oddPair, FieldKind.usedAmiss, OpRow.usedBits]
  · intro x v l _; rfl

theorem sel (o : SelOps) : Statement (.sel o) := fun hw e he => by
  cases he
  refine encB_reads (fun b f => .sel ⟨o.hd, f.d, f.a, b, low 4 f.c⟩) (by decide) (by rcases slotSA hw with h | h <;> rw [h] <;> rfl) (fun f lit => rfl)
    (star_hi0) (star_lo0) ?_ ?_ ?_ ?_
  · intro x; simp [OpRow.subcode, FieldKind.outOfRange, FieldKind.oddPair, FieldKind.usedAmiss, OpRow.usedBits, widen4_lt]
  · intro x j; revert j; simp [OpRow.subcode, FieldKind.outOfRange, FieldKind.oddPair, FieldKind.usedAmiss, OpRow.usedBits, widen4_lt]; decide
  · simp [OpRow.subcode, FieldKind.outOfRange, FieldKind.oddPair, FieldKind.usedAmiss, OpRow.usedBits, widen4_lt]
  · intro x v l _; simp [widen4_back]

theorem tsync (o : TsyncOps) : Statement (.tsync o) := fun hw e he => by
  cases he
  refine encB_reads (fun b _ => .tsync ⟨o.hd, b⟩) (by decide) (by rw [slotY hw]; rfl) (fun f lit => rfl)
    (star_hi0) (star_lo0) ?_ ?_ ?_ ?_
  · intro x; simp [OpRow.subcode, FieldKind.outOfRange, FieldKind.oddPair, FieldKind.usedAmiss, OpRow.usedBits]
  · intro x j; revert j; simp [OpRow.subcode, FieldKind.outOfRange, FieldKind.oddPair, FieldKind.usedAmiss, OpRow.usedBits]; decide
  · simp [OpRow.subcode, FieldKind.outOfRange, FieldKind.oddPair, FieldKind.usedAmiss, OpRow.usedBits]
  · intro x v l _; rfl

theorem vmov (o : VB) : Statement (.vmov o) := fun hw e he => by
  cases he
  refine encB_reads (fun b f => .vmov ⟨o.hd, f.d, b, f.lm⟩) (by decide) (by rcases slotV hw with h | h <;> rw [h] <;> rfl) (fun f lit => rfl)
    (by intro j; generalize o.lm = lm; revert j lm; decide) (by generalize o.lm = lm; revert lm; decide) ?_ ?_ ?_ ?_
  · intro x; generalize o.lm = lm; simp [OpRow.subcode, FieldKind.outOfRange, FieldKind.oddPair, FieldKind.usedAmiss, OpRow.usedBits]; revert lm; decide
  · intro x j; generalize o.lm = lm; simp [OpRow.subcode, FieldKind.outOfRange, FieldKind.oddPair, FieldKind.usedAmiss, OpRow.usedBits]; revert j lm; decide
  · generalize o.lm = lm; simp [OpRow.subcode, FieldKind.outOfRange, FieldKind.oddPair, FieldKind.usedAmiss, OpRow.usedBits]; revert lm; decide
  · intro x v l hv; simp only [lm_back hv]

theorem vsel (o : VSelOps) : Statement (.vsel o) := fun hw e he => by
  cases he
  refine encB_reads (fun b f => .vsel ⟨o.hd, f.d, f.a, b, low 4 f.c, f.lm⟩) (by decide) (by rcases slotV hw with h | h <;> rw [h] <;> rfl) (fun f lit => rfl)
    (by intro j; generalize o.lm = lm; revert j lm; decide) (by generalize o.lm = lm; revert lm; decide) ?_ ?_ ?_ ?_
  · intro x; generalize o.lm = lm; simp [OpRow.subcode, FieldKind.outOfRange, FieldKind.oddPair, FieldKind.usedAmiss, OpRow.usedBits, widen4_lt]; revert lm; decide
  · intro x j; generalize o.lm = lm; simp [OpRow.subcode, FieldKind.outOfRange, FieldKind.oddPair, FieldKind.usedAmiss, OpRow.usedBits, widen4_lt]; revert j lm; decide
  · generalize o.lm = lm; simp [OpRow.subcode, FieldKind.outOfRange, FieldKind.oddPair, FieldKind.usedAmiss, OpRow.usedBits, widen4_lt]; revert lm; decide
  · intro x v l hv; simp only [lm_back hv, widen4_back]

theorem ldRawIndexed (o : MRW) : Statement (.ldRawIndexed o) := fun hw e he => by
  cases he
  refine encB_reads (fun b f => .ldRawIndexed ⟨o.hd, f.d, f.a, b, low 2 f.var⟩) (by decide) (by rw [slotM hw]; rfl) (fun f lit => rfl)
    (by intro j; generalize o.w = w; revert j w; decide) (by generalize o.w = w; revert w; decide) ?_ ?_ ?_ ?_
  · intro x; generalize o.w = w; simp [OpRow.subcode, FieldKind.outOfRange, FieldKind.oddPair, FieldKind.usedAmiss, OpRow.usedBits]; revert w; decide
  · intro x j; generalize o.w = w; simp [OpRow.subcode, FieldKind.outOfRange, FieldKind.oddPair, FieldKind.usedAmiss, OpRow.usedBits]; revert j w; decide
  · generalize o.w = w; simp [OpRow.subcode, FieldKind.outOfRange, FieldKind.oddPair, FieldKind.usedAmiss, OpRow.usedBits]; revert w; decide
  · intro x v l hv; simp only [w_back hv]

theorem stRawIndexed (o : MRW) : Statement (.stRawIndexed o) := fun hw e he => by
  cases he
  refine encB_reads (fun b f => .stRawIndexed ⟨o.hd, f.d, f.a, b, low 2 f.var⟩) (by decide) (by rw [slotM hw]; rfl) (fun f lit => rfl)
    (by intro j; generalize o.w = w; revert j w; decide) (by generalize o.w = w; revert w; decide) ?_ ?_ ?_ ?_
  · intro x; generalize o.w = w; simp [OpRow.subcode, FieldKind.outOfRange, FieldKind.oddPair, FieldKind.usedAmiss, OpRow.usedBits]; revert w; decide
  · intro x j; generalize o.w = w; simp [OpRow.subcode, FieldKind.outOfRange, FieldKind.oddPair, FieldKind.usedAmiss, OpRow.usedBits]; revert j w; decide
  · generalize o.w = w; simp [OpRow.subcode, FieldKind.outOfRange, FieldKind.oddPair, FieldKind.usedAmiss, OpRow.usedBits]; revert w; decide
  · intro x v l hv; simp only [w_back hv]

theorem cmp (o : PC) : Statement (.cmp o) := fun hw e he => by
  cases he
  simp only [Instr.wf, Bool.and_eq_true] at hw
  have hk := of_decide_eq_true hw.2
  refine encB_reads (fun b f => .cmp ⟨o.hd, f.d.extractLsb' 1 3, f.a, b, low 3 f.var⟩) (by decide)
    (by rcases slotSA hw.1 with h | h <;> rw [h] <;> rfl) (fun f lit => rfl) (by intro j; generalize o.cc = q; revert j q; decide)
    (by generalize o.cc = q; revert q; decide) ?_ ?_ ?_ ?_
  · intro x; revert hk; generalize o.cc = q; simp [OpRow.subcode, FieldKind.outOfRange, FieldKind.oddPair, FieldKind.usedAmiss, OpRow.usedBits, pair_lt, pair_even]; revert q; decide
  · intro x j; revert hk; generalize o.cc = q; simp [OpRow.subcode, FieldKind.outOfRange, FieldKind.oddPair, FieldKind.usedAmiss, OpRow.usedBits, pair_lt, pair_even]; revert j q; decide
  · revert hk; generalize o.cc = q; simp [OpRow.subcode, FieldKind.outOfRange, FieldKind.oddPair, FieldKind.usedAmiss, OpRow.usedBits, pair_lt, pair_even]; revert q; decide
  · intro x v l hv; simp only [cc_back hv, pair_back]

theorem vfma (o : VFmaOps) : Statement (.vfma o) := fun hw e he => by
  cases he
  refine encB_reads (fun b f => .vfma ⟨o.hd, f.d, f.a, b, f.c, f.var.getLsbD 0, f.var.getLsbD 1, f.lm⟩)
    (by decide) (by rcases slotV hw with h | h <;> rw [h] <;> rfl) (fun f lit => rfl)
    (by intro j; generalize o.lm = lm; generalize o.negA = p; generalize o.negP = q; revert j lm p q; decide)
    (by generalize o.lm = lm; generalize o.negA = p; generalize o.negP = q; revert lm p q; decide) ?_ ?_ ?_ ?_
  · intro x; generalize o.lm = lm; generalize o.negA = p; generalize o.negP = q; simp [OpRow.subcode, FieldKind.outOfRange, FieldKind.oddPair, FieldKind.usedAmiss, OpRow.usedBits]; revert lm p q; decide
  · intro x j; generalize o.lm = lm; generalize o.negA = p; generalize o.negP = q; simp [OpRow.subcode, FieldKind.outOfRange, FieldKind.oddPair, FieldKind.usedAmiss, OpRow.usedBits]; revert j lm p q; decide
  · generalize o.lm = lm; generalize o.negA = p; generalize o.negP = q; simp [OpRow.subcode, FieldKind.outOfRange, FieldKind.oddPair, FieldKind.usedAmiss, OpRow.usedBits]; revert lm p q; decide
  · intro x v l hv; have h := fma_back hv; simp only [Fields.lm, h.1, h.2.1, h.2.2]

theorem vext (o : VExtOps) : Statement (.vext o) := fun hw e he => by
  cases he
  refine encR_reads (by decide) (by rcases slotV hw with h | h <;> rw [h] <;> rfl) ?_ ?_
  · generalize o.lm = lm; simp [OpRow.subcode, FieldKind.outOfRange, FieldKind.oddPair, FieldKind.usedAmiss, OpRow.usedBits]; revert lm; decide
  · simp only [lm_only]

theorem vcvt (o : VCvtOps) : Statement (.vcvt o) := fun hw e he => by
  cases he
  simp only [Instr.wf, Bool.and_eq_true] at hw
  refine encR_reads (by decide) (by rcases slotV hw.1 with h | h <;> rw [h] <;> rfl) ?_ ?_
  · have hk := of_decide_eq_true hw.2
    have h := varC_back o.code o.lm
    have hm : varC o.code o.lm &&& 512#10 = 0#10 := by generalize o.code = q; generalize o.lm = lm; revert q lm; decide
    simp [OpRow.subcode, FieldKind.outOfRange, FieldKind.oddPair, FieldKind.usedAmiss, OpRow.usedBits, Fields.code5, h.1, hk, hm]
  · have h := varC_back o.code o.lm; simp only [Fields.code5, Fields.lm, h.1, h.2]

theorem xmovStart (o : XStartOps) : Statement (.xmovStart o) := fun hw e he => by
  cases he
  simp only [Instr.wf, Bool.and_eq_true] at hw
  have hk := of_decide_eq_true hw.2
  have h := varC_back o.op o.lm
  have hm : varC o.op o.lm &&& ~~~(0x1FF : BitVec 10) = 0 := varC_used o.op o.lm
  refine encR_reads (by decide) (by rw [slotV1 hw.1]; rfl) ?_ ?_
  · have hm2 : varC o.op o.lm &&& 512#10 = 0#10 := by simpa using hm
    simp [OpRow.subcode, FieldKind.outOfRange, FieldKind.oddPair, FieldKind.usedAmiss, OpRow.usedBits, Fields.code5, h.1, hk, hm2]
  · simp only [Fields.code5, Fields.lm, h.1, h.2]

theorem xmovCollect (o : XCollectOps) : Statement (.xmovCollect o) := fun hw e he => by
  cases he
  simp only [Instr.wf, Bool.and_eq_true] at hw
  refine encR_reads (by decide) (by rw [slotV1 hw.1]; rfl) ?_ ?_
  · generalize o.lm = lm; simp [OpRow.subcode, FieldKind.outOfRange, FieldKind.oddPair, FieldKind.usedAmiss, OpRow.usedBits, hw.2]; revert lm; decide
  · simp only [lm_only]

theorem oload (o : OLoadOps) : Statement (.oload o) := fun hw e he => by
  cases he
  refine encR_reads (by decide) (by rw [slotX hw]; rfl) ?_ ?_
  · generalize o.k = k; simp [OpRow.subcode, FieldKind.outOfRange, FieldKind.oddPair, FieldKind.usedAmiss, OpRow.usedBits]; revert k; decide
  · simp only [low3]

theorem wload (o : WLoadOps) : Statement (.wload o) := fun hw e he => by
  cases he
  refine encR_reads (by decide) (by rw [slotX hw]; rfl) ?_ ?_
  · generalize o.int4 = b; generalize o.k = k; simp [OpRow.subcode, FieldKind.outOfRange, FieldKind.oddPair, FieldKind.usedAmiss, OpRow.usedBits]; revert b k; decide
  · have h := wload_back o.int4 o.k; simp only [h.1, h.2]

theorem mpload (o : AB) : Statement (.mpload o) := fun hw e he => by
  cases he
  exact encR_reads (by decide) (by rw [slotX hw]; rfl)
    (by simp [OpRow.subcode, FieldKind.outOfRange, FieldKind.oddPair, FieldKind.usedAmiss, OpRow.usedBits])
    (rfl)

theorem mcall (o : MCallOps) : Statement (.mcall o) := fun hw e he => by
  cases he
  exact encR_reads (by decide) (by rw [slotX hw]; rfl)
    (by simp [OpRow.subcode, FieldKind.outOfRange, FieldKind.oddPair, FieldKind.usedAmiss, OpRow.usedBits])
    (by simp [tag_join])

theorem mcallSplit (o : MCallSplitOps) : Statement (.mcallSplit o) := fun hw e he => by
  cases he
  simp only [Instr.wf, Bool.and_eq_true] at hw
  refine encR_reads (by decide) (by rw [slotX hw.1.1]; rfl) ?_ ?_
  · have h1 := hw.1.2; revert h1; have h2 := hw.2; revert h2; generalize o.s = q; generalize o.clip = c; simp [OpRow.subcode, FieldKind.outOfRange, FieldKind.oddPair, FieldKind.usedAmiss, OpRow.usedBits]; revert q c; decide
  · have h := varT_back 0 o.s o.clip; simp only [tag_join, h.1, h.2.1]

theorem mcallSparse (o : MCallSparseOps) : Statement (.mcallSparse o) := fun hw e he => by
  cases he
  simp only [Instr.wf, Bool.and_eq_true] at hw
  refine encR_reads (by decide) (by rw [slotX hw.1.1.1]; rfl) ?_ ?_
  · have h1 := hw.1.1.2; revert h1; have h2 := hw.1.2; revert h2; have h3 := hw.2; revert h3; generalize o.s = q; generalize o.clip = c; generalize o.n = n; simp [OpRow.subcode, FieldKind.outOfRange, FieldKind.oddPair, FieldKind.usedAmiss, OpRow.usedBits]; revert q c n; decide
  · have h := sparse_back o.n o.s o.clip; simp only [tag_join, h.1, h.2.1, h.2.2]

theorem epiCfg (o : RA) : Statement (.epiCfg o) := fun hw e he => by
  cases he
  exact encR_reads (by decide) (by rw [slotX hw]; rfl)
    (by simp [OpRow.subcode, FieldKind.outOfRange, FieldKind.oddPair, FieldKind.usedAmiss, OpRow.usedBits])
    (rfl)

theorem epiPop (o : RA) : Statement (.epiPop o) := fun hw e he => by
  cases he
  exact encR_reads (by decide) (by rw [slotX hw]; rfl)
    (by simp [OpRow.subcode, FieldKind.outOfRange, FieldKind.oddPair, FieldKind.usedAmiss, OpRow.usedBits])
    (rfl)

theorem epiSt (o : RD) : Statement (.epiSt o) := fun hw e he => by
  cases he
  exact encR_reads (by decide) (by rw [slotX hw]; rfl)
    (by simp [OpRow.subcode, FieldKind.outOfRange, FieldKind.oddPair, FieldKind.usedAmiss, OpRow.usedBits])
    (rfl)

theorem calRd (o : RR) : Statement (.calRd o) := fun hw e he => by
  cases he
  exact encR_reads (by decide) (by rw [slotX hw]; rfl)
    (by simp [OpRow.subcode, FieldKind.outOfRange, FieldKind.oddPair, FieldKind.usedAmiss, OpRow.usedBits])
    (rfl)

theorem calWr (o : AB) : Statement (.calWr o) := fun hw e he => by
  cases he
  exact encR_reads (by decide) (by rw [slotX hw]; rfl)
    (by simp [OpRow.subcode, FieldKind.outOfRange, FieldKind.oddPair, FieldKind.usedAmiss, OpRow.usedBits])
    (rfl)

theorem ctabLd (o : CtabOps) : Statement (.ctabLd o) := fun hw e he => by
  cases he
  refine encR_reads (by decide) (by rw [slotE hw]; rfl) ?_ ?_
  · generalize o.ctab = q; simp [OpRow.subcode, FieldKind.outOfRange, FieldKind.oddPair, FieldKind.usedAmiss, OpRow.usedBits]; revert q; decide
  · simp only [ctab_back]

theorem ownGive (o : ImmOps) : Statement (.ownGive o) := fun hw e he => by
  cases he
  exact encI_reads (by decide) (by rw [slotE hw]; rfl)
    (by simp [OpRow.subcode, FieldKind.outOfRange, FieldKind.oddPair, FieldKind.usedAmiss, OpRow.usedBits])
    (by simp [imm_immFields])

theorem ownTake (o : ImmOps) : Statement (.ownTake o) := fun hw e he => by
  cases he
  exact encI_reads (by decide) (by rw [slotE hw]; rfl)
    (by simp [OpRow.subcode, FieldKind.outOfRange, FieldKind.oddPair, FieldKind.usedAmiss, OpRow.usedBits])
    (by simp [imm_immFields])

theorem txbInit (o : AB) : Statement (.txbInit o) := fun hw e he => by
  cases he
  exact encR_reads (by decide) (by rw [slotE hw]; rfl)
    (by simp [OpRow.subcode, FieldKind.outOfRange, FieldKind.oddPair, FieldKind.usedAmiss, OpRow.usedBits])
    (rfl)

theorem txbExpect (o : AB) : Statement (.txbExpect o) := fun hw e he => by
  cases he
  exact encR_reads (by decide) (by rw [slotE hw]; rfl)
    (by simp [OpRow.subcode, FieldKind.outOfRange, FieldKind.oddPair, FieldKind.usedAmiss, OpRow.usedBits])
    (rfl)

theorem txbArrive (o : RA) : Statement (.txbArrive o) := fun hw e he => by
  cases he
  exact encR_reads (by decide) (by rw [slotE hw]; rfl)
    (by simp [OpRow.subcode, FieldKind.outOfRange, FieldKind.oddPair, FieldKind.usedAmiss, OpRow.usedBits])
    (by simp)

theorem txbArriveRemote (o : RA) : Statement (.txbArriveRemote o) := fun hw e he => by
  cases he
  exact encR_reads (by decide) (by rw [slotE hw]; rfl)
    (by simp [OpRow.subcode, FieldKind.outOfRange, FieldKind.oddPair, FieldKind.usedAmiss, OpRow.usedBits])
    (by simp)

theorem txbWait (o : TxbWaitOps) : Statement (.txbWait o) := fun hw e he => by
  cases he
  refine encR_reads (by decide) (by rw [slotE hw]; rfl) ?_ ?_
  · generalize o.q = lm; simp [OpRow.subcode, FieldKind.outOfRange, FieldKind.oddPair, FieldKind.usedAmiss, OpRow.usedBits, pair_lt, pair_even]; revert lm; decide
  · simp only [lm_only, pair_back]

theorem afaddb (o : KAddbOps) : Statement (.afaddb o) := fun hw e he => by
  cases he
  simp only [Instr.wf, Bool.and_eq_true] at hw
  refine encR_reads (by decide) (by rw [slotE hw.1]; rfl) ?_ ?_
  · have hk := hw.2; revert hk; generalize o.pk = p; generalize o.ty = t; generalize o.scope = q; simp [OpRow.subcode, FieldKind.outOfRange, FieldKind.oddPair, FieldKind.usedAmiss, OpRow.usedBits]; revert p t q; decide
  · have h := addb_back o.pk o.ty o.scope; simp only [h.1, h.2.1, h.2.2]

theorem acas (o : KCasOps) : Statement (.acas o) := fun hw e he => by
  cases he
  simp only [Instr.wf, Bool.and_eq_true] at hw
  refine encR_reads (by decide) (by rw [slotE hw.1]; rfl) ?_ ?_
  · have hk := hw.2; revert hk; generalize o.ty = t; generalize o.scope = q; simp [OpRow.subcode, FieldKind.outOfRange, FieldKind.oddPair, FieldKind.usedAmiss, OpRow.usedBits]; revert t q; decide
  · have h := varT_back 0 o.ty o.scope; simp only [h.1, h.2.1]

theorem redAdd (o : RedAddOps) : Statement (.redAdd o) := fun hw e he => by
  cases he
  simp only [Instr.wf, Bool.and_eq_true] at hw
  refine encR_reads (by decide) (by rw [slotE hw.1]; rfl) ?_ ?_
  · have hk := hw.2; revert hk; generalize o.ty = t; generalize o.scope = q; simp [OpRow.subcode, FieldKind.outOfRange, FieldKind.oddPair, FieldKind.usedAmiss, OpRow.usedBits]; revert t q; decide
  · have h := varT_back 0 o.ty o.scope; simp only [h.1, h.2.1]

theorem redComb (o : RedCombOps) : Statement (.redComb o) := fun hw e he => by
  cases he
  simp only [Instr.wf, Bool.and_eq_true] at hw
  refine encR_reads (by decide) (by rw [slotE hw.1]; rfl) ?_ ?_
  · have hk := hw.2; revert hk; generalize o.ty = t; generalize o.scope = q; simp [OpRow.subcode, FieldKind.outOfRange, FieldKind.oddPair, FieldKind.usedAmiss, OpRow.usedBits]; revert t q; decide
  · have h := varT_back 0 o.ty o.scope; simp only [h.1, h.2.1]

theorem collStart (o : RA) : Statement (.collStart o) := fun hw e he => by
  cases he
  exact encR_reads (by decide) (by rw [slotE hw]; rfl)
    (by simp [OpRow.subcode, FieldKind.outOfRange, FieldKind.oddPair, FieldKind.usedAmiss, OpRow.usedBits])
    (rfl)

theorem collSt (o : RR) : Statement (.collSt o) := fun hw e he => by
  cases he
  exact encR_reads (by decide) (by rw [slotE hw]; rfl)
    (by simp [OpRow.subcode, FieldKind.outOfRange, FieldKind.oddPair, FieldKind.usedAmiss, OpRow.usedBits])
    (rfl)

theorem blkShare (o : BlkShareOps) : Statement (.blkShare o) := fun hw e he => by
  cases he
  exact encR_reads (by decide) (by rw [slotE hw]; rfl)
    (by simp [OpRow.subcode, FieldKind.outOfRange, FieldKind.oddPair, FieldKind.usedAmiss, OpRow.usedBits])
    (rfl)

theorem pbarDur (hd : Hd) : Statement (.pbarDur hd) := fun hw e he => by
  cases he
  exact encR_reads (by decide) (by rw [slotE hw]; rfl)
    (by simp [OpRow.subcode, FieldKind.outOfRange, FieldKind.oddPair, FieldKind.usedAmiss, OpRow.usedBits])
    (by simp)

theorem pbarDurBarrier (o : RA) : Statement (.pbarDurBarrier o) := fun hw e he => by
  cases he
  exact encR_reads (by decide) (by rw [slotE hw]; rfl)
    (by simp [OpRow.subcode, FieldKind.outOfRange, FieldKind.oddPair, FieldKind.usedAmiss, OpRow.usedBits])
    (by simp)

theorem fence (o : FenceOps) : Statement (.fence o) := fun hw e he => by
  cases he
  simp only [Instr.wf, Bool.and_eq_true] at hw
  refine encR_reads (by decide) (by rw [slotY hw.1.1]; rfl) ?_ ?_
  · have h1 := hw.1.2; revert h1; have h2 := hw.2; revert h2; generalize o.scope = q; simp [OpRow.subcode, FieldKind.outOfRange, FieldKind.oddPair, FieldKind.usedAmiss, OpRow.usedBits]; revert q; decide
  · simp only [scope_back]

theorem crgnOpen (o : CrgnOps) : Statement (.crgnOpen o) := fun hw e he => by
  cases he
  exact encL_reads (by decide) (by rw [slotY hw]; rfl)
    (by simp [OpRow.subcode, FieldKind.outOfRange, FieldKind.oddPair, FieldKind.usedAmiss, OpRow.usedBits])
    (rfl)

theorem crgnClose (hd : Hd) : Statement (.crgnClose hd) := fun hw e he => by
  cases he
  exact encR_reads (by decide) (by rw [slotY hw]; rfl)
    (by simp [OpRow.subcode, FieldKind.outOfRange, FieldKind.oddPair, FieldKind.usedAmiss, OpRow.usedBits])
    (rfl)

theorem eret (hd : Hd) : Statement (.eret hd) := fun hw e he => by
  cases he
  exact encR_reads (by decide) (by rw [slotY hw]; rfl)
    (by simp [OpRow.subcode, FieldKind.outOfRange, FieldKind.oddPair, FieldKind.usedAmiss, OpRow.usedBits])
    (rfl)

theorem done (hd : Hd) : Statement (.done hd) := fun hw e he => by
  cases he
  exact encR_reads (by decide) (by rw [slotY hw]; rfl)
    (by simp [OpRow.subcode, FieldKind.outOfRange, FieldKind.oddPair, FieldKind.usedAmiss, OpRow.usedBits])
    (rfl)

theorem trap (o : ImmOps) : Statement (.trap o) := fun hw e he => by
  cases he
  exact encI_reads (by decide) (by rw [slotY hw]; rfl)
    (by simp [OpRow.subcode, FieldKind.outOfRange, FieldKind.oddPair, FieldKind.usedAmiss, OpRow.usedBits])
    (by simp [imm_immFields])

theorem testRd (o : TestRdOps) : Statement (.testRd o) := fun hw e he => by
  cases he
  refine encR_reads (by decide) (by rw [slotY hw]; rfl) ?_ ?_
  · generalize o.w = q; simp [OpRow.subcode, FieldKind.outOfRange, FieldKind.oddPair, FieldKind.usedAmiss, OpRow.usedBits]; revert q; decide
  · simp only [low2]

theorem mhead (o : MHeadOps) : Statement (.mhead o) := fun hw e he => by
  cases he
  refine encR_reads (by decide) (by rw [slotY hw]; rfl) ?_ ?_
  · generalize o.w = q; simp [OpRow.subcode, FieldKind.outOfRange, FieldKind.oddPair, FieldKind.usedAmiss, OpRow.usedBits]; revert q; decide
  · simp only [low3]

theorem nop (hd : Hd) : Statement (.nop hd) := fun _ e he => by
  cases he
  simp only [Encoded.reads, encR, decodeSyllable, unpack_pack]
  rfl

/-! ## Events of the package -/

theorem calibrationComplete (offsets : Table (BitVec 16)) : Statement (.calibrationComplete offsets) := fun _ e he => by cases he
theorem fatalLoss (part : Lost) : Statement (.fatalLoss part) := fun _ e he => by cases he
theorem criticalTemperature (temp : Int) : Statement (.criticalTemperature temp) := fun _ e he => by cases he
theorem limitSample (m : Sample) : Statement (.limitSample m) := fun _ e he => by cases he
theorem limitHoldEnter (kid : Nat) : Statement (.limitHoldEnter kid) := fun _ e he => by cases he
theorem firmwareUpdate (img : Firmware) : Statement (.firmwareUpdate img) := fun _ e he => by cases he
theorem faultLogRead (clear : Bool) : Statement (.faultLogRead clear) := fun _ e he => by cases he
theorem setFailThresholds (n winNs : Nat) : Statement (.setFailThresholds n winNs) := fun _ e he => by cases he
theorem clusterRetest (cluster : Nat) : Statement (.clusterRetest cluster) := fun _ e he => by cases he
theorem unitEventCount (unit : UnitId) : Statement (.unitEventCount unit) := fun _ e he => by cases he
theorem queueEnable (q : Nat) : Statement (.queueEnable q) := fun _ e he => by cases he
theorem queueDisable (q : Nat) : Statement (.queueDisable q) := fun _ e he => by cases he
theorem queueResume (q : Nat) : Statement (.queueResume q) := fun _ e he => by cases he
theorem queueDoorbell (q t : Nat) : Statement (.queueDoorbell q t) := fun _ e he => by cases he
theorem queueAging (q : Nat) : Statement (.queueAging q) := fun _ e he => by cases he
theorem copyComplete (q : Nat) : Statement (.copyComplete q) := fun _ e he => by cases he
theorem waitvEvaluate (q : Nat) : Statement (.waitvEvaluate q) := fun _ e he => by cases he
theorem waitTimeout (q : Nat) : Statement (.waitTimeout q) := fun _ e he => by cases he
theorem kernelStart (kid : Nat) : Statement (.kernelStart kid) := fun _ e he => by cases he
theorem mailboxWrite (kid role n : Nat) (value : Word64) : Statement (.mailboxWrite kid role n value) := fun _ e he => by cases he
theorem holdRelease (kid : Nat) : Statement (.holdRelease kid) := fun _ e he => by cases he
theorem preemptLatch (kid : Nat) : Statement (.preemptLatch kid) := fun _ e he => by cases he
theorem preemptPoint (kid : Nat) : Statement (.preemptPoint kid) := fun _ e he => by cases he
theorem drainComplete (kid : Nat) : Statement (.drainComplete kid) := fun _ e he => by cases he
theorem resumeCycle (kid : Nat) : Statement (.resumeCycle kid) := fun _ e he => by cases he
theorem kernelEnd (kid : Nat) : Statement (.kernelEnd kid) := fun _ e he => by cases he
theorem kernelFault (kid : Nat) : Statement (.kernelFault kid) := fun _ e he => by cases he
theorem relaunch (kid : Nat) : Statement (.relaunch kid) := fun _ e he => by cases he
theorem timeLimit (kid : Nat) : Statement (.timeLimit kid) := fun _ e he => by cases he
theorem laneSubstitution (shaft : Nat) : Statement (.laneSubstitution shaft) := fun _ e he => by cases he
theorem testSliceStart (cluster : Nat) : Statement (.testSliceStart cluster) := fun _ e he => by cases he
theorem testSliceEnd (cluster : Nat) : Statement (.testSliceEnd cluster) := fun _ e he => by cases he
theorem regionUnwind (kid : Nat) : Statement (.regionUnwind kid) := fun _ e he => by cases he
theorem engineStart (core : Nat) : Statement (.engineStart core) := fun _ e he => by cases he
theorem engineComplete (core : Nat) : Statement (.engineComplete core) := fun _ e he => by cases he
theorem resultLand (core : Nat) : Statement (.resultLand core) := fun _ e he => by cases he
theorem keystoneReturn (core : Nat) : Statement (.keystoneReturn core) := fun _ e he => by cases he
theorem transformResult (core : Nat) : Statement (.transformResult core) := fun _ e he => by cases he
theorem oloadComplete (core : Nat) : Statement (.oloadComplete core) := fun _ e he => by cases he
theorem wloadComplete (core : Nat) : Statement (.wloadComplete core) := fun _ e he => by cases he
theorem mploadWrite (core : Nat) : Statement (.mploadWrite core) := fun _ e he => by cases he
theorem mcallCommit (core : Nat) : Statement (.mcallCommit core) := fun _ e he => by cases he
theorem clipReexecuteDone (core : Nat) : Statement (.clipReexecuteDone core) := fun _ e he => by cases he
theorem epiPopComplete (core : Nat) : Statement (.epiPopComplete core) := fun _ e he => by cases he
theorem ctabLdComplete (core : Nat) : Statement (.ctabLdComplete core) := fun _ e he => by cases he
theorem outboundSend (core : Nat) : Statement (.outboundSend core) := fun _ e he => by cases he
theorem wellSectorAccept (core : Nat) : Statement (.wellSectorAccept core) := fun _ e he => by cases he
theorem wellSectorDurable (i : Nat) : Statement (.wellSectorDurable i) := fun _ e he => by cases he
theorem epochDurable (core : Nat) : Statement (.epochDurable core) := fun _ e he => by cases he
theorem serviceWellWrite (addr : Nat) (data : List Byte) : Statement (.serviceWellWrite addr data) := fun _ e he => by cases he
theorem wellReadSectorLand (i : Nat) : Statement (.wellReadSectorLand i) := fun _ e he => by cases he
theorem barrierTimeout (core addr : Nat) : Statement (.barrierTimeout core addr) := fun _ e he => by cases he
theorem portSignalDetect (port : Nat) : Statement (.portSignalDetect port) := fun _ e he => by cases he
theorem trainingComplete (port : Nat) (lanes : BitVec 8) : Statement (.trainingComplete port lanes) := fun _ e he => by cases he
theorem trainingFail (port : Nat) : Statement (.trainingFail port) := fun _ e he => by cases he
theorem trainingRetry (port : Nat) : Statement (.trainingRetry port) := fun _ e he => by cases he
theorem laneFail (port lane : Nat) : Statement (.laneFail port lane) := fun _ e he => by cases he
theorem alignmentLossTimeout (port : Nat) : Statement (.alignmentLossTimeout port) := fun _ e he => by cases he
theorem flitReceive (port : Nat) (bs : List Byte) : Statement (.flitReceive port bs) := fun _ e he => by cases he
theorem flitReplay (port : Nat) (fseq : BitVec 16) : Statement (.flitReplay port fseq) := fun _ e he => by cases he
theorem ident (port : Nat) (f : Flit) : Statement (.ident port f) := fun _ e he => by cases he
theorem time (port : Nat) (p : PtpSync) : Statement (.time port p) := fun _ e he => by cases he
theorem data (port : Nat) (f : Flit) : Statement (.data port f) := fun _ e he => by cases he
theorem arrive (f : Flit) : Statement (.arrive f) := fun _ e he => by cases he
theorem store (f : Flit) : Statement (.store f) := fun _ e he => by cases he
theorem mbox (f : Flit) : Statement (.mbox f) := fun _ e he => by cases he
theorem ack (f : Flit) : Statement (.ack f) := fun _ e he => by cases he
theorem abort (f : Flit) : Statement (.abort f) := fun _ e he => by cases he
theorem notice (f : Flit) : Statement (.notice f) := fun _ e he => by cases he
theorem ackTimeout (node : Nat) : Statement (.ackTimeout node) := fun _ e he => by cases he
theorem portRetrain (port : Nat) : Statement (.portRetrain port) := fun _ e he => by cases he
theorem fetchBundle (core : Nat) : Statement (.fetchBundle core) := fun _ e he => by cases he
theorem controlDoorbell (index : Nat) : Statement (.controlDoorbell index) := fun _ e he => by cases he
theorem periodBoundary (kid : Nat) : Statement (.periodBoundary kid) := fun _ e he => by cases he
theorem serviceCisternWrite (addr : Nat) (data : List Byte) : Statement (.serviceCisternWrite addr data) := fun _ e he => by cases he
theorem ptpManagementMessage (p : PtpSync) : Statement (.ptpManagementMessage p) := fun _ e he => by cases he
theorem supplyGood : Statement .supplyGood := fun _ e he => by cases he
theorem firmwareVerified : Statement .firmwareVerified := fun _ e he => by cases he
theorem preserve : Statement .preserve := fun _ e he => by cases he
theorem supplyLoss : Statement .supplyLoss := fun _ e he => by cases he
theorem stretchApply : Statement .stretchApply := fun _ e he => by cases he
theorem telemetrySample : Statement .telemetrySample := fun _ e he => by cases he
theorem dispatch : Statement .dispatch := fun _ e he => by cases he
theorem receiptSigned : Statement .receiptSigned := fun _ e he => by cases he
theorem keystonePerform : Statement .keystonePerform := fun _ e he => by cases he
theorem holdover : Statement .holdover := fun _ e he => by cases he
theorem unsync : Statement .unsync := fun _ e he => by cases he
theorem domainApply : Statement .domainApply := fun _ e he => by cases he
theorem ctxNew : Statement .ctxNew := fun _ e he => by cases he
theorem ctxSet : Statement .ctxSet := fun _ e he => by cases he
theorem ctxKey : Statement .ctxKey := fun _ e he => by cases he
theorem ctxImg : Statement .ctxImg := fun _ e he => by cases he
theorem ctxYield : Statement .ctxYield := fun _ e he => by cases he
theorem ctxResume : Statement .ctxResume := fun _ e he => by cases he
theorem ctxSeal : Statement .ctxSeal := fun _ e he => by cases he
theorem ctxUnseal : Statement .ctxUnseal := fun _ e he => by cases he
theorem ctxClear : Statement .ctxClear := fun _ e he => by cases he
theorem ctxKill : Statement .ctxKill := fun _ e he => by cases he
theorem ctxRead : Statement .ctxRead := fun _ e he => by cases he
theorem contextSwitched : Statement .contextSwitched := fun _ e he => by cases he
theorem launch : Statement .launch := fun _ e he => by cases he
theorem copy : Statement .copy := fun _ e he => by cases he
theorem waitv : Statement .waitv := fun _ e he => by cases he
theorem signalStore : Statement .signalStore := fun _ e he => by cases he
theorem signalAdd : Statement .signalAdd := fun _ e he => by cases he
theorem signalMailbox : Statement .signalMailbox := fun _ e he => by cases he
theorem receipt : Statement .receipt := fun _ e he => by cases he
theorem coll : Statement .coll := fun _ e he => by cases he
theorem preemptSuspend : Statement .preemptSuspend := fun _ e he => by cases he
theorem preemptRelease : Statement .preemptRelease := fun _ e he => by cases he
theorem dataApply : Statement .dataApply := fun _ e he => by cases he
theorem flagApply : Statement .flagApply := fun _ e he => by cases he
theorem collEngineStart : Statement .collEngineStart := fun _ e he => by cases he
theorem collRoundLocalDone : Statement .collRoundLocalDone := fun _ e he => by cases he

end Sys2Proof.Laws.Encodes
end

