-- ==== Sys2Proof/Laws/State.lean ====
section
/-!
SUPPORT. What each named update of the state leaves and sets, field by field.
-/
namespace Sys2Proof.Machine

/-! ## Updates of the module -/

@[simp] theorem setCore_cyc (s : State) (i : Nat) (c : Core) : (s.setCore i c).cyc = s.cyc := rfl
@[simp] theorem setCore_phase (s : State) (i : Nat) (c : Core) : (s.setCore i c).phase = s.phase := rfl
@[simp] theorem setCore_agenda (s : State) (i : Nat) (c : Core) : (s.setCore i c).agenda = s.agenda := rfl
@[simp] theorem setCore_inputs (s : State) (i : Nat) (c : Core) : (s.setCore i c).inputs = s.inputs := rfl
@[simp] theorem setCore_replies (s : State) (i : Nat) (c : Core) : (s.setCore i c).replies = s.replies := rfl
@[simp] theorem setCore_act (s : State) (i : Nat) (c : Core) : (s.setCore i c).act = s.act := rfl
@[simp] theorem setCore_free (s : State) (i : Nat) (c : Core) : (s.setCore i c).free = s.free := rfl
@[simp] theorem setCore_nextKid (s : State) (i : Nat) (c : Core) : (s.setCore i c).nextKid = s.nextKid := rfl
@[simp] theorem setCore_eager (s : State) (i : Nat) (c : Core) : (s.setCore i c).eager = s.eager := rfl
@[simp] theorem setCore_mgmt (s : State) (i : Nat) (c : Core) : (s.setCore i c).mgmt = s.mgmt := rfl
@[simp] theorem setCore_cp (s : State) (i : Nat) (c : Core) : (s.setCore i c).cp = s.cp := rfl
@[simp] theorem setCore_mem (s : State) (i : Nat) (c : Core) : (s.setCore i c).mem = s.mem := rfl
@[simp] theorem setCore_ks (s : State) (i : Nat) (c : Core) : (s.setCore i c).ks = s.ks := rfl
@[simp] theorem setCore_link (s : State) (i : Nat) (c : Core) : (s.setCore i c).link = s.link := rfl
@[simp] theorem setCore_streams (s : State) (i : Nat) (c : Core) : (s.setCore i c).streams = s.streams := rfl
@[simp] theorem setCore_kernels (s : State) (i : Nat) (c : Core) : (s.setCore i c).kernels = s.kernels := rfl
@[simp] theorem setCore_cores (s : State) (i : Nat) (c : Core) : (s.setCore i c).cores = tset s.cores i c := rfl

@[simp] theorem setMe_cyc (s : State) (c : Core) : (s.setMe c).cyc = s.cyc := rfl
@[simp] theorem setMe_phase (s : State) (c : Core) : (s.setMe c).phase = s.phase := rfl
@[simp] theorem setMe_agenda (s : State) (c : Core) : (s.setMe c).agenda = s.agenda := rfl
@[simp] theorem setMe_inputs (s : State) (c : Core) : (s.setMe c).inputs = s.inputs := rfl
@[simp] theorem setMe_replies (s : State) (c : Core) : (s.setMe c).replies = s.replies := rfl
@[simp] theorem setMe_act (s : State) (c : Core) : (s.setMe c).act = s.act := rfl
@[simp] theorem setMe_free (s : State) (c : Core) : (s.setMe c).free = s.free := rfl
@[simp] theorem setMe_nextKid (s : State) (c : Core) : (s.setMe c).nextKid = s.nextKid := rfl
@[simp] theorem setMe_eager (s : State) (c : Core) : (s.setMe c).eager = s.eager := rfl
@[simp] theorem setMe_mgmt (s : State) (c : Core) : (s.setMe c).mgmt = s.mgmt := rfl
@[simp] theorem setMe_cp (s : State) (c : Core) : (s.setMe c).cp = s.cp := rfl
@[simp] theorem setMe_mem (s : State) (c : Core) : (s.setMe c).mem = s.mem := rfl
@[simp] theorem setMe_ks (s : State) (c : Core) : (s.setMe c).ks = s.ks := rfl
@[simp] theorem setMe_link (s : State) (c : Core) : (s.setMe c).link = s.link := rfl
@[simp] theorem setMe_streams (s : State) (c : Core) : (s.setMe c).streams = s.streams := rfl
@[simp] theorem setMe_kernels (s : State) (c : Core) : (s.setMe c).kernels = s.kernels := rfl
@[simp] theorem setMe_cores (s : State) (c : Core) : (s.setMe c).cores = tset s.cores s.act c := rfl

@[simp] theorem setKernel_cyc (s : State) (i : Nat) (k : Kernel) : (s.setKernel i k).cyc = s.cyc := rfl
@[simp] theorem setKernel_phase (s : State) (i : Nat) (k : Kernel) : (s.setKernel i k).phase = s.phase := rfl
@[simp] theorem setKernel_agenda (s : State) (i : Nat) (k : Kernel) : (s.setKernel i k).agenda = s.agenda := rfl
@[simp] theorem setKernel_inputs (s : State) (i : Nat) (k : Kernel) : (s.setKernel i k).inputs = s.inputs := rfl
@[simp] theorem setKernel_replies (s : State) (i : Nat) (k : Kernel) : (s.setKernel i k).replies = s.replies := rfl
@[simp] theorem setKernel_act (s : State) (i : Nat) (k : Kernel) : (s.setKernel i k).act = s.act := rfl
@[simp] theorem setKernel_free (s : State) (i : Nat) (k : Kernel) : (s.setKernel i k).free = s.free := rfl
@[simp] theorem setKernel_nextKid (s : State) (i : Nat) (k : Kernel) : (s.setKernel i k).nextKid = s.nextKid := rfl
@[simp] theorem setKernel_eager (s : State) (i : Nat) (k : Kernel) : (s.setKernel i k).eager = s.eager := rfl
@[simp] theorem setKernel_mgmt (s : State) (i : Nat) (k : Kernel) : (s.setKernel i k).mgmt = s.mgmt := rfl
@[simp] theorem setKernel_cp (s : State) (i : Nat) (k : Kernel) : (s.setKernel i k).cp = s.cp := rfl
@[simp] theorem setKernel_mem (s : State) (i : Nat) (k : Kernel) : (s.setKernel i k).mem = s.mem := rfl
@[simp] theorem setKernel_ks (s : State) (i : Nat) (k : Kernel) : (s.setKernel i k).ks = s.ks := rfl
@[simp] theorem setKernel_link (s : State) (i : Nat) (k : Kernel) : (s.setKernel i k).link = s.link := rfl
@[simp] theorem setKernel_streams (s : State) (i : Nat) (k : Kernel) : (s.setKernel i k).streams = s.streams := rfl
@[simp] theorem setKernel_kernels (s : State) (i : Nat) (k : Kernel) : (s.setKernel i k).kernels = tset s.kernels i k := rfl
@[simp] theorem setKernel_cores (s : State) (i : Nat) (k : Kernel) : (s.setKernel i k).cores = s.cores := rfl

@[simp] theorem takeFree_cyc (s : State)  : (s.takeFree.2).cyc = s.cyc := rfl
@[simp] theorem takeFree_phase (s : State)  : (s.takeFree.2).phase = s.phase := rfl
@[simp] theorem takeFree_agenda (s : State)  : (s.takeFree.2).agenda = s.agenda := rfl
@[simp] theorem takeFree_inputs (s : State)  : (s.takeFree.2).inputs = s.inputs := rfl
@[simp] theorem takeFree_replies (s : State)  : (s.takeFree.2).replies = s.replies := rfl
@[simp] theorem takeFree_act (s : State)  : (s.takeFree.2).act = s.act := rfl
@[simp] theorem takeFree_free (s : State)  : (s.takeFree.2).free = s.free + 1 := rfl
@[simp] theorem takeFree_nextKid (s : State)  : (s.takeFree.2).nextKid = s.nextKid := rfl
@[simp] theorem takeFree_eager (s : State)  : (s.takeFree.2).eager = s.eager := rfl
@[simp] theorem takeFree_mgmt (s : State)  : (s.takeFree.2).mgmt = s.mgmt := rfl
@[simp] theorem takeFree_cp (s : State)  : (s.takeFree.2).cp = s.cp := rfl
@[simp] theorem takeFree_mem (s : State)  : (s.takeFree.2).mem = s.mem := rfl
@[simp] theorem takeFree_ks (s : State)  : (s.takeFree.2).ks = s.ks := rfl
@[simp] theorem takeFree_link (s : State)  : (s.takeFree.2).link = s.link := rfl
@[simp] theorem takeFree_streams (s : State)  : (s.takeFree.2).streams = s.streams := rfl
@[simp] theorem takeFree_kernels (s : State)  : (s.takeFree.2).kernels = s.kernels := rfl
@[simp] theorem takeFree_cores (s : State)  : (s.takeFree.2).cores = s.cores := rfl

/-! ## Updates of a core -/

@[simp] theorem stage_kid (s : State) (c : Core) (h : Hd) (l : Nat) (w : RegWrite) : (stage s c h l w).kid = c.kid := rfl
@[simp] theorem stage_role (s : State) (c : Core) (h : Hd) (l : Nat) (w : RegWrite) : (stage s c h l w).role = c.role := rfl
@[simp] theorem stage_attempt (s : State) (c : Core) (h : Hd) (l : Nat) (w : RegWrite) : (stage s c h l w).attempt = c.attempt := rfl
@[simp] theorem stage_mode (s : State) (c : Core) (h : Hd) (l : Nat) (w : RegWrite) : (stage s c h l w).mode = c.mode := rfl
@[simp] theorem stage_done (s : State) (c : Core) (h : Hd) (l : Nat) (w : RegWrite) : (stage s c h l w).done = c.done := rfl
@[simp] theorem stage_stubEnd (s : State) (c : Core) (h : Hd) (l : Nat) (w : RegWrite) : (stage s c h l w).stubEnd = c.stubEnd := rfl
@[simp] theorem stage_pc (s : State) (c : Core) (h : Hd) (l : Nat) (w : RegWrite) : (stage s c h l w).pc = c.pc := rfl
@[simp] theorem stage_nextAt (s : State) (c : Core) (h : Hd) (l : Nat) (w : RegWrite) : (stage s c h l w).nextAt = c.nextAt := rfl
@[simp] theorem stage_hNextAt (s : State) (c : Core) (h : Hd) (l : Nat) (w : RegWrite) : (stage s c h l w).hNextAt = c.hNextAt := rfl
@[simp] theorem stage_dly (s : State) (c : Core) (h : Hd) (l : Nat) (w : RegWrite) : (stage s c h l w).dly = c.dly := rfl
@[simp] theorem stage_br (s : State) (c : Core) (h : Hd) (l : Nat) (w : RegWrite) : (stage s c h l w).br = c.br := rfl
@[simp] theorem stage_brFrom (s : State) (c : Core) (h : Hd) (l : Nat) (w : RegWrite) : (stage s c h l w).brFrom = c.brFrom := rfl
@[simp] theorem stage_callAt (s : State) (c : Core) (h : Hd) (l : Nat) (w : RegWrite) : (stage s c h l w).callAt = c.callAt := rfl
@[simp] theorem stage_taskDly (s : State) (c : Core) (h : Hd) (l : Nat) (w : RegWrite) : (stage s c h l w).taskDly = c.taskDly := rfl
@[simp] theorem stage_taskCall (s : State) (c : Core) (h : Hd) (l : Nat) (w : RegWrite) : (stage s c h l w).taskCall = c.taskCall := rfl
@[simp] theorem stage_taskFrom (s : State) (c : Core) (h : Hd) (l : Nat) (w : RegWrite) : (stage s c h l w).taskFrom = c.taskFrom := rfl
@[simp] theorem stage_loops (s : State) (c : Core) (h : Hd) (l : Nat) (w : RegWrite) : (stage s c h l w).loops = c.loops := rfl
@[simp] theorem stage_cur (s : State) (c : Core) (h : Hd) (l : Nat) (w : RegWrite) : (stage s c h l w).cur = c.cur := rfl
@[simp] theorem stage_trapped (s : State) (c : Core) (h : Hd) (l : Nat) (w : RegWrite) : (stage s c h l w).trapped = c.trapped := rfl
@[simp] theorem stage_suppNow (s : State) (c : Core) (h : Hd) (l : Nat) (w : RegWrite) : (stage s c h l w).suppNow = c.suppNow := rfl
@[simp] theorem stage_eretWait (s : State) (c : Core) (h : Hd) (l : Nat) (w : RegWrite) : (stage s c h l w).eretWait = c.eretWait := rfl
@[simp] theorem stage_wait (s : State) (c : Core) (h : Hd) (l : Nat) (w : RegWrite) : (stage s c h l w).wait = c.wait := rfl
@[simp] theorem stage_g (s : State) (c : Core) (h : Hd) (l : Nat) (w : RegWrite) : (stage s c h l w).g = c.g := rfl
@[simp] theorem stage_p (s : State) (c : Core) (h : Hd) (l : Nat) (w : RegWrite) : (stage s c h l w).p = c.p := rfl
@[simp] theorem stage_v (s : State) (c : Core) (h : Hd) (l : Nat) (w : RegWrite) : (stage s c h l w).v = c.v := rfl
@[simp] theorem stage_m (s : State) (c : Core) (h : Hd) (l : Nat) (w : RegWrite) : (stage s c h l w).m = c.m := rfl
@[simp] theorem stage_x (s : State) (c : Core) (h : Hd) (l : Nat) (w : RegWrite) : (stage s c h l w).x = c.x := rfl
@[simp] theorem stage_f (s : State) (c : Core) (h : Hd) (l : Nat) (w : RegWrite) : (stage s c h l w).f = c.f := rfl
@[simp] theorem stage_c (s : State) (c : Core) (h : Hd) (l : Nat) (w : RegWrite) : (stage s c h l w).c = c.c := rfl
@[simp] theorem stage_pend (s : State) (c : Core) (h : Hd) (l : Nat) (w : RegWrite) : (stage s c h l w).pend = c.pend := rfl
@[simp] theorem stage_xres (s : State) (c : Core) (h : Hd) (l : Nat) (w : RegWrite) : (stage s c h l w).xres = c.xres := rfl
@[simp] theorem stage_bfmt (s : State) (c : Core) (h : Hd) (l : Nat) (w : RegWrite) : (stage s c h l w).bfmt = c.bfmt := rfl
@[simp] theorem stage_rmode (s : State) (c : Core) (h : Hd) (l : Nat) (w : RegWrite) : (stage s c h l w).rmode = c.rmode := rfl
@[simp] theorem stage_shsel (s : State) (c : Core) (h : Hd) (l : Nat) (w : RegWrite) : (stage s c h l w).shsel = c.shsel := rfl
@[simp] theorem stage_epicfg (s : State) (c : Core) (h : Hd) (l : Nat) (w : RegWrite) : (stage s c h l w).epicfg = c.epicfg := rfl
@[simp] theorem stage_mclip0 (s : State) (c : Core) (h : Hd) (l : Nat) (w : RegWrite) : (stage s c h l w).mclip0 = c.mclip0 := rfl
@[simp] theorem stage_mclip1 (s : State) (c : Core) (h : Hd) (l : Nat) (w : RegWrite) : (stage s c h l w).mclip1 = c.mclip1 := rfl
@[simp] theorem stage_mbox (s : State) (c : Core) (h : Hd) (l : Nat) (w : RegWrite) : (stage s c h l w).mbox = c.mbox := rfl
@[simp] theorem stage_trap (s : State) (c : Core) (h : Hd) (l : Nat) (w : RegWrite) : (stage s c h l w).trap = c.trap := rfl
@[simp] theorem stage_tvb (s : State) (c : Core) (h : Hd) (l : Nat) (w : RegWrite) : (stage s c h l w).tvb = c.tvb := rfl
@[simp] theorem stage_cbase (s : State) (c : Core) (h : Hd) (l : Nat) (w : RegWrite) : (stage s c h l w).cbase = c.cbase := rfl
@[simp] theorem stage_codeSize (s : State) (c : Core) (h : Hd) (l : Nat) (w : RegWrite) : (stage s c h l w).codeSize = c.codeSize := rfl
@[simp] theorem stage_priv (s : State) (c : Core) (h : Hd) (l : Nat) (w : RegWrite) : (stage s c h l w).priv = c.priv := rfl
@[simp] theorem stage_tiles (s : State) (c : Core) (h : Hd) (l : Nat) (w : RegWrite) : (stage s c h l w).tiles = c.tiles := rfl
@[simp] theorem stage_stores (s : State) (c : Core) (h : Hd) (l : Nat) (w : RegWrite) : (stage s c h l w).stores = c.stores := rfl
@[simp] theorem stage_engWrites (s : State) (c : Core) (h : Hd) (l : Nat) (w : RegWrite) : (stage s c h l w).engWrites = c.engWrites := rfl
@[simp] theorem stage_owns (s : State) (c : Core) (h : Hd) (l : Nat) (w : RegWrite) : (stage s c h l w).owns = c.owns := rfl
@[simp] theorem stage_dir (s : State) (c : Core) (h : Hd) (l : Nat) (w : RegWrite) : (stage s c h l w).dir = c.dir := rfl
@[simp] theorem stage_barUps (s : State) (c : Core) (h : Hd) (l : Nat) (w : RegWrite) : (stage s c h l w).barUps = c.barUps := rfl
@[simp] theorem stage_buf (s : State) (c : Core) (h : Hd) (l : Nat) (w : RegWrite) : (stage s c h l w).buf = c.buf := rfl
@[simp] theorem stage_runs (s : State) (c : Core) (h : Hd) (l : Nat) (w : RegWrite) : (stage s c h l w).runs = c.runs := rfl
@[simp] theorem stage_orders (s : State) (c : Core) (h : Hd) (l : Nat) (w : RegWrite) : (stage s c h l w).orders = c.orders := rfl
@[simp] theorem stage_ctab (s : State) (c : Core) (h : Hd) (l : Nat) (w : RegWrite) : (stage s c h l w).ctab = c.ctab := rfl
@[simp] theorem stage_acts (s : State) (c : Core) (h : Hd) (l : Nat) (w : RegWrite) : (stage s c h l w).acts = c.acts := rfl
@[simp] theorem stage_wts (s : State) (c : Core) (h : Hd) (l : Nat) (w : RegWrite) : (stage s c h l w).wts = c.wts := rfl
@[simp] theorem stage_store (s : State) (c : Core) (h : Hd) (l : Nat) (w : RegWrite) : (stage s c h l w).store = c.store := rfl
@[simp] theorem stage_oload (s : State) (c : Core) (h : Hd) (l : Nat) (w : RegWrite) : (stage s c h l w).oload = c.oload := rfl
@[simp] theorem stage_wload (s : State) (c : Core) (h : Hd) (l : Nat) (w : RegWrite) : (stage s c h l w).wload = c.wload := rfl
@[simp] theorem stage_mploads (s : State) (c : Core) (h : Hd) (l : Nat) (w : RegWrite) : (stage s c h l w).mploads = c.mploads := rfl
@[simp] theorem stage_mcall (s : State) (c : Core) (h : Hd) (l : Nat) (w : RegWrite) : (stage s c h l w).mcall = c.mcall := rfl
@[simp] theorem stage_pop (s : State) (c : Core) (h : Hd) (l : Nat) (w : RegWrite) : (stage s c h l w).pop = c.pop := rfl
@[simp] theorem stage_ring (s : State) (c : Core) (h : Hd) (l : Nat) (w : RegWrite) : (stage s c h l w).ring = c.ring := rfl
@[simp] theorem stage_head (s : State) (c : Core) (h : Hd) (l : Nat) (w : RegWrite) : (stage s c h l w).head = c.head := rfl
@[simp] theorem stage_tail (s : State) (c : Core) (h : Hd) (l : Nat) (w : RegWrite) : (stage s c h l w).tail = c.tail := rfl
@[simp] theorem stage_calib (s : State) (c : Core) (h : Hd) (l : Nat) (w : RegWrite) : (stage s c h l w).calib = c.calib := rfl
@[simp] theorem stage_colMap (s : State) (c : Core) (h : Hd) (l : Nat) (w : RegWrite) : (stage s c h l w).colMap = c.colMap := rfl
@[simp] theorem stage_counts (s : State) (c : Core) (h : Hd) (l : Nat) (w : RegWrite) : (stage s c h l w).counts = c.counts := rfl
@[simp] theorem stage_epoch (s : State) (c : Core) (h : Hd) (l : Nat) (w : RegWrite) : (stage s c h l w).epoch = c.epoch := rfl
@[simp] theorem stage_regions (s : State) (c : Core) (h : Hd) (l : Nat) (w : RegWrite) : (stage s c h l w).regions = c.regions := rfl
@[simp] theorem stage_upend (s : State) (c : Core) (h : Hd) (l : Nat) (w : RegWrite) : (stage s c h l w).upend = c.upend := rfl
@[simp] theorem stage_unw (s : State) (c : Core) (h : Hd) (l : Nat) (w : RegWrite) : (stage s c h l w).unw = c.unw := rfl
@[simp] theorem stage_ulevel (s : State) (c : Core) (h : Hd) (l : Nat) (w : RegWrite) : (stage s c h l w).ulevel = c.ulevel := rfl
@[simp] theorem stage_outNew (s : State) (c : Core) (h : Hd) (l : Nat) (w : RegWrite) : (stage s c h l w).outNew = c.outNew := rfl
@[simp] theorem stage_pbarNew (s : State) (c : Core) (h : Hd) (l : Nat) (w : RegWrite) : (stage s c h l w).pbarNew = c.pbarNew := rfl
@[simp] theorem stage_kNew (s : State) (c : Core) (h : Hd) (l : Nat) (w : RegWrite) : (stage s c h l w).kNew = c.kNew := rfl
@[simp] theorem stage_kfault (s : State) (c : Core) (h : Hd) (l : Nat) (w : RegWrite) : (stage s c h l w).kfault = c.kfault := rfl
@[simp] theorem stage_engTrap (s : State) (c : Core) (h : Hd) (l : Nat) (w : RegWrite) : (stage s c h l w).engTrap = c.engTrap := rfl
@[simp] theorem stage_ueHit (s : State) (c : Core) (h : Hd) (l : Nat) (w : RegWrite) : (stage s c h l w).ueHit = c.ueHit := rfl
@[simp] theorem stage_ue (s : State) (c : Core) (h : Hd) (l : Nat) (w : RegWrite) : (stage s c h l w).ue = c.ue := rfl
@[simp] theorem stage_glitch (s : State) (c : Core) (h : Hd) (l : Nat) (w : RegWrite) : (stage s c h l w).glitch = c.glitch := rfl
@[simp] theorem stage_lossy (s : State) (c : Core) (h : Hd) (l : Nat) (w : RegWrite) : (stage s c h l w).lossy = c.lossy := rfl
@[simp] theorem stage_found (s : State) (c : Core) (h : Hd) (l : Nat) (w : RegWrite) : (stage s c h l w).found = c.found := rfl

@[simp] theorem stageShadowed_kid (s : State) (c : Core) (h : Hd) (l u : Nat) (w : RegWrite) (x : Option Word64) : (stageShadowed s c h l u w x).kid = c.kid := rfl
@[simp] theorem stageShadowed_role (s : State) (c : Core) (h : Hd) (l u : Nat) (w : RegWrite) (x : Option Word64) : (stageShadowed s c h l u w x).role = c.role := rfl
@[simp] theorem stageShadowed_attempt (s : State) (c : Core) (h : Hd) (l u : Nat) (w : RegWrite) (x : Option Word64) : (stageShadowed s c h l u w x).attempt = c.attempt := rfl
@[simp] theorem stageShadowed_mode (s : State) (c : Core) (h : Hd) (l u : Nat) (w : RegWrite) (x : Option Word64) : (stageShadowed s c h l u w x).mode = c.mode := rfl
@[simp] theorem stageShadowed_done (s : State) (c : Core) (h : Hd) (l u : Nat) (w : RegWrite) (x : Option Word64) : (stageShadowed s c h l u w x).done = c.done := rfl
@[simp] theorem stageShadowed_stubEnd (s : State) (c : Core) (h : Hd) (l u : Nat) (w : RegWrite) (x : Option Word64) : (stageShadowed s c h l u w x).stubEnd = c.stubEnd := rfl
@[simp] theorem stageShadowed_pc (s : State) (c : Core) (h : Hd) (l u : Nat) (w : RegWrite) (x : Option Word64) : (stageShadowed s c h l u w x).pc = c.pc := rfl
@[simp] theorem stageShadowed_nextAt (s : State) (c : Core) (h : Hd) (l u : Nat) (w : RegWrite) (x : Option Word64) : (stageShadowed s c h l u w x).nextAt = c.nextAt := rfl
@[simp] theorem stageShadowed_hNextAt (s : State) (c : Core) (h : Hd) (l u : Nat) (w : RegWrite) (x : Option Word64) : (stageShadowed s c h l u w x).hNextAt = c.hNextAt := rfl
@[simp] theorem stageShadowed_dly (s : State) (c : Core) (h : Hd) (l u : Nat) (w : RegWrite) (x : Option Word64) : (stageShadowed s c h l u w x).dly = c.dly := rfl
@[simp] theorem stageShadowed_br (s : State) (c : Core) (h : Hd) (l u : Nat) (w : RegWrite) (x : Option Word64) : (stageShadowed s c h l u w x).br = c.br := rfl
@[simp] theorem stageShadowed_brFrom (s : State) (c : Core) (h : Hd) (l u : Nat) (w : RegWrite) (x : Option Word64) : (stageShadowed s c h l u w x).brFrom = c.brFrom := rfl
@[simp] theorem stageShadowed_callAt (s : State) (c : Core) (h : Hd) (l u : Nat) (w : RegWrite) (x : Option Word64) : (stageShadowed s c h l u w x).callAt = c.callAt := rfl
@[simp] theorem stageShadowed_taskDly (s : State) (c : Core) (h : Hd) (l u : Nat) (w : RegWrite) (x : Option Word64) : (stageShadowed s c h l u w x).taskDly = c.taskDly := rfl
@[simp] theorem stageShadowed_taskCall (s : State) (c : Core) (h : Hd) (l u : Nat) (w : RegWrite) (x : Option Word64) : (stageShadowed s c h l u w x).taskCall = c.taskCall := rfl
@[simp] theorem stageShadowed_taskFrom (s : State) (c : Core) (h : Hd) (l u : Nat) (w : RegWrite) (x : Option Word64) : (stageShadowed s c h l u w x).taskFrom = c.taskFrom := rfl
@[simp] theorem stageShadowed_loops (s : State) (c : Core) (h : Hd) (l u : Nat) (w : RegWrite) (x : Option Word64) : (stageShadowed s c h l u w x).loops = c.loops := rfl
@[simp] theorem stageShadowed_cur (s : State) (c : Core) (h : Hd) (l u : Nat) (w : RegWrite) (x : Option Word64) : (stageShadowed s c h l u w x).cur = c.cur := rfl
@[simp] theorem stageShadowed_trapped (s : State) (c : Core) (h : Hd) (l u : Nat) (w : RegWrite) (x : Option Word64) : (stageShadowed s c h l u w x).trapped = c.trapped := rfl
@[simp] theorem stageShadowed_suppNow (s : State) (c : Core) (h : Hd) (l u : Nat) (w : RegWrite) (x : Option Word64) : (stageShadowed s c h l u w x).suppNow = c.suppNow := rfl
@[simp] theorem stageShadowed_eretWait (s : State) (c : Core) (h : Hd) (l u : Nat) (w : RegWrite) (x : Option Word64) : (stageShadowed s c h l u w x).eretWait = c.eretWait := rfl
@[simp] theorem stageShadowed_wait (s : State) (c : Core) (h : Hd) (l u : Nat) (w : RegWrite) (x : Option Word64) : (stageShadowed s c h l u w x).wait = c.wait := rfl
@[simp] theorem stageShadowed_g (s : State) (c : Core) (h : Hd) (l u : Nat) (w : RegWrite) (x : Option Word64) : (stageShadowed s c h l u w x).g = c.g := rfl
@[simp] theorem stageShadowed_p (s : State) (c : Core) (h : Hd) (l u : Nat) (w : RegWrite) (x : Option Word64) : (stageShadowed s c h l u w x).p = c.p := rfl
@[simp] theorem stageShadowed_v (s : State) (c : Core) (h : Hd) (l u : Nat) (w : RegWrite) (x : Option Word64) : (stageShadowed s c h l u w x).v = c.v := rfl
@[simp] theorem stageShadowed_m (s : State) (c : Core) (h : Hd) (l u : Nat) (w : RegWrite) (x : Option Word64) : (stageShadowed s c h l u w x).m = c.m := rfl
@[simp] theorem stageShadowed_x (s : State) (c : Core) (h : Hd) (l u : Nat) (w : RegWrite) (x : Option Word64) : (stageShadowed s c h l u w x).x = c.x := rfl
@[simp] theorem stageShadowed_f (s : State) (c : Core) (h : Hd) (l u : Nat) (w : RegWrite) (x : Option Word64) : (stageShadowed s c h l u w x).f = c.f := rfl
@[simp] theorem stageShadowed_c (s : State) (c : Core) (h : Hd) (l u : Nat) (w : RegWrite) (x : Option Word64) : (stageShadowed s c h l u w x).c = c.c := rfl
@[simp] theorem stageShadowed_pend (s : State) (c : Core) (h : Hd) (l u : Nat) (w : RegWrite) (x : Option Word64) : (stageShadowed s c h l u w x).pend = c.pend := rfl
@[simp] theorem stageShadowed_xres (s : State) (c : Core) (h : Hd) (l u : Nat) (w : RegWrite) (x : Option Word64) : (stageShadowed s c h l u w x).xres = c.xres := rfl
@[simp] theorem stageShadowed_bfmt (s : State) (c : Core) (h : Hd) (l u : Nat) (w : RegWrite) (x : Option Word64) : (stageShadowed s c h l u w x).bfmt = c.bfmt := rfl
@[simp] theorem stageShadowed_rmode (s : State) (c : Core) (h : Hd) (l u : Nat) (w : RegWrite) (x : Option Word64) : (stageShadowed s c h l u w x).rmode = c.rmode := rfl
@[simp] theorem stageShadowed_shsel (s : State) (c : Core) (h : Hd) (l u : Nat) (w : RegWrite) (x : Option Word64) : (stageShadowed s c h l u w x).shsel = c.shsel := rfl
@[simp] theorem stageShadowed_epicfg (s : State) (c : Core) (h : Hd) (l u : Nat) (w : RegWrite) (x : Option Word64) : (stageShadowed s c h l u w x).epicfg = c.epicfg := rfl
@[simp] theorem stageShadowed_mclip0 (s : State) (c : Core) (h : Hd) (l u : Nat) (w : RegWrite) (x : Option Word64) : (stageShadowed s c h l u w x).mclip0 = c.mclip0 := rfl
@[simp] theorem stageShadowed_mclip1 (s : State) (c : Core) (h : Hd) (l u : Nat) (w : RegWrite) (x : Option Word64) : (stageShadowed s c h l u w x).mclip1 = c.mclip1 := rfl
@[simp] theorem stageShadowed_mbox (s : State) (c : Core) (h : Hd) (l u : Nat) (w : RegWrite) (x : Option Word64) : (stageShadowed s c h l u w x).mbox = c.mbox := rfl
@[simp] theorem stageShadowed_trap (s : State) (c : Core) (h : Hd) (l u : Nat) (w : RegWrite) (x : Option Word64) : (stageShadowed s c h l u w x).trap = c.trap := rfl
@[simp] theorem stageShadowed_tvb (s : State) (c : Core) (h : Hd) (l u : Nat) (w : RegWrite) (x : Option Word64) : (stageShadowed s c h l u w x).tvb = c.tvb := rfl
@[simp] theorem stageShadowed_cbase (s : State) (c : Core) (h : Hd) (l u : Nat) (w : RegWrite) (x : Option Word64) : (stageShadowed s c h l u w x).cbase = c.cbase := rfl
@[simp] theorem stageShadowed_codeSize (s : State) (c : Core) (h : Hd) (l u : Nat) (w : RegWrite) (x : Option Word64) : (stageShadowed s c h l u w x).codeSize = c.codeSize := rfl
@[simp] theorem stageShadowed_priv (s : State) (c : Core) (h : Hd) (l u : Nat) (w : RegWrite) (x : Option Word64) : (stageShadowed s c h l u w x).priv = c.priv := rfl
@[simp] theorem stageShadowed_tiles (s : State) (c : Core) (h : Hd) (l u : Nat) (w : RegWrite) (x : Option Word64) : (stageShadowed s c h l u w x).tiles = c.tiles := rfl
@[simp] theorem stageShadowed_stores (s : State) (c : Core) (h : Hd) (l u : Nat) (w : RegWrite) (x : Option Word64) : (stageShadowed s c h l u w x).stores = c.stores := rfl
@[simp] theorem stageShadowed_engWrites (s : State) (c : Core) (h : Hd) (l u : Nat) (w : RegWrite) (x : Option Word64) : (stageShadowed s c h l u w x).engWrites = c.engWrites := rfl
@[simp] theorem stageShadowed_owns (s : State) (c : Core) (h : Hd) (l u : Nat) (w : RegWrite) (x : Option Word64) : (stageShadowed s c h l u w x).owns = c.owns := rfl
@[simp] theorem stageShadowed_dir (s : State) (c : Core) (h : Hd) (l u : Nat) (w : RegWrite) (x : Option Word64) : (stageShadowed s c h l u w x).dir = c.dir := rfl
@[simp] theorem stageShadowed_barUps (s : State) (c : Core) (h : Hd) (l u : Nat) (w : RegWrite) (x : Option Word64) : (stageShadowed s c h l u w x).barUps = c.barUps := rfl
@[simp] theorem stageShadowed_buf (s : State) (c : Core) (h : Hd) (l u : Nat) (w : RegWrite) (x : Option Word64) : (stageShadowed s c h l u w x).buf = c.buf := rfl
@[simp] theorem stageShadowed_runs (s : State) (c : Core) (h : Hd) (l u : Nat) (w : RegWrite) (x : Option Word64) : (stageShadowed s c h l u w x).runs = c.runs := rfl
@[simp] theorem stageShadowed_orders (s : State) (c : Core) (h : Hd) (l u : Nat) (w : RegWrite) (x : Option Word64) : (stageShadowed s c h l u w x).orders = c.orders := rfl
@[simp] theorem stageShadowed_ctab (s : State) (c : Core) (h : Hd) (l u : Nat) (w : RegWrite) (x : Option Word64) : (stageShadowed s c h l u w x).ctab = c.ctab := rfl
@[simp] theorem stageShadowed_acts (s : State) (c : Core) (h : Hd) (l u : Nat) (w : RegWrite) (x : Option Word64) : (stageShadowed s c h l u w x).acts = c.acts := rfl
@[simp] theorem stageShadowed_wts (s : State) (c : Core) (h : Hd) (l u : Nat) (w : RegWrite) (x : Option Word64) : (stageShadowed s c h l u w x).wts = c.wts := rfl
@[simp] theorem stageShadowed_store (s : State) (c : Core) (h : Hd) (l u : Nat) (w : RegWrite) (x : Option Word64) : (stageShadowed s c h l u w x).store = c.store := rfl
@[simp] theorem stageShadowed_oload (s : State) (c : Core) (h : Hd) (l u : Nat) (w : RegWrite) (x : Option Word64) : (stageShadowed s c h l u w x).oload = c.oload := rfl
@[simp] theorem stageShadowed_wload (s : State) (c : Core) (h : Hd) (l u : Nat) (w : RegWrite) (x : Option Word64) : (stageShadowed s c h l u w x).wload = c.wload := rfl
@[simp] theorem stageShadowed_mploads (s : State) (c : Core) (h : Hd) (l u : Nat) (w : RegWrite) (x : Option Word64) : (stageShadowed s c h l u w x).mploads = c.mploads := rfl
@[simp] theorem stageShadowed_mcall (s : State) (c : Core) (h : Hd) (l u : Nat) (w : RegWrite) (x : Option Word64) : (stageShadowed s c h l u w x).mcall = c.mcall := rfl
@[simp] theorem stageShadowed_pop (s : State) (c : Core) (h : Hd) (l u : Nat) (w : RegWrite) (x : Option Word64) : (stageShadowed s c h l u w x).pop = c.pop := rfl
@[simp] theorem stageShadowed_ring (s : State) (c : Core) (h : Hd) (l u : Nat) (w : RegWrite) (x : Option Word64) : (stageShadowed s c h l u w x).ring = c.ring := rfl
@[simp] theorem stageShadowed_head (s : State) (c : Core) (h : Hd) (l u : Nat) (w : RegWrite) (x : Option Word64) : (stageShadowed s c h l u w x).head = c.head := rfl
@[simp] theorem stageShadowed_tail (s : State) (c : Core) (h : Hd) (l u : Nat) (w : RegWrite) (x : Option Word64) : (stageShadowed s c h l u w x).tail = c.tail := rfl
@[simp] theorem stageShadowed_calib (s : State) (c : Core) (h : Hd) (l u : Nat) (w : RegWrite) (x : Option Word64) : (stageShadowed s c h l u w x).calib = c.calib := rfl
@[simp] theorem stageShadowed_colMap (s : State) (c : Core) (h : Hd) (l u : Nat) (w : RegWrite) (x : Option Word64) : (stageShadowed s c h l u w x).colMap = c.colMap := rfl
@[simp] theorem stageShadowed_counts (s : State) (c : Core) (h : Hd) (l u : Nat) (w : RegWrite) (x : Option Word64) : (stageShadowed s c h l u w x).counts = c.counts := rfl
@[simp] theorem stageShadowed_epoch (s : State) (c : Core) (h : Hd) (l u : Nat) (w : RegWrite) (x : Option Word64) : (stageShadowed s c h l u w x).epoch = c.epoch := rfl
@[simp] theorem stageShadowed_regions (s : State) (c : Core) (h : Hd) (l u : Nat) (w : RegWrite) (x : Option Word64) : (stageShadowed s c h l u w x).regions = c.regions := rfl
@[simp] theorem stageShadowed_upend (s : State) (c : Core) (h : Hd) (l u : Nat) (w : RegWrite) (x : Option Word64) : (stageShadowed s c h l u w x).upend = c.upend := rfl
@[simp] theorem stageShadowed_unw (s : State) (c : Core) (h : Hd) (l u : Nat) (w : RegWrite) (x : Option Word64) : (stageShadowed s c h l u w x).unw = c.unw := rfl
@[simp] theorem stageShadowed_ulevel (s : State) (c : Core) (h : Hd) (l u : Nat) (w : RegWrite) (x : Option Word64) : (stageShadowed s c h l u w x).ulevel = c.ulevel := rfl
@[simp] theorem stageShadowed_outNew (s : State) (c : Core) (h : Hd) (l u : Nat) (w : RegWrite) (x : Option Word64) : (stageShadowed s c h l u w x).outNew = c.outNew := rfl
@[simp] theorem stageShadowed_pbarNew (s : State) (c : Core) (h : Hd) (l u : Nat) (w : RegWrite) (x : Option Word64) : (stageShadowed s c h l u w x).pbarNew = c.pbarNew := rfl
@[simp] theorem stageShadowed_kNew (s : State) (c : Core) (h : Hd) (l u : Nat) (w : RegWrite) (x : Option Word64) : (stageShadowed s c h l u w x).kNew = c.kNew := rfl
@[simp] theorem stageShadowed_kfault (s : State) (c : Core) (h : Hd) (l u : Nat) (w : RegWrite) (x : Option Word64) : (stageShadowed s c h l u w x).kfault = c.kfault := rfl
@[simp] theorem stageShadowed_engTrap (s : State) (c : Core) (h : Hd) (l u : Nat) (w : RegWrite) (x : Option Word64) : (stageShadowed s c h l u w x).engTrap = c.engTrap := rfl
@[simp] theorem stageShadowed_ueHit (s : State) (c : Core) (h : Hd) (l u : Nat) (w : RegWrite) (x : Option Word64) : (stageShadowed s c h l u w x).ueHit = c.ueHit := rfl
@[simp] theorem stageShadowed_ue (s : State) (c : Core) (h : Hd) (l u : Nat) (w : RegWrite) (x : Option Word64) : (stageShadowed s c h l u w x).ue = c.ue := rfl
@[simp] theorem stageShadowed_lossy (s : State) (c : Core) (h : Hd) (l u : Nat) (w : RegWrite) (x : Option Word64) : (stageShadowed s c h l u w x).lossy = c.lossy := rfl
@[simp] theorem stageShadowed_found (s : State) (c : Core) (h : Hd) (l u : Nat) (w : RegWrite) (x : Option Word64) : (stageShadowed s c h l u w x).found = c.found := rfl

@[simp] theorem ask_kid (c : Core) (f : Staged → Staged) : (c.ask f).kid = c.kid := rfl
@[simp] theorem ask_role (c : Core) (f : Staged → Staged) : (c.ask f).role = c.role := rfl
@[simp] theorem ask_attempt (c : Core) (f : Staged → Staged) : (c.ask f).attempt = c.attempt := rfl
@[simp] theorem ask_mode (c : Core) (f : Staged → Staged) : (c.ask f).mode = c.mode := rfl
@[simp] theorem ask_done (c : Core) (f : Staged → Staged) : (c.ask f).done = c.done := rfl
@[simp] theorem ask_stubEnd (c : Core) (f : Staged → Staged) : (c.ask f).stubEnd = c.stubEnd := rfl
@[simp] theorem ask_pc (c : Core) (f : Staged → Staged) : (c.ask f).pc = c.pc := rfl
@[simp] theorem ask_nextAt (c : Core) (f : Staged → Staged) : (c.ask f).nextAt = c.nextAt := rfl
@[simp] theorem ask_hNextAt (c : Core) (f : Staged → Staged) : (c.ask f).hNextAt = c.hNextAt := rfl
@[simp] theorem ask_dly (c : Core) (f : Staged → Staged) : (c.ask f).dly = c.dly := rfl
@[simp] theorem ask_br (c : Core) (f : Staged → Staged) : (c.ask f).br = c.br := rfl
@[simp] theorem ask_brFrom (c : Core) (f : Staged → Staged) : (c.ask f).brFrom = c.brFrom := rfl
@[simp] theorem ask_callAt (c : Core) (f : Staged → Staged) : (c.ask f).callAt = c.callAt := rfl
@[simp] theorem ask_taskDly (c : Core) (f : Staged → Staged) : (c.ask f).taskDly = c.taskDly := rfl
@[simp] theorem ask_taskCall (c : Core) (f : Staged → Staged) : (c.ask f).taskCall = c.taskCall := rfl
@[simp] theorem ask_taskFrom (c : Core) (f : Staged → Staged) : (c.ask f).taskFrom = c.taskFrom := rfl
@[simp] theorem ask_loops (c : Core) (f : Staged → Staged) : (c.ask f).loops = c.loops := rfl
@[simp] theorem ask_cur (c : Core) (f : Staged → Staged) : (c.ask f).cur = c.cur := rfl
@[simp] theorem ask_trapped (c : Core) (f : Staged → Staged) : (c.ask f).trapped = c.trapped := rfl
@[simp] theorem ask_suppNow (c : Core) (f : Staged → Staged) : (c.ask f).suppNow = c.suppNow := rfl
@[simp] theorem ask_eretWait (c : Core) (f : Staged → Staged) : (c.ask f).eretWait = c.eretWait := rfl
@[simp] theorem ask_wait (c : Core) (f : Staged → Staged) : (c.ask f).wait = c.wait := rfl
@[simp] theorem ask_g (c : Core) (f : Staged → Staged) : (c.ask f).g = c.g := rfl
@[simp] theorem ask_p (c : Core) (f : Staged → Staged) : (c.ask f).p = c.p := rfl
@[simp] theorem ask_v (c : Core) (f : Staged → Staged) : (c.ask f).v = c.v := rfl
@[simp] theorem ask_m (c : Core) (f : Staged → Staged) : (c.ask f).m = c.m := rfl
@[simp] theorem ask_x (c : Core) (f : Staged → Staged) : (c.ask f).x = c.x := rfl
@[simp] theorem ask_f (c : Core) (f : Staged → Staged) : (c.ask f).f = c.f := rfl
@[simp] theorem ask_c (c : Core) (f : Staged → Staged) : (c.ask f).c = c.c := rfl
@[simp] theorem ask_pend (c : Core) (f : Staged → Staged) : (c.ask f).pend = c.pend := rfl
@[simp] theorem ask_xres (c : Core) (f : Staged → Staged) : (c.ask f).xres = c.xres := rfl
@[simp] theorem ask_bfmt (c : Core) (f : Staged → Staged) : (c.ask f).bfmt = c.bfmt := rfl
@[simp] theorem ask_rmode (c : Core) (f : Staged → Staged) : (c.ask f).rmode = c.rmode := rfl
@[simp] theorem ask_shsel (c : Core) (f : Staged → Staged) : (c.ask f).shsel = c.shsel := rfl
@[simp] theorem ask_epicfg (c : Core) (f : Staged → Staged) : (c.ask f).epicfg = c.epicfg := rfl
@[simp] theorem ask_mclip0 (c : Core) (f : Staged → Staged) : (c.ask f).mclip0 = c.mclip0 := rfl
@[simp] theorem ask_mclip1 (c : Core) (f : Staged → Staged) : (c.ask f).mclip1 = c.mclip1 := rfl
@[simp] theorem ask_mbox (c : Core) (f : Staged → Staged) : (c.ask f).mbox = c.mbox := rfl
@[simp] theorem ask_trap (c : Core) (f : Staged → Staged) : (c.ask f).trap = c.trap := rfl
@[simp] theorem ask_tvb (c : Core) (f : Staged → Staged) : (c.ask f).tvb = c.tvb := rfl
@[simp] theorem ask_cbase (c : Core) (f : Staged → Staged) : (c.ask f).cbase = c.cbase := rfl
@[simp] theorem ask_codeSize (c : Core) (f : Staged → Staged) : (c.ask f).codeSize = c.codeSize := rfl
@[simp] theorem ask_priv (c : Core) (f : Staged → Staged) : (c.ask f).priv = c.priv := rfl
@[simp] theorem ask_tiles (c : Core) (f : Staged → Staged) : (c.ask f).tiles = c.tiles := rfl
@[simp] theorem ask_stores (c : Core) (f : Staged → Staged) : (c.ask f).stores = c.stores := rfl
@[simp] theorem ask_engWrites (c : Core) (f : Staged → Staged) : (c.ask f).engWrites = c.engWrites := rfl
@[simp] theorem ask_owns (c : Core) (f : Staged → Staged) : (c.ask f).owns = c.owns := rfl
@[simp] theorem ask_dir (c : Core) (f : Staged → Staged) : (c.ask f).dir = c.dir := rfl
@[simp] theorem ask_barUps (c : Core) (f : Staged → Staged) : (c.ask f).barUps = c.barUps := rfl
@[simp] theorem ask_buf (c : Core) (f : Staged → Staged) : (c.ask f).buf = c.buf := rfl
@[simp] theorem ask_runs (c : Core) (f : Staged → Staged) : (c.ask f).runs = c.runs := rfl
@[simp] theorem ask_orders (c : Core) (f : Staged → Staged) : (c.ask f).orders = c.orders := rfl
@[simp] theorem ask_ctab (c : Core) (f : Staged → Staged) : (c.ask f).ctab = c.ctab := rfl
@[simp] theorem ask_acts (c : Core) (f : Staged → Staged) : (c.ask f).acts = c.acts := rfl
@[simp] theorem ask_wts (c : Core) (f : Staged → Staged) : (c.ask f).wts = c.wts := rfl
@[simp] theorem ask_store (c : Core) (f : Staged → Staged) : (c.ask f).store = c.store := rfl
@[simp] theorem ask_oload (c : Core) (f : Staged → Staged) : (c.ask f).oload = c.oload := rfl
@[simp] theorem ask_wload (c : Core) (f : Staged → Staged) : (c.ask f).wload = c.wload := rfl
@[simp] theorem ask_mploads (c : Core) (f : Staged → Staged) : (c.ask f).mploads = c.mploads := rfl
@[simp] theorem ask_mcall (c : Core) (f : Staged → Staged) : (c.ask f).mcall = c.mcall := rfl
@[simp] theorem ask_pop (c : Core) (f : Staged → Staged) : (c.ask f).pop = c.pop := rfl
@[simp] theorem ask_ring (c : Core) (f : Staged → Staged) : (c.ask f).ring = c.ring := rfl
@[simp] theorem ask_head (c : Core) (f : Staged → Staged) : (c.ask f).head = c.head := rfl
@[simp] theorem ask_tail (c : Core) (f : Staged → Staged) : (c.ask f).tail = c.tail := rfl
@[simp] theorem ask_calib (c : Core) (f : Staged → Staged) : (c.ask f).calib = c.calib := rfl
@[simp] theorem ask_colMap (c : Core) (f : Staged → Staged) : (c.ask f).colMap = c.colMap := rfl
@[simp] theorem ask_counts (c : Core) (f : Staged → Staged) : (c.ask f).counts = c.counts := rfl
@[simp] theorem ask_epoch (c : Core) (f : Staged → Staged) : (c.ask f).epoch = c.epoch := rfl
@[simp] theorem ask_regions (c : Core) (f : Staged → Staged) : (c.ask f).regions = c.regions := rfl
@[simp] theorem ask_upend (c : Core) (f : Staged → Staged) : (c.ask f).upend = c.upend := rfl
@[simp] theorem ask_unw (c : Core) (f : Staged → Staged) : (c.ask f).unw = c.unw := rfl
@[simp] theorem ask_ulevel (c : Core) (f : Staged → Staged) : (c.ask f).ulevel = c.ulevel := rfl
@[simp] theorem ask_outNew (c : Core) (f : Staged → Staged) : (c.ask f).outNew = c.outNew := rfl
@[simp] theorem ask_pbarNew (c : Core) (f : Staged → Staged) : (c.ask f).pbarNew = c.pbarNew := rfl
@[simp] theorem ask_kNew (c : Core) (f : Staged → Staged) : (c.ask f).kNew = c.kNew := rfl
@[simp] theorem ask_kfault (c : Core) (f : Staged → Staged) : (c.ask f).kfault = c.kfault := rfl
@[simp] theorem ask_engTrap (c : Core) (f : Staged → Staged) : (c.ask f).engTrap = c.engTrap := rfl
@[simp] theorem ask_ueHit (c : Core) (f : Staged → Staged) : (c.ask f).ueHit = c.ueHit := rfl
@[simp] theorem ask_ue (c : Core) (f : Staged → Staged) : (c.ask f).ue = c.ue := rfl
@[simp] theorem ask_glitch (c : Core) (f : Staged → Staged) : (c.ask f).glitch = c.glitch := rfl
@[simp] theorem ask_lossy (c : Core) (f : Staged → Staged) : (c.ask f).lossy = c.lossy := rfl
@[simp] theorem ask_found (c : Core) (f : Staged → Staged) : (c.ask f).found = c.found := rfl

@[simp] theorem addStores_kid (c : Core) (cells : List (Nat × Byte)) : (addStores c cells).kid = c.kid := rfl
@[simp] theorem addStores_role (c : Core) (cells : List (Nat × Byte)) : (addStores c cells).role = c.role := rfl
@[simp] theorem addStores_attempt (c : Core) (cells : List (Nat × Byte)) : (addStores c cells).attempt = c.attempt := rfl
@[simp] theorem addStores_mode (c : Core) (cells : List (Nat × Byte)) : (addStores c cells).mode = c.mode := rfl
@[simp] theorem addStores_done (c : Core) (cells : List (Nat × Byte)) : (addStores c cells).done = c.done := rfl
@[simp] theorem addStores_stubEnd (c : Core) (cells : List (Nat × Byte)) : (addStores c cells).stubEnd = c.stubEnd := rfl
@[simp] theorem addStores_pc (c : Core) (cells : List (Nat × Byte)) : (addStores c cells).pc = c.pc := rfl
@[simp] theorem addStores_nextAt (c : Core) (cells : List (Nat × Byte)) : (addStores c cells).nextAt = c.nextAt := rfl
@[simp] theorem addStores_hNextAt (c : Core) (cells : List (Nat × Byte)) : (addStores c cells).hNextAt = c.hNextAt := rfl
@[simp] theorem addStores_dly (c : Core) (cells : List (Nat × Byte)) : (addStores c cells).dly = c.dly := rfl
@[simp] theorem addStores_br (c : Core) (cells : List (Nat × Byte)) : (addStores c cells).br = c.br := rfl
@[simp] theorem addStores_brFrom (c : Core) (cells : List (Nat × Byte)) : (addStores c cells).brFrom = c.brFrom := rfl
@[simp] theorem addStores_callAt (c : Core) (cells : List (Nat × Byte)) : (addStores c cells).callAt = c.callAt := rfl
@[simp] theorem addStores_taskDly (c : Core) (cells : List (Nat × Byte)) : (addStores c cells).taskDly = c.taskDly := rfl
@[simp] theorem addStores_taskCall (c : Core) (cells : List (Nat × Byte)) : (addStores c cells).taskCall = c.taskCall := rfl
@[simp] theorem addStores_taskFrom (c : Core) (cells : List (Nat × Byte)) : (addStores c cells).taskFrom = c.taskFrom := rfl
@[simp] theorem addStores_loops (c : Core) (cells : List (Nat × Byte)) : (addStores c cells).loops = c.loops := rfl
@[simp] theorem addStores_cur (c : Core) (cells : List (Nat × Byte)) : (addStores c cells).cur = c.cur := rfl
@[simp] theorem addStores_trapped (c : Core) (cells : List (Nat × Byte)) : (addStores c cells).trapped = c.trapped := rfl
@[simp] theorem addStores_suppNow (c : Core) (cells : List (Nat × Byte)) : (addStores c cells).suppNow = c.suppNow := rfl
@[simp] theorem addStores_eretWait (c : Core) (cells : List (Nat × Byte)) : (addStores c cells).eretWait = c.eretWait := rfl
@[simp] theorem addStores_wait (c : Core) (cells : List (Nat × Byte)) : (addStores c cells).wait = c.wait := rfl
@[simp] theorem addStores_g (c : Core) (cells : List (Nat × Byte)) : (addStores c cells).g = c.g := rfl
@[simp] theorem addStores_p (c : Core) (cells : List (Nat × Byte)) : (addStores c cells).p = c.p := rfl
@[simp] theorem addStores_v (c : Core) (cells : List (Nat × Byte)) : (addStores c cells).v = c.v := rfl
@[simp] theorem addStores_m (c : Core) (cells : List (Nat × Byte)) : (addStores c cells).m = c.m := rfl
@[simp] theorem addStores_x (c : Core) (cells : List (Nat × Byte)) : (addStores c cells).x = c.x := rfl
@[simp] theorem addStores_f (c : Core) (cells : List (Nat × Byte)) : (addStores c cells).f = c.f := rfl
@[simp] theorem addStores_c (c : Core) (cells : List (Nat × Byte)) : (addStores c cells).c = c.c := rfl
@[simp] theorem addStores_pend (c : Core) (cells : List (Nat × Byte)) : (addStores c cells).pend = c.pend := rfl
@[simp] theorem addStores_xres (c : Core) (cells : List (Nat × Byte)) : (addStores c cells).xres = c.xres := rfl
@[simp] theorem addStores_bfmt (c : Core) (cells : List (Nat × Byte)) : (addStores c cells).bfmt = c.bfmt := rfl
@[simp] theorem addStores_rmode (c : Core) (cells : List (Nat × Byte)) : (addStores c cells).rmode = c.rmode := rfl
@[simp] theorem addStores_shsel (c : Core) (cells : List (Nat × Byte)) : (addStores c cells).shsel = c.shsel := rfl
@[simp] theorem addStores_epicfg (c : Core) (cells : List (Nat × Byte)) : (addStores c cells).epicfg = c.epicfg := rfl
@[simp] theorem addStores_mclip0 (c : Core) (cells : List (Nat × Byte)) : (addStores c cells).mclip0 = c.mclip0 := rfl
@[simp] theorem addStores_mclip1 (c : Core) (cells : List (Nat × Byte)) : (addStores c cells).mclip1 = c.mclip1 := rfl
@[simp] theorem addStores_mbox (c : Core) (cells : List (Nat × Byte)) : (addStores c cells).mbox = c.mbox := rfl
@[simp] theorem addStores_trap (c : Core) (cells : List (Nat × Byte)) : (addStores c cells).trap = c.trap := rfl
@[simp] theorem addStores_tvb (c : Core) (cells : List (Nat × Byte)) : (addStores c cells).tvb = c.tvb := rfl
@[simp] theorem addStores_cbase (c : Core) (cells : List (Nat × Byte)) : (addStores c cells).cbase = c.cbase := rfl
@[simp] theorem addStores_codeSize (c : Core) (cells : List (Nat × Byte)) : (addStores c cells).codeSize = c.codeSize := rfl
@[simp] theorem addStores_priv (c : Core) (cells : List (Nat × Byte)) : (addStores c cells).priv = c.priv := rfl
@[simp] theorem addStores_tiles (c : Core) (cells : List (Nat × Byte)) : (addStores c cells).tiles = c.tiles := rfl
@[simp] theorem addStores_engWrites (c : Core) (cells : List (Nat × Byte)) : (addStores c cells).engWrites = c.engWrites := rfl
@[simp] theorem addStores_owns (c : Core) (cells : List (Nat × Byte)) : (addStores c cells).owns = c.owns := rfl
@[simp] theorem addStores_dir (c : Core) (cells : List (Nat × Byte)) : (addStores c cells).dir = c.dir := rfl
@[simp] theorem addStores_barUps (c : Core) (cells : List (Nat × Byte)) : (addStores c cells).barUps = c.barUps := rfl
@[simp] theorem addStores_buf (c : Core) (cells : List (Nat × Byte)) : (addStores c cells).buf = c.buf := rfl
@[simp] theorem addStores_runs (c : Core) (cells : List (Nat × Byte)) : (addStores c cells).runs = c.runs := rfl
@[simp] theorem addStores_orders (c : Core) (cells : List (Nat × Byte)) : (addStores c cells).orders = c.orders := rfl
@[simp] theorem addStores_ctab (c : Core) (cells : List (Nat × Byte)) : (addStores c cells).ctab = c.ctab := rfl
@[simp] theorem addStores_acts (c : Core) (cells : List (Nat × Byte)) : (addStores c cells).acts = c.acts := rfl
@[simp] theorem addStores_wts (c : Core) (cells : List (Nat × Byte)) : (addStores c cells).wts = c.wts := rfl
@[simp] theorem addStores_store (c : Core) (cells : List (Nat × Byte)) : (addStores c cells).store = c.store := rfl
@[simp] theorem addStores_oload (c : Core) (cells : List (Nat × Byte)) : (addStores c cells).oload = c.oload := rfl
@[simp] theorem addStores_wload (c : Core) (cells : List (Nat × Byte)) : (addStores c cells).wload = c.wload := rfl
@[simp] theorem addStores_mploads (c : Core) (cells : List (Nat × Byte)) : (addStores c cells).mploads = c.mploads := rfl
@[simp] theorem addStores_mcall (c : Core) (cells : List (Nat × Byte)) : (addStores c cells).mcall = c.mcall := rfl
@[simp] theorem addStores_pop (c : Core) (cells : List (Nat × Byte)) : (addStores c cells).pop = c.pop := rfl
@[simp] theorem addStores_ring (c : Core) (cells : List (Nat × Byte)) : (addStores c cells).ring = c.ring := rfl
@[simp] theorem addStores_head (c : Core) (cells : List (Nat × Byte)) : (addStores c cells).head = c.head := rfl
@[simp] theorem addStores_tail (c : Core) (cells : List (Nat × Byte)) : (addStores c cells).tail = c.tail := rfl
@[simp] theorem addStores_calib (c : Core) (cells : List (Nat × Byte)) : (addStores c cells).calib = c.calib := rfl
@[simp] theorem addStores_colMap (c : Core) (cells : List (Nat × Byte)) : (addStores c cells).colMap = c.colMap := rfl
@[simp] theorem addStores_counts (c : Core) (cells : List (Nat × Byte)) : (addStores c cells).counts = c.counts := rfl
@[simp] theorem addStores_epoch (c : Core) (cells : List (Nat × Byte)) : (addStores c cells).epoch = c.epoch := rfl
@[simp] theorem addStores_regions (c : Core) (cells : List (Nat × Byte)) : (addStores c cells).regions = c.regions := rfl
@[simp] theorem addStores_upend (c : Core) (cells : List (Nat × Byte)) : (addStores c cells).upend = c.upend := rfl
@[simp] theorem addStores_unw (c : Core) (cells : List (Nat × Byte)) : (addStores c cells).unw = c.unw := rfl
@[simp] theorem addStores_ulevel (c : Core) (cells : List (Nat × Byte)) : (addStores c cells).ulevel = c.ulevel := rfl
@[simp] theorem addStores_outNew (c : Core) (cells : List (Nat × Byte)) : (addStores c cells).outNew = c.outNew := rfl
@[simp] theorem addStores_pbarNew (c : Core) (cells : List (Nat × Byte)) : (addStores c cells).pbarNew = c.pbarNew := rfl
@[simp] theorem addStores_kNew (c : Core) (cells : List (Nat × Byte)) : (addStores c cells).kNew = c.kNew := rfl
@[simp] theorem addStores_kfault (c : Core) (cells : List (Nat × Byte)) : (addStores c cells).kfault = c.kfault := rfl
@[simp] theorem addStores_engTrap (c : Core) (cells : List (Nat × Byte)) : (addStores c cells).engTrap = c.engTrap := rfl
@[simp] theorem addStores_ueHit (c : Core) (cells : List (Nat × Byte)) : (addStores c cells).ueHit = c.ueHit := rfl
@[simp] theorem addStores_ue (c : Core) (cells : List (Nat × Byte)) : (addStores c cells).ue = c.ue := rfl
@[simp] theorem addStores_glitch (c : Core) (cells : List (Nat × Byte)) : (addStores c cells).glitch = c.glitch := rfl
@[simp] theorem addStores_lossy (c : Core) (cells : List (Nat × Byte)) : (addStores c cells).lossy = c.lossy := rfl
@[simp] theorem addStores_found (c : Core) (cells : List (Nat × Byte)) : (addStores c cells).found = c.found := rfl

@[simp] theorem coreBar_kid (c : Core) (a : Nat) (u : BarUpdate) : (c.bar a u).kid = c.kid := rfl
@[simp] theorem coreBar_role (c : Core) (a : Nat) (u : BarUpdate) : (c.bar a u).role = c.role := rfl
@[simp] theorem coreBar_attempt (c : Core) (a : Nat) (u : BarUpdate) : (c.bar a u).attempt = c.attempt := rfl
@[simp] theorem coreBar_mode (c : Core) (a : Nat) (u : BarUpdate) : (c.bar a u).mode = c.mode := rfl
@[simp] theorem coreBar_done (c : Core) (a : Nat) (u : BarUpdate) : (c.bar a u).done = c.done := rfl
@[simp] theorem coreBar_stubEnd (c : Core) (a : Nat) (u : BarUpdate) : (c.bar a u).stubEnd = c.stubEnd := rfl
@[simp] theorem coreBar_pc (c : Core) (a : Nat) (u : BarUpdate) : (c.bar a u).pc = c.pc := rfl
@[simp] theorem coreBar_nextAt (c : Core) (a : Nat) (u : BarUpdate) : (c.bar a u).nextAt = c.nextAt := rfl
@[simp] theorem coreBar_hNextAt (c : Core) (a : Nat) (u : BarUpdate) : (c.bar a u).hNextAt = c.hNextAt := rfl
@[simp] theorem coreBar_dly (c : Core) (a : Nat) (u : BarUpdate) : (c.bar a u).dly = c.dly := rfl
@[simp] theorem coreBar_br (c : Core) (a : Nat) (u : BarUpdate) : (c.bar a u).br = c.br := rfl
@[simp] theorem coreBar_brFrom (c : Core) (a : Nat) (u : BarUpdate) : (c.bar a u).brFrom = c.brFrom := rfl
@[simp] theorem coreBar_callAt (c : Core) (a : Nat) (u : BarUpdate) : (c.bar a u).callAt = c.callAt := rfl
@[simp] theorem coreBar_taskDly (c : Core) (a : Nat) (u : BarUpdate) : (c.bar a u).taskDly = c.taskDly := rfl
@[simp] theorem coreBar_taskCall (c : Core) (a : Nat) (u : BarUpdate) : (c.bar a u).taskCall = c.taskCall := rfl
@[simp] theorem coreBar_taskFrom (c : Core) (a : Nat) (u : BarUpdate) : (c.bar a u).taskFrom = c.taskFrom := rfl
@[simp] theorem coreBar_loops (c : Core) (a : Nat) (u : BarUpdate) : (c.bar a u).loops = c.loops := rfl
@[simp] theorem coreBar_cur (c : Core) (a : Nat) (u : BarUpdate) : (c.bar a u).cur = c.cur := rfl
@[simp] theorem coreBar_trapped (c : Core) (a : Nat) (u : BarUpdate) : (c.bar a u).trapped = c.trapped := rfl
@[simp] theorem coreBar_suppNow (c : Core) (a : Nat) (u : BarUpdate) : (c.bar a u).suppNow = c.suppNow := rfl
@[simp] theorem coreBar_eretWait (c : Core) (a : Nat) (u : BarUpdate) : (c.bar a u).eretWait = c.eretWait := rfl
@[simp] theorem coreBar_wait (c : Core) (a : Nat) (u : BarUpdate) : (c.bar a u).wait = c.wait := rfl
@[simp] theorem coreBar_g (c : Core) (a : Nat) (u : BarUpdate) : (c.bar a u).g = c.g := rfl
@[simp] theorem coreBar_p (c : Core) (a : Nat) (u : BarUpdate) : (c.bar a u).p = c.p := rfl
@[simp] theorem coreBar_v (c : Core) (a : Nat) (u : BarUpdate) : (c.bar a u).v = c.v := rfl
@[simp] theorem coreBar_m (c : Core) (a : Nat) (u : BarUpdate) : (c.bar a u).m = c.m := rfl
@[simp] theorem coreBar_x (c : Core) (a : Nat) (u : BarUpdate) : (c.bar a u).x = c.x := rfl
@[simp] theorem coreBar_f (c : Core) (a : Nat) (u : BarUpdate) : (c.bar a u).f = c.f := rfl
@[simp] theorem coreBar_c (c : Core) (a : Nat) (u : BarUpdate) : (c.bar a u).c = c.c := rfl
@[simp] theorem coreBar_pend (c : Core) (a : Nat) (u : BarUpdate) : (c.bar a u).pend = c.pend := rfl
@[simp] theorem coreBar_xres (c : Core) (a : Nat) (u : BarUpdate) : (c.bar a u).xres = c.xres := rfl
@[simp] theorem coreBar_bfmt (c : Core) (a : Nat) (u : BarUpdate) : (c.bar a u).bfmt = c.bfmt := rfl
@[simp] theorem coreBar_rmode (c : Core) (a : Nat) (u : BarUpdate) : (c.bar a u).rmode = c.rmode := rfl
@[simp] theorem coreBar_shsel (c : Core) (a : Nat) (u : BarUpdate) : (c.bar a u).shsel = c.shsel := rfl
@[simp] theorem coreBar_epicfg (c : Core) (a : Nat) (u : BarUpdate) : (c.bar a u).epicfg = c.epicfg := rfl
@[simp] theorem coreBar_mclip0 (c : Core) (a : Nat) (u : BarUpdate) : (c.bar a u).mclip0 = c.mclip0 := rfl
@[simp] theorem coreBar_mclip1 (c : Core) (a : Nat) (u : BarUpdate) : (c.bar a u).mclip1 = c.mclip1 := rfl
@[simp] theorem coreBar_mbox (c : Core) (a : Nat) (u : BarUpdate) : (c.bar a u).mbox = c.mbox := rfl
@[simp] theorem coreBar_trap (c : Core) (a : Nat) (u : BarUpdate) : (c.bar a u).trap = c.trap := rfl
@[simp] theorem coreBar_tvb (c : Core) (a : Nat) (u : BarUpdate) : (c.bar a u).tvb = c.tvb := rfl
@[simp] theorem coreBar_cbase (c : Core) (a : Nat) (u : BarUpdate) : (c.bar a u).cbase = c.cbase := rfl
@[simp] theorem coreBar_codeSize (c : Core) (a : Nat) (u : BarUpdate) : (c.bar a u).codeSize = c.codeSize := rfl
@[simp] theorem coreBar_priv (c : Core) (a : Nat) (u : BarUpdate) : (c.bar a u).priv = c.priv := rfl
@[simp] theorem coreBar_tiles (c : Core) (a : Nat) (u : BarUpdate) : (c.bar a u).tiles = c.tiles := rfl
@[simp] theorem coreBar_stores (c : Core) (a : Nat) (u : BarUpdate) : (c.bar a u).stores = c.stores := rfl
@[simp] theorem coreBar_engWrites (c : Core) (a : Nat) (u : BarUpdate) : (c.bar a u).engWrites = c.engWrites := rfl
@[simp] theorem coreBar_owns (c : Core) (a : Nat) (u : BarUpdate) : (c.bar a u).owns = c.owns := rfl
@[simp] theorem coreBar_dir (c : Core) (a : Nat) (u : BarUpdate) : (c.bar a u).dir = c.dir := rfl
@[simp] theorem coreBar_buf (c : Core) (a : Nat) (u : BarUpdate) : (c.bar a u).buf = c.buf := rfl
@[simp] theorem coreBar_runs (c : Core) (a : Nat) (u : BarUpdate) : (c.bar a u).runs = c.runs := rfl
@[simp] theorem coreBar_orders (c : Core) (a : Nat) (u : BarUpdate) : (c.bar a u).orders = c.orders := rfl
@[simp] theorem coreBar_ctab (c : Core) (a : Nat) (u : BarUpdate) : (c.bar a u).ctab = c.ctab := rfl
@[simp] theorem coreBar_acts (c : Core) (a : Nat) (u : BarUpdate) : (c.bar a u).acts = c.acts := rfl
@[simp] theorem coreBar_wts (c : Core) (a : Nat) (u : BarUpdate) : (c.bar a u).wts = c.wts := rfl
@[simp] theorem coreBar_store (c : Core) (a : Nat) (u : BarUpdate) : (c.bar a u).store = c.store := rfl
@[simp] theorem coreBar_oload (c : Core) (a : Nat) (u : BarUpdate) : (c.bar a u).oload = c.oload := rfl
@[simp] theorem coreBar_wload (c : Core) (a : Nat) (u : BarUpdate) : (c.bar a u).wload = c.wload := rfl
@[simp] theorem coreBar_mploads (c : Core) (a : Nat) (u : BarUpdate) : (c.bar a u).mploads = c.mploads := rfl
@[simp] theorem coreBar_mcall (c : Core) (a : Nat) (u : BarUpdate) : (c.bar a u).mcall = c.mcall := rfl
@[simp] theorem coreBar_pop (c : Core) (a : Nat) (u : BarUpdate) : (c.bar a u).pop = c.pop := rfl
@[simp] theorem coreBar_ring (c : Core) (a : Nat) (u : BarUpdate) : (c.bar a u).ring = c.ring := rfl
@[simp] theorem coreBar_head (c : Core) (a : Nat) (u : BarUpdate) : (c.bar a u).head = c.head := rfl
@[simp] theorem coreBar_tail (c : Core) (a : Nat) (u : BarUpdate) : (c.bar a u).tail = c.tail := rfl
@[simp] theorem coreBar_calib (c : Core) (a : Nat) (u : BarUpdate) : (c.bar a u).calib = c.calib := rfl
@[simp] theorem coreBar_colMap (c : Core) (a : Nat) (u : BarUpdate) : (c.bar a u).colMap = c.colMap := rfl
@[simp] theorem coreBar_counts (c : Core) (a : Nat) (u : BarUpdate) : (c.bar a u).counts = c.counts := rfl
@[simp] theorem coreBar_epoch (c : Core) (a : Nat) (u : BarUpdate) : (c.bar a u).epoch = c.epoch := rfl
@[simp] theorem coreBar_regions (c : Core) (a : Nat) (u : BarUpdate) : (c.bar a u).regions = c.regions := rfl
@[simp] theorem coreBar_upend (c : Core) (a : Nat) (u : BarUpdate) : (c.bar a u).upend = c.upend := rfl
@[simp] theorem coreBar_unw (c : Core) (a : Nat) (u : BarUpdate) : (c.bar a u).unw = c.unw := rfl
@[simp] theorem coreBar_ulevel (c : Core) (a : Nat) (u : BarUpdate) : (c.bar a u).ulevel = c.ulevel := rfl
@[simp] theorem coreBar_outNew (c : Core) (a : Nat) (u : BarUpdate) : (c.bar a u).outNew = c.outNew := rfl
@[simp] theorem coreBar_pbarNew (c : Core) (a : Nat) (u : BarUpdate) : (c.bar a u).pbarNew = c.pbarNew := rfl
@[simp] theorem coreBar_kNew (c : Core) (a : Nat) (u : BarUpdate) : (c.bar a u).kNew = c.kNew := rfl
@[simp] theorem coreBar_kfault (c : Core) (a : Nat) (u : BarUpdate) : (c.bar a u).kfault = c.kfault := rfl
@[simp] theorem coreBar_engTrap (c : Core) (a : Nat) (u : BarUpdate) : (c.bar a u).engTrap = c.engTrap := rfl
@[simp] theorem coreBar_ueHit (c : Core) (a : Nat) (u : BarUpdate) : (c.bar a u).ueHit = c.ueHit := rfl
@[simp] theorem coreBar_ue (c : Core) (a : Nat) (u : BarUpdate) : (c.bar a u).ue = c.ue := rfl
@[simp] theorem coreBar_glitch (c : Core) (a : Nat) (u : BarUpdate) : (c.bar a u).glitch = c.glitch := rfl
@[simp] theorem coreBar_lossy (c : Core) (a : Nat) (u : BarUpdate) : (c.bar a u).lossy = c.lossy := rfl
@[simp] theorem coreBar_found (c : Core) (a : Nat) (u : BarUpdate) : (c.bar a u).found = c.found := rfl

/-- What `stage` adds: one landing of the core's own pipeline, and the pending bit of a long one. -/
theorem stage_inflight (s : State) (c : Core) (h : Hd) (l : Nat) (w : RegWrite) :
    (stage s c h l w).inflight = c.inflight ++ [{ write := w, due := dueAt s c l, rank := 1, issue := issueStamp s c, slot := h.slot.num, long := decide (l > 1) }] := rfl

end Sys2Proof.Machine
end

