-- ==== Sys2Proof/Laws/Slots.lean ====
section
/-!
SUPPORT. What a slot can do: nothing when it is disabled, its effect or its trap when it runs, and a change
of its own core in every case.
-/
namespace Sys2Proof.Machine

/-- A disabled or suppressed slot does nothing (R288, R264). -/
theorem runSlot_off (h : Hd) (s : State) (f : Core → Eff)
    (ho : enabled s.me h = false ∨ s.me.suppNow.getLsbD h.slot.num = true) : runSlot h s f = .next s := by
  unfold runSlot
  rcases ho with ho | ho <;> simp [ho]

/-- A slot that runs has its effect. -/
theorem runSlotReads_ok {h : Hd} {reads : List RegName} {s : State} {f : Core → Eff} {c : Core}
    (hr : slotRuns s h reads) (hf : f s.me = .ok c) : runSlotReads h reads s f = .next (s.setMe c) := by
  obtain ⟨h1, h2, h3, h4, h5⟩ := hr
  simp only [runSlotReads, runSlot, h1, h2, h3, h4, h5, hf]
  rfl

/-- Or its trap. -/
theorem runSlotReads_trap {h : Hd} {reads : List RegName} {s : State} {f : Core → Eff} {code : Nat}
    {info : Word64} (hr : slotRuns s h reads) (hf : f s.me = .trap code info) :
    runSlotReads h reads s f = .next (trapped s h code info) := by
  obtain ⟨h1, h2, h3, h4, h5⟩ := hr
  simp only [runSlotReads, runSlot, h1, h2, h3, h4, h5, hf]
  rfl

/-- A slot that is suppressed, or disabled by a guard that can be read, does nothing (R288, R264). -/
theorem runSlotReads_off (h : Hd) (reads : List RegName) (s : State) (f : Core → Eff)
    (ho : s.me.suppNow.getLsbD h.slot.num = true
      ∨ (enabled s.me h = false ∧ hasUe s.me (.p h.pred.toNat) = false)) :
    runSlotReads h reads s f = .next s := by
  unfold runSlotReads
  rcases ho with ho | ⟨ho, hu⟩
  · simp [ho]
  · simp only [hu, Bool.false_eq_true, ↓reduceIte]
    split
    · rfl
    · exact runSlot_off h s _ (.inl ho)

/-- What comes of a slot's effect: a change of its own core, or a trap taken by it. -/
theorem settleSlot_cases {h : Hd} {s t : State} {e : Eff} (hx : settleSlot h s e = .next t) :
    (∃ c, e = .ok c ∧ t = s.setMe c) ∨ (∃ code info, e = .trap code info ∧ t = trapped s h code info) := by
  cases e with
  | ok c => exact .inl ⟨c, rfl, by simpa [settleSlot] using hx.symm⟩
  | trap code info => exact .inr ⟨code, info, rfl, by simpa [settleSlot, trapped] using hx.symm⟩

/-- Everything a slot can do: nothing, an effect on its own core, or a trap taken by its own core. -/
theorem runSlot_cases {h : Hd} {s t : State} {f : Core → Eff} (hx : runSlot h s f = .next t) :
    t = s ∨ (∃ c, f s.me = .ok c ∧ t = s.setMe c)
      ∨ (∃ code info, f s.me = .trap code info ∧ t = trapped s h code info) := by
  unfold runSlot at hx
  simp only at hx
  split at hx
  · exact .inl (by simpa using hx.symm)
  · exact .inr (settleSlot_cases hx)

/-- A slot always answers a next state. -/
theorem settleSlot_next (h : Hd) (s : State) (e : Eff) : ∃ t, settleSlot h s e = .next t := by
  cases e <;> exact ⟨_, rfl⟩

theorem runSlot_next (h : Hd) (s : State) (f : Core → Eff) : ∃ t, runSlot h s f = .next t := by
  unfold runSlot
  simp only
  split
  · exact ⟨_, rfl⟩
  · exact settleSlot_next h s _

theorem runSlotReads_next (h : Hd) (reads : List RegName) (s : State) (f : Core → Eff) :
    ∃ t, runSlotReads h reads s f = .next t := by
  unfold runSlotReads
  simp only
  split
  · exact ⟨_, rfl⟩
  · split
    · exact settleSlot_next h s _
    · exact runSlot_next h s _

/-! ## Taking a trap (R261, R264) -/

/-- A kernel-ending code, a trap in system mode, or a core without a handler ends the kernel: the core holds a
fault. -/
theorem takeTrap_ends (s : State) (c : Core) (t : TrapReq) (pc : Nat)
    (h : kernelEnding t.code = true ∨ c.mode ≠ .task ∨ c.tvb = 0) :
    (takeTrap s c t pc).trapped = true ∧ (takeTrap s c t pc).kfault.isSome = true := by
  have hb : (kernelEnding t.code || (c.mode != .task) || c.tvb == 0) = true := by
    rcases h with h | h | h <;> simp [h]
  simp only [takeTrap, hb, ↓reduceIte, true_and]
  unfold endWith
  split
  · rfl
  · next g hg => split <;> simp_all

/-- Any other goes to the handler. -/
theorem takeTrap_handler (s : State) (c : Core) (t : TrapReq) (pc : Nat)
    (h1 : kernelEnding t.code = false) (h2 : c.mode = .task) (h3 : c.tvb ≠ 0) :
    (takeTrap s c t pc).mode = .handler ∧ (takeTrap s c t pc).pc = c.tvb.toNat
      ∧ (takeTrap s c t pc).hNextAt = some (s.cyc + 1) ∧ (takeTrap s c t pc).kfault = c.kfault := by
  have hb : (kernelEnding t.code || (c.mode != .task) || c.tvb == 0) = false := by
    simp [h1, h2]; exact h3
  simp only [takeTrap, hb, Bool.false_eq_true, ↓reduceIte, and_self]

/-! ## From a meaning's form to what exec answers -/

/-- An instruction whose meaning reads registers, and runs, has its effect. -/
theorem exec_ok {i : Instr} {s : State} {h : Hd} {reads : List RegName} {f : Core → Eff} {c : Core}
    (e : exec i s = runSlotReads h reads s f) (hr : slotRuns s h reads) (hf : f s.me = .ok c) :
    exec i s = .next (s.setMe c) := e.trans (runSlotReads_ok hr hf)

/-- Or its trap. -/
theorem exec_trap {i : Instr} {s : State} {h : Hd} {reads : List RegName} {f : Core → Eff} {code : Nat}
    {info : Word64} (e : exec i s = runSlotReads h reads s f) (hr : slotRuns s h reads)
    (hf : f s.me = .trap code info) : exec i s = .next (trapped s h code info) := e.trans (runSlotReads_trap hr hf)

/-- A span that is reached passes the range and owner checks (R163). -/
theorem checkAccess_ok {c : Core} {ea : Word64} {n : Nat} {k : Nat} {addrs : List Nat} {e : Eff}
    (h : reaches c ea n addrs) : checkAccess c ea n k addrs e = e := by
  obtain ⟨h1, h2, h3⟩ := h
  have hr : outOfBank ea n = false := by simp [outOfBank]; omega
  have ho : addrs.find? (fun a => engineOwned c (a / 0x1000)) = none := by
    simp only [List.find?_eq_none]
    intro a ha
    rw [h3 a ha]
    simp
  simp [checkAccess, hr, ho]

/-- Bytes without errors are read (R269). -/
theorem readChecked_ok {c : Core} {h : Hd} {addrs : List Nat} {e : Eff} (hh : errorFree c addrs) :
    readChecked c h addrs e = e := by
  have hn : addrs.find? (fun a => c.ue.contains (1, a / 64)) = none := by
    simp only [List.find?_eq_none]
    intro a ha
    rw [hh a ha]
    simp
  simp only [readChecked, hn]

/-- Bytes with no armed barrier are written (R203). -/
theorem checkArmed_ok {c : Core} {addrs : List Nat} {e : Eff} (hh : unarmed c addrs) :
    checkArmed c addrs e = e := by
  have hn : c.dir.filter (fun b => addrs.any (fun a => b ≤ a && a < b + 16)) = [] := by
    simp only [List.filter_eq_nil_iff]
    intro b hb
    simp
    intro a ha
    have := hh b hb a ha
    omega
  simp [checkArmed, armedHit, hn, leastOf]

end Sys2Proof.Machine
end

