-- ==== Sys2Proof/Tests/Slice0.lean ====
section
/-!
SUPPORT. The model's own tests: words written out from the spec's encodings, the checks of well-formedness,
single steps with results taken from the rules, and for each statement of Obligations.lean states and operands
that meet its hypotheses.
-/
namespace Sys2Proof.Tests
open Sys2Proof Sys2Proof.Machine

/-! ## Small states -/

/-- The guard p0 in a slot. -/
def on (sl : Slot) : Hd := ⟨sl, false, 0⟩

/-- A core bound to kernel 0, with a code section of one fetch line. -/
def core0 : Core := { kid := some 0, codeSize := 64 }

/-- The module with one running kernel whose only core is core 0. -/
def with_ (c : Core) (k : Kernel) : State := { State.reset with kernels := [(0, k)], cores := [(0, c)] }

/-- The same with the plain kernel. -/
def at_ (c : Core) : State := with_ c fetchKernel

/-- Core 0 with values in g1 to g3. -/
def regs (a b c : Word64) : Core := { core0 with g := [(1, a), (2, b), (3, c)] }

/-- A page of sync memory, of the Cistern, and of the Well. -/
def page (va phys kind : Nat) : PageT :=
  { va := va, size := 0x10000, phys := phys, kind := kind, write := true, near := true, anchor := 0, enc := false, key := 0 }

theorem runs_plain {s : State} {h : Hd} {reads : List RegName} (h1 : enabled s.me h = true)
    (h2 : s.me.suppNow.getLsbD h.slot.num = false) (h3 : s.me.ue = []) (h4 : pendDbg s s.me = false) :
    slotRuns s h reads := by
  refine ⟨h1, h2, ?_, ?_, ?_⟩
  · simp [hasUe, h3]
  · simp [firstUe, hasUe, h3]
  · simp [firstPending, h4]

theorem noUe_plain {c : Core} {reads : List RegName} (h : c.ue = []) : firstUe c reads = none := by
  simp [firstUe, hasUe, h]

theorem reaches_plain {c : Core} {ea : Word64} {n : Nat} {addrs : List Nat} (h1 : ea.toNat < 2 ^ 20)
    (h2 : ea.toNat % 0x10000 + n ≤ 0x10000) (h3 : c.tiles = []) : reaches c ea n addrs := by
  refine ⟨h1, h2, fun a _ => ?_⟩
  simp [engineOwned, tileOf, h3, tget]

theorem errorFree_plain {c : Core} {addrs : List Nat} (h : c.ue = []) : errorFree c addrs := by
  intro a _
  simp [h]

theorem unarmed_plain {c : Core} {addrs : List Nat} (h : c.dir = []) : unarmed c addrs := by
  intro b hb
  simp [h] at hb

theorem unarmedIn_plain {c : Core} {rs : List (Nat × Nat)} (h : c.dir = []) : unarmedIn c rs := by
  intro b hb
  simp [h] at hb

theorem inRecords_plain {code a n : Nat} (h : isQ code = false) : inRecords code a n := fun h2 => by simp [h] at h2

/-! ## States and operands that meet the hypotheses: encoding, slots, scalars, control -/

theorem witness_EncodedBundlesDecode :
    (Instr.add ⟨on .s, 63, 0, .lit 0xFFFFFFFF⟩).wf = true
      ∧ (headOf? (.add ⟨on .s, 63, 0, .lit 0xFFFFFFFF⟩)).isSome = true
      ∧ (encode (.add ⟨on .s, 63, 0, .lit 0xFFFFFFFF⟩)).isSome = true := by decide

theorem witness_OpcodesWithoutRow :
    (unpackFields 0x7800000000FE#48).op = 0
      ∧ ((unpackFields (0x4B#48 <<< 35)).op ≠ 0 ∧ findRow .s (unpackFields (0x4B#48 <<< 35)).op = none
        ∧ (unpackFields (0x4B#48 <<< 35)).op.toNat < 0xE0)
      ∧ ((unpackFields (0xFF#48 <<< 35)).op ≠ 0 ∧ findRow .x (unpackFields (0xFF#48 <<< 35)).op = none
        ∧ 0xE0 ≤ (unpackFields (0xFF#48 <<< 35)).op.toNat) := by decide

theorem witness_SlotGuards :
    (headOf? (.nop ⟨.y, false, 1⟩) = some ⟨.y, false, 1⟩ ∧ enabled core0 ⟨.y, false, 1⟩ = false)
      ∧ (headOf? (.nop (on .s)) = some (on .s) ∧ ({ core0 with suppNow := 1 } : Core).suppNow.getLsbD (on .s).slot.num = true)
      ∧ (headOf? (.done ⟨.y, false, 2⟩) = some ⟨.y, false, 2⟩ ∧ enabled core0 ⟨.y, false, 2⟩ = false
        ∧ hasUe { core0 with ue := [(9, 0x2000)] } (.p 2) = true
        ∧ ({ core0 with regions := [{ target := 0, opened := 0, members := [], hold := [] }] } : Core).regions ≠ []) := by
  decide

theorem witness_SlotsTouchTheirOwnCore :
    headOf? (.nop (on .s)) = some (on .s) ∧ exec (.nop (on .s)) (at_ core0) = .next ((at_ core0).setMe core0) := ⟨rfl, rfl⟩

theorem witness_ScalarArithmetic :
    slotRuns (at_ (regs 5 3 0)) (on .s) (.g 1 :: opbReads (.reg 2)) ∧ slotRuns (at_ core0) (on .a) [.g 63] :=
  ⟨runs_plain rfl rfl rfl rfl, runs_plain rfl rfl rfl rfl⟩

theorem witness_DivisionAndRemainder :
    slotRuns (at_ (regs 0x8000000000000000 0xFFFFFFFFFFFFFFFF 0)) (on .s) (.g 1 :: opbReads (.reg 2))
      ∧ slotRuns (at_ (regs 7 0 0)) (on .s) (.g 1 :: opbReads (.reg 2)) :=
  ⟨runs_plain rfl rfl rfl rfl, runs_plain rfl rfl rfl rfl⟩

theorem witness_MovesAndSelection :
    slotRuns (at_ core0) (on .s) (opbReads (.const 255)) ∧ slotRuns (at_ core0) (on .a) []
      ∧ slotRuns (at_ core0) (on .s) (.g 1 :: .p 15 :: opbReads (.lit 1)) :=
  ⟨runs_plain rfl rfl rfl rfl, runs_plain rfl rfl rfl rfl, runs_plain rfl rfl rfl rfl⟩

theorem witness_MovesBetweenFiles :
    slotRuns (at_ core0) (on .a) [.g 1] ∧ slotRuns (at_ core0) (on .a) [.x 7] ∧ slotRuns (at_ core0) (on .a) [.m 15]
      ∧ slotRuns (at_ core0) (on .a) [.f 63] ∧ slotRuns (at_ core0) (on .a) []
      ∧ (0x30 ≤ (unpackFields (0x36#48 <<< 35)).op.toNat ∧ (unpackFields (0x36#48 <<< 35)).op.toNat ≤ 0x36)
      ∧ ((unpackFields ((0x36#48 <<< 35) ||| (6#48 <<< 23))).op = 0x36
        ∧ 6 ≤ (unpackFields ((0x36#48 <<< 35) ||| (6#48 <<< 23))).a.toNat) :=
  ⟨runs_plain rfl rfl rfl rfl, runs_plain rfl rfl rfl rfl, runs_plain rfl rfl rfl rfl, runs_plain rfl rfl rfl rfl,
    runs_plain rfl rfl rfl rfl, by decide, by decide⟩

theorem witness_PredicateLogic : slotRuns (at_ core0) (on .a) [.p 0, .p 15] := runs_plain rfl rfl rfl rfl

theorem witness_Compares : slotRuns (at_ (regs 1 2 0)) (on .s) (.g 1 :: opbReads (.reg 2)) ∧ slotRuns (at_ core0) (on .a) [.g 1] :=
  ⟨runs_plain rfl rfl rfl rfl, runs_plain rfl rfl rfl rfl⟩

theorem witness_ControlTransfers :
    (slotRuns (at_ core0) (on .s) [] ∧ (at_ core0).me.dly = 0) ∧ slotRuns (at_ core0) (on .s) [.g 63]
      ∧ slotRuns (at_ core0) (on .s) [.g 1]
      ∧ (slotRuns (at_ { core0 with dly := 1 }) (on .s) [] ∧ 0 < (at_ { core0 with dly := 1 }).me.dly)
      ∧ slotRuns (at_ { core0 with dly := 1 }) (on .s) [.g 1]
      ∧ slotRuns (at_ { core0 with dly := 1 }) (on .s) [.g 63] :=
  ⟨⟨runs_plain rfl rfl rfl rfl, rfl⟩, runs_plain rfl rfl rfl rfl, runs_plain rfl rfl rfl rfl,
    ⟨runs_plain rfl rfl rfl rfl, by decide⟩, runs_plain rfl rfl rfl rfl, runs_plain rfl rfl rfl rfl⟩

/-- A loop level of LOOPN. -/
def level : LoopLevel := newLevel (at_ core0) core0 false 64 1 0 0

theorem witness_LoopsPushALevel :
    (slotRuns (at_ (regs 0 0 0)) (on .s) [.g 1] ∧ gAt (regs 0 0 0) 1 = 0)
      ∧ (slotRuns (at_ (regs 1 0 0)) (on .s) [.g 1] ∧ (gAt (regs 1 0 0) 1).toNat < 2 ^ 32 ∧ gAt (regs 1 0 0) 1 ≠ 0
        ∧ (regs 1 0 0).cur.next < 0xFFFFF ∧ (regs 1 0 0).loops.length < 6
        ∧ (regs 1 0 0).loops.any (·.modulo) = false)
      ∧ (slotRuns (at_ { regs 1 0 0 with loops := List.replicate 6 level }) (on .s) [.g 1]
        ∧ 6 ≤ (List.replicate 6 level).length)
      ∧ 2 ^ 32 ≤ (gAt (regs 0x100000000 0 0) 1).toNat ∧ (0x7FFFFF#32).toNat < 2 ^ 23 ∧ 0 < (0x7FFFFF#32).toNat % 2 ^ 20
      ∧ [{ level with modulo := true }].any (·.modulo) = true :=
  ⟨⟨runs_plain rfl rfl rfl rfl, rfl⟩, ⟨runs_plain rfl rfl rfl rfl, by decide⟩, ⟨runs_plain rfl rfl rfl rfl, by decide⟩,
    by decide, by decide, by decide, rfl⟩

theorem witness_SpecialRegisters :
    slotRuns (at_ core0) (on .s) [] ∧ slotRuns (at_ core0) (on .s) [.g 1]
      ∧ (slotRuns (at_ { core0 with mode := .handler }) (on .s) [] ∧ ({ core0 with mode := .handler } : Core).mode ≠ .task)
      ∧ (at_ core0).kernelOf core0 = some fetchKernel
      ∧ ((gAt (regs 3 4 0) 1).toNat % 8 < 4 ∧ ¬((gAt (regs 3 4 0) 2).toNat % 8 < 4 ∨ ((gAt (regs 3 4 0) 2).toNat % 8 = 4
        ∧ ctxConfig (at_ (regs 3 4 0)) 0 % 2 = 1)))
      ∧ (codeReserved 12 = false ∧ codeReserved 13 = true) :=
  ⟨runs_plain rfl rfl rfl rfl, runs_plain rfl rfl rfl rfl, ⟨runs_plain rfl rfl rfl rfl, by decide⟩, rfl, by decide, by decide⟩

/-! ## Private memory and vectors -/

theorem witness_Loads :
    (slotRuns (at_ (regs 0xFFF8 0 0)) (on .m) [.g 1] ∧ isQ (bankCode core0 (bankOf 0xFFF8)) = false
      ∧ (0xFFF8#64).toNat % elemBytes (bankCode core0 (bankOf 0xFFF8)) = 0
      ∧ reaches core0 0xFFF8 8 (span 0xFFF8 8) ∧ errorFree core0 (span 0xFFF8 8))
      ∧ (slotRuns (at_ { regs 0 0 0 with bfmt := 8 }) (on .m) [.g 1]
        ∧ isQ (bankCode { regs 0 0 0 with bfmt := 8 } (bankOf 0)) = true)
      ∧ (0xFFF9#64).toNat % 2 ≠ 0 :=
  ⟨⟨runs_plain rfl rfl rfl rfl, by decide, by decide, reaches_plain (by decide) (by decide) rfl, errorFree_plain rfl⟩,
    ⟨runs_plain rfl rfl rfl rfl, by decide⟩, by decide⟩

theorem witness_Stores :
    (slotRuns (at_ (regs 0xFFFFF 1 0)) (on .m) [.g 2, .g 1] ∧ reaches core0 0xFFFFF 1 (span 0xFFFFF 1)
      ∧ unarmed core0 (span 0xFFFFF 1))
      ∧ 2 ^ 20 ≤ (0x100000#64).toNat
      ∧ engineOwned { core0 with tiles := [(1, { st := .engaged })] } 1 = true
      ∧ Memory.wf core0.priv = true
      ∧ armedHit { core0 with dir := [0xFFFF0] } (span 0xFFFFF 1) = some 0xFFFF0
      ∧ reaches { core0 with dir := [0xFFFF0] } 0xFFFFF 1 (span 0xFFFFF 1) :=
  ⟨⟨runs_plain rfl rfl rfl rfl, reaches_plain (by decide) (by decide) rfl, unarmed_plain rfl⟩, by decide, by decide, by decide,
    by decide, reaches_plain (by decide) (by decide) rfl⟩

theorem witness_VectorMemoryAndMoves :
    (slotRuns (at_ core0) (on .m) [.v 1, .g 1] ∧ reaches core0 0 256 (span 0 256) ∧ unarmed core0 (span 0 256)
      ∧ (0#64).toNat % elemBytes (bankCode core0 0) = 0)
      ∧ (let c := { core0 with bfmt := 8 }
         isQ (bankCode c 0) = true ∧ qGroup (bankCode c 0) ≠ 128)
      ∧ (slotRuns (at_ core0) (on .v0) (.m 15 :: opbLaneReads (.lit 1)) ∧ mRead core0 15 = 0 ∧ mRead core0 0 ≠ 0)
      ∧ (slotRuns (at_ core0) (on .v1) [.v 63, .m 0] ∧ (mRead core0 0).getLsbD 63 = true
        ∧ (mRead core0 1).getLsbD 63 = false) :=
  ⟨⟨runs_plain rfl rfl rfl rfl, reaches_plain (by decide) (by decide) rfl, unarmed_plain rfl, by decide⟩, by decide,
    ⟨runs_plain rfl rfl rfl rfl, by decide⟩, ⟨runs_plain rfl rfl rfl rfl, by decide⟩⟩

theorem witness_VectorArithmetic :
    slotRuns (at_ core0) (on .v0) (.v 1 :: .m 1 :: opbLaneReads (.reg 2)) ∧ slotRuns (at_ core0) (on .v1) [.v 1]
      ∧ slotRuns (at_ core0) (on .v0) (.v 1 :: .v 3 :: .m 0 :: opbLaneReads (.reg 2))
      ∧ slotRuns (at_ core0) (on .v0) [.v 1, .m 0] ∧ f32IsNaN 0x7F800001 = true :=
  ⟨runs_plain rfl rfl rfl rfl, runs_plain rfl rfl rfl rfl, runs_plain rfl rfl rfl rfl, runs_plain rfl rfl rfl rfl, by decide⟩

theorem witness_VectorCompares :
    slotRuns (at_ core0) (on .v0) (.v 1 :: .m 1 :: opbLaneReads (.reg 2)) ∧ (3#3).toNat < 4 :=
  ⟨runs_plain rfl rfl rfl rfl, by decide⟩

theorem witness_VectorSelectAndPermute :
    slotRuns (at_ core0) (on .v0) (.v 1 :: .m 3 :: .m 1 :: opbLaneReads (.reg 2))
      ∧ slotRuns (at_ core0) (on .v1) (.v 1 :: .m 1 :: opbLaneReads (.reg 2)) :=
  ⟨runs_plain rfl rfl rfl rfl, runs_plain rfl rfl rfl rfl⟩

theorem witness_VectorReductionsAndConversions :
    slotRuns (at_ core0) (on .v0) [.v 1, .m 1] ∧ mRead core0 1 = 0 ∧ (mRead core0 0).getLsbD 63 = true :=
  ⟨runs_plain rfl rfl rfl rfl, by decide, by decide⟩

theorem witness_TransformUnits :
    slotRuns (at_ core0) (on .v1) [.v 1, .v 2, .m 0] ∧ slotRuns (at_ core0) (on .v1) [.m 0]
      ∧ tieBad 0x8000 = false ∧ tieBad 0 = true
      ∧ firstUe (at_ core0).me (startConsts 0 1 (vAt core0 1) (vAt core0 2)) = none :=
  ⟨runs_plain rfl rfl rfl rfl, runs_plain rfl rfl rfl rfl, by decide, by decide, noUe_plain rfl⟩

/-! ## The matrix block, pump commands, barriers -/

/-- A routine image of one digital step on row 0 of segment 0 that pushes once (R363). -/
def routine : List Byte :=
  [0x48, 0x4A, 0x39, 0x4D, 1, 0, 1, 0, 14, 0, 0, 0, 13, 0, 0, 0, 1, 0, 0, 0, 1, 1, 0, 1] ++ List.replicate 488 0

/-- An MCALL of that routine, in its commit cycle. -/
def call : MCall :=
  { tag := 7, image := routine, s := 0, clip := 0, sparse := 0, x0 := 0, x1 := 0, x7 := 0, head := 0, issue := 0
    len := 14, k := 14, sys := false, reexec := none }

/-- The bytes of a list that are not 0, as a memory from address 0 up. -/
def placed (bs : List Byte) : Memory := writeBytes [] 0 bs

/-- Core 0 with that routine under tag 7 and loaded slots. -/
def ready : Core :=
  { regs 0 1 0x40 with
    store := [(0, (7, routine))], acts := [(0, { st := .loaded, code := 11, rows := 1 })]
    wts := [(0, { st := .loaded }), (1, { st := .claimed })] }

/-- A kernel that claims every bay with full budgets, SMAX 6, one page of each kind. -/
def rich : Kernel :=
  { fetchKernel with
    decl := List.replicate 0x40 0 ++ List.replicate 0xC0 0xFF, record := List.replicate 9 0 ++ [6]
    pages := [page 0x10000 0x10000 2, page 0x20000 0x20000 0, page 0x30000 0x4000000000 1] }

set_option maxRecDepth 20000 in
theorem witness_MatrixUnitIssues :
    (slotRuns (at_ ready) (on .x) [] ∧ (wtOf ready 2).st = .free ∧ (wtOf ready 1).st ≠ .free ∧ (wtOf ready 1).use = 0
      ∧ (actOf ready 1).st = .free ∧ (actOf ready 0).st = .loaded)
      ∧ (slotRuns (at_ { ready with bfmt := 11 }) (on .x) [.g 1, .g 2]
        ∧ rowElems (bankCode { ready with bfmt := 11 } (bankOf 0)) ≠ 0 ∧ (gAt ready 2).toNat ≤ 96 ∧ ready.oload = none
        ∧ slotIdle (actOf ready 0).st (actOf ready 0).use = true
        ∧ reaches { ready with bfmt := 11 } 0 128 (span 0 128) ∧ errorFree ready (span 0 128) ∧ inRecords 11 0 128)
      ∧ (rowElems 7 ≠ 0 ∧ (0xFF40#64).toNat % 64 = 0 ∧ 0xFF40 / 0x10000 = (0xFF40 + rowBytes 7 - 1) / 0x10000
        ∧ ¬inRecords 7 0xFF40 (rowBytes 7))
      ∧ (slotRuns (with_ ready rich) (on .x) [.g 1] ∧ slotIdle (wtOf ready 1).st (wtOf ready 1).use = true
        ∧ findPage rich.pages 0x20000 = some (page 0x20000 0x20000 0) ∧ (0x20000 : Nat) % 0x4000 = 0 ∧ ready.wload = none)
      ∧ (imageRefused routine = none ∧ imageRefused (List.replicate 512 0) = some 1
        ∧ reaches core0 0xFE00 512 (span 0xFE00 512) ∧ (0xFE00#64).toNat % 64 = 0 ∧ (1#64).toNat % 64 ≠ 0) :=
  ⟨⟨runs_plain rfl rfl rfl rfl, by decide⟩,
    ⟨runs_plain rfl rfl rfl rfl, by decide, by decide, rfl, by decide, reaches_plain (by decide) (by decide) rfl,
      errorFree_plain rfl, inRecords_plain (by decide)⟩,
    ⟨by decide, by decide, by decide, fun h => absurd (h (by decide) 0xFFC0 (by decide) (by decide)) (by decide)⟩,
    ⟨runs_plain rfl rfl rfl rfl, by decide, by decide, by decide, rfl⟩,
    ⟨by decide, by decide, reaches_plain (by decide) (by decide) rfl, by decide, by decide⟩⟩

set_option maxRecDepth 20000 in
theorem witness_RoutineAndEpilogueIssues :
    (slotRuns (with_ ready rich) (on .x) [.x 0, .x 1, .x 7] ∧ splitMax (with_ ready rich) ready = 6
      ∧ findTag ready 7 = some routine ∧ findTag ready 8 = none ∧ ready.mcall = none ∧ imgKind routine = 0
      ∧ (∀ st ∈ stepsOf routine, stepRefused ready 0 0 0 0 st = none) ∧ imgCoop routine = false
      ∧ sparseFault ready call = none)
      ∧ (let c := { ready with
           epicfg := 64, ring := [(0, { st := .queued })], bfmt := 0
           priv := placed (List.replicate 64 0 ++ [1, 0, 1, 0, 0, 0, 1, 0, 64]) }
         slotRuns (at_ c) (on .x) [.g 1] ∧ (gAt c 1).toNat % 64 = 0 ∧ (ringOf c c.tail).st = .queued ∧ c.pop = none
           ∧ popRefused (readBytes c.priv 64 64) (bankCode c 0) = false ∧ reaches c 0 64 [] ∧ reaches c 64 64 [64]
           ∧ errorFree c [64] ∧ (∀ r ∈ popRanges (readBytes c.priv 64 64) (bankCode c 0) 0, inRecords (bankCode c 0) r.1 r.2)
           ∧ unarmedIn c (popRanges (readBytes c.priv 64 64) (bankCode c 0) 0))
      ∧ (slotRuns (at_ core0) (on .x) [] ∧ core0.epicfg = 0) :=
  ⟨⟨runs_plain rfl rfl rfl rfl, by decide⟩,
    ⟨runs_plain rfl rfl rfl rfl, by decide, by decide, rfl, by decide, reaches_plain (by decide) (by decide) rfl,
      reaches_plain (by decide) (by decide) rfl, errorFree_plain rfl, fun _ _ => inRecords_plain (by decide),
      unarmedIn_plain rfl⟩,
    ⟨runs_plain rfl rfl rfl rfl, rfl⟩⟩

/-- A PMP.CP command of one element from the core memory to cluster SRAM (R391). -/
def copyOut : List Byte := List.replicate 0x1A 0 ++ [4] ++ List.replicate 53 0

set_option maxRecDepth 20000 in
theorem witness_CalibrationAndPumpCommands :
    (slotRuns (at_ (regs 0x7FF 0x781 0)) (on .x) [.g 1] ∧ (gAt (regs 0x781 0 0) 1).toNat < 0x800
      ∧ (gAt (regs 0x781 0 0) 1).toNat % 256 = 129 ∧ ¬((gAt (regs 0x7FF 0 0) 1).toNat % 256 ≤ 129))
      ∧ (slotRuns (at_ { regs 0 0 0 with mode := .handler }) (on .x) [.g 1, .g 2] ∧ macroBusy core0 7 = false)
      ∧ (let c := { regs 0 1 0 with priv := placed copyOut }
         slotRuns (at_ c) (on .e) [.g 1, .g 2, .g 0] ∧ (at_ c).kernelOf c = some fetchKernel
           ∧ pumpRefused (at_ c) fetchKernel 1 0 0 c.bfmt (readBytes c.priv 0 80) 12 = none
           ∧ pumpBarred fetchKernel 1 c.bfmt (readBytes c.priv 0 80) 12 = none ∧ c.buf.length < 32
           ∧ (at_ c).ttcOf c < (gAt c 2).toNat ∧ reaches c 0 80 (span 0 80) ∧ errorFree c (span 0 80))
      ∧ slotRuns (at_ { core0 with mode := .stub }) (on .e) [.g 1, .g 2, .g 0] :=
  ⟨⟨runs_plain rfl rfl rfl rfl, by decide⟩, ⟨runs_plain rfl rfl rfl rfl, by decide⟩,
    ⟨runs_plain rfl rfl rfl rfl, rfl, by decide, by decide, by decide, by decide,
      reaches_plain (by decide) (by decide) rfl, errorFree_plain rfl⟩,
    runs_plain rfl rfl rfl rfl⟩

theorem witness_OwnershipAndBarriers :
    (slotRuns (at_ core0) (on .e) [] ∧ 255 + 1 ≤ 256 ∧ (tileOf core0 255).st ≠ .engaged)
      ∧ (let c := { regs 0xFFFF0 0 1 with dir := [0xFFFF0] }
         slotRuns (at_ c) (on .e) [.g 1, .g 2] ∧ (gAt c 1).toNat % 16 = 0 ∧ (gAt c 1).toNat < 2 ^ 20
           ∧ (gAt c 1).toNat ∈ c.dir ∧ bitsOf (gAt c 2).toNat 63 56 = 0 ∧ (gAt c 3).toNat % 16 ≠ 0
           ∧ heldCounts c 0xFFFF0 = false ∧ (coreBar c 0xFFFF0).phase = 0 ∧ (coreBar c 0xFFFF0).abort = false
           ∧ errorFree c (span 0xFFFF0 16))
      ∧ (core0.dir.length < 64 ∧ (0 : Nat) ∉ core0.dir)
      ∧ (holdFull core0 0 = false ∧ handleBad ({ self := 0, nodes := 1 } : Link) (2 ^ 47) = true)
      ∧ ((0x00205#20).toNat % 256 + 3 ≤ 256 ∧ (tileOf { core0 with tiles := [(7, { st := .engaged })] } 7).st = .engaged
        ∧ (tileOf { core0 with tiles := [(7, { st := .engaged })] } 6).st ≠ .engaged)
      ∧ ((tileOf { core0 with tiles := [(0, { st := .engaged })] } 0).st = .engaged
        ∧ ((List.range 64).map (fun k => 16 * (k + 1))).length = 64 ∧ 0 ∉ (List.range 64).map (fun k => 16 * (k + 1))
        ∧ (gAt (regs 0x100000 0 0) 1).toNat % 16 = 0 ∧ 2 ^ 20 ≤ (gAt (regs 0x100000 0 0) 1).toNat) :=
  ⟨⟨runs_plain rfl rfl rfl rfl, by decide⟩,
    ⟨runs_plain rfl rfl rfl rfl, by decide, by decide, by decide, by decide, by decide, by decide, by decide, by decide,
      errorFree_plain rfl⟩, by decide, by decide, by decide, by decide⟩

theorem witness_BarrierFlips :
    (let b : Bar := barOf (List.replicate 16 0)
     b.abort = false ∧ b.sect + 0 = 0 ∧ -(2 ^ 31 : Int) ≤ b.sect + (2 ^ 31 - 1) ∧ ¬(b.arrv + 2 ^ 23 < 2 ^ 23)
       ∧ b.phase < 16 ∧ b.stray < 256 ∧ b.acause < 256 ∧ b.dline < 2 ^ 32 ∧ b.tmow < 256)
      ∧ ({ barOf (List.replicate 16 0) with abort := true, stray := 255 } : Bar).stray ≤ 255 := by decide

theorem witness_KeystoneAndPersistIssues :
    (let c := regs 0x10008 3 0
     let s := with_ c rich
     slotRuns s (on .e) [.g 1, .g 2] ∧ s.kernelOf s.me = some rich
       ∧ findPage rich.pages (gAt c 1).toNat = some (page 0x10000 0x10000 2) ∧ (gAt c 1).toNat % 8 = 0
       ∧ isPool rich.pools (page 0x10000 0x10000 2) = false ∧ claimsBay rich.decl 3 (bayOf s.cyc) = true
       ∧ tget 0 c.counts 3 + 1 ≤ budgetOf rich.decl 3)
      ∧ ((0x10001#64).toNat % 4 ≠ 0 ∧ findPage rich.pages 0x40000 = none)
      ∧ (let c := { regs 0x20000 0x10 0 with dir := [0x10] }
         let s := with_ c rich
         slotRuns s (on .e) [.g 1] ∧ checkRange rich.pages (gAt c 1).toNat 192 false (fun p => p.kind == 0) = none
           ∧ holdFull c 0 = false ∧ (gAt c 1).toNat % 64 = 0 ∧ (gAt c 2).toNat % 16 = 0 ∧ (gAt c 2).toNat ∈ c.dir
           ∧ collInStream s 0 0x20000 = false ∧ s.link.colls = []) :=
  ⟨⟨runs_plain rfl rfl rfl rfl, rfl, by decide⟩, by decide, ⟨runs_plain rfl rfl rfl rfl, by decide⟩⟩

/-! ## System instructions, traps, landing -/

/-- An open region. -/
def region : Region := { target := 0, opened := 0, members := [], hold := [] }

theorem witness_SystemInstructions :
    (slotRuns (at_ (regs 1 0 0)) (on .y) (opbReads (.reg 1)) ∧ (at_ core0).ttcOf core0 < (gAt (regs 1 0 0) 1).toNat
      ∧ (gAt (regs 0 0 0) 1).toNat ≤ (at_ core0).ttcOf core0)
      ∧ (slotRuns (at_ core0) (on .y) [] ∧ core0.mode = .task ∧ core0.regions = [])
      ∧ (slotRuns (at_ { core0 with regions := List.replicate 4 region }) (on .y) []
        ∧ 4 ≤ (List.replicate 4 region).length ∧ List.replicate 4 region ≠ [])
      ∧ slotRuns (at_ { core0 with regions := [region], upend := [(0, 1, 0)] }) (on .y) []
      ∧ slotRuns (at_ { core0 with mode := .handler }) (on .y) []
      ∧ (at_ core0).kernelOf core0 = some fetchKernel :=
  ⟨⟨runs_plain rfl rfl rfl rfl, by decide⟩, ⟨runs_plain rfl rfl rfl rfl, rfl, rfl⟩, ⟨runs_plain rfl rfl rfl rfl, by decide⟩,
    runs_plain rfl rfl rfl rfl, runs_plain rfl rfl rfl rfl, rfl⟩

theorem witness_TrapsAndReturns :
    (let t : TrapReq := ⟨0x3F, 1, 0, 7, false⟩
     let c := { core0 with tvb := 64 }
     t.code < 0x40 ∧ c.mode = .task ∧ c.tvb ≠ 0 ∧ c.done = false ∧ c.pc < 2 ^ 64 ∧ c.dly < 4 ∧ c.br < 2 ^ 64
       ∧ ∀ l ∈ c.loops, l.sys = false)
      ∧ ((0x40 : Nat) ≥ 0x40 ∧ core0.tvb = 0 ∧ ({ core0 with mode := .stub } : Core).mode ≠ .task) := by decide

theorem witness_ResultsLand : (15 : Nat) < 16
    ∧ (let l : Landing := { write := .g 1 2, due := .cyc 0, rank := 0, issue := 0, slot := 0, long := false }
       l.shadow = none ∧ l.lost = false ∧ ({ l with lost := true } : Landing).lost = true) := by decide

/-! ## Engines, Keystones, the boundary -/

/-- Slots whose first plane sum is 17 · 127, which clips (R370). -/
def loud : Core :=
  { ready with
    acts := [(0, { st := .loaded, code := 11, rows := 1, bytes := List.replicate 17 1 })]
    wts := [(0, { st := .loaded, bytes := List.replicate 2049 0x7F })] }

set_option maxRecDepth 200000 in
theorem witness_MatrixCompletions :
    (let o : OLoad := { slot := 0, addr := 0, size := 384, code := 11, rows := 3, issue := 0, k := 5, sys := false
                        data := [], failed := false }
     let w : WLoad := { slot := 0, va := 0, int4 := false, src := .cisternB, issue := 0, k := 304, sys := false
                        data := [], ue := false }
     let m : MpLoad := { place := 31, tag := 0xFFF, image := routine, due := .cyc 0 }
     let c := { ready with oload := some o, wload := some w, mploads := [m] }
     ((at_ c).core 0).oload = some o ∧ oloadLatency o ≤ o.k ∧ ((at_ c).core 0).wload = some w
       ∧ wloadLatency w.src ≤ w.k ∧ ((at_ c).core 0).mploads = [m] ∧ m.due.reached (at_ c) c = true
       ∧ ({ o with failed := true } : OLoad).failed = true ∧ ((at_ c).core 0).glitch = none)
      ∧ (((at_ { ready with mcall := some call }).core 0).mcall = some call ∧ imgCoop call.image = false
        ∧ call.len ≤ call.k ∧ mcallClips ready call = [])
      ∧ mcallClips loud { call with s := 6, clip := 2, len := 13 } ≠ []
      ∧ ({ call with reexec := some 0 } : MCall).reexec = some 0 := by
  refine ⟨⟨rfl, by decide, rfl, by decide, rfl, by decide, rfl, rfl⟩, ⟨rfl, by decide, by decide, by decide⟩, ?_, rfl⟩
  decide

/-- A captured PMP.CP that starts now, and a CTAB.LD in its last cycle. -/
def due1 : PumpCmd :=
  { op := 1, start := 0, issue := 0, mode := 0, variant := 12, barrier := 0, desc := copyOut, codes := 0xCCCCCCCCCCCCCCCC, order := 0 }

def tableRun : PumpRun :=
  { cmd := { due1 with op := 6, variant := 96 }, k := 24, beats := 24, lat := 0, srcKind := 1, dstKind := 0, list := []
    units := [], nextU := 0, resid := .zero, carry := [], fp := {}, elems := 0, oor := 0, tiles := [], table := [], trap := none
    wsrc := [], wdst := [], stopped := false }

theorem witness_Engines :
    (let c := { core0 with buf := [due1], tiles := [(0, { st := .given })] }
     (at_ c).kernelOf c = some fetchKernel ∧ fetchKernel.st = .running ∧ fetchKernel.flows = true
       ∧ dueCommands c fetchKernel.ttc = [due1] ∧ (srcSide fetchKernel copyOut).far = false
       ∧ (dstSide fetchKernel copyOut).far = false
       ∧ privateRanges due1 (srcSide fetchKernel copyOut) (dstSide fetchKernel copyOut) = ([(0, 4)], [])
       ∧ engineOwned c 0 = true ∧ engineOwned core0 0 = false ∧ c.dir = [] ∧ armedIn { c with dir := [0] } [(0, 4)] = some 0)
      ∧ (∀ x ∈ [{ due1 with start := 1 }], fetchKernel.ttc < x.start)
      ∧ (let o : Pop := { cfg := 0, dst := 0, header := [], params := [], mode := 0, code := 0, entry := 7, issue := 0, k := 21
                          beats := 1, sys := false, failed := false, out := [] }
         ((at_ { core0 with pop := some o }).core 0).pop = some o ∧ 20 + o.beats ≤ o.k)
      ∧ (((at_ { core0 with runs := [tableRun] }).core 0).runs = [tableRun] ∧ tableRun.cmd.op = 6 ∧ tableRun.k = 24
        ∧ tableRun.stopped = false)
      ∧ flowsFor (at_ core0) core0 false = true := by
  decide

/-- A fetch-and-add of 5 to the word at 0x10000, due now; and a RED.COMB of it. -/
def addOp : KOp :=
  { phys := 0, kid := 0, role := 0, kind := .atomic 0 0 5 0, va := 0x10000, addr := 0x10000, perform := 0, due := .ttc 40
    issue := 0, d := 4, pair := 0 }

theorem witness_KeystonesPerform :
    (let s := { with_ core0 rich with ks := { ops := [addOp] } }
     firstOp s.cyc s.ks.ops = some addOp ∧ s.mem.ue.contains (8, addOp.addr / 64) = false ∧ struck (s.core 0) 4 = none
       ∧ struck { core0 with glitch := some ⟨4, 0, 9⟩ } 4 = some ⟨4, 0, 9⟩
       ∧ Memory.wf s.mem.kmem = true ∧ (5#64).toNat < 2 ^ (8 * typeWidth 0))
      ∧ (let o := { addOp with kind := .redComb 1 }
         let l : Staging := { kid := 0, pier := 0, word := 0x10000, float := false, slots := [(1, 7), (2, 9)] }
         firstOp 0 [o] = some o ∧ (∀ x ∈ [l], x.kid = o.kid → x.word = o.addr → x.float = false))
      ∧ (let o := { addOp with kind := .redAdd 2 7 }
         let l : Staging := { kid := 0, pier := 0, word := 0x10000, float := true, slots := [(1, 7)] }
         let find := fun (ls : List Staging) => ls.find? (fun l => l.kid == o.kid && l.word == o.addr)
         let full := List.replicate 64 { l with word := 0x10040 }
         firstOp 0 [o] = some o ∧ find [l] = some l ∧ find [] = none ∧ find full = none
           ∧ ¬(full.filter (fun l => l.kid == o.kid && l.pier == homeOf State.reset o.addr)).length < 64)
      ∧ core0.engTrap = none := by
  decide

/-- A command of the outbound stream, and the stream of role 0. -/
def out (k : OutKind) : OutCmd := { kind := k, start := 0, epoch := 0, barrier := none, sent := 0, order := 0 }

def stream (os : List OutCmd) : Stream :=
  { kid := 0, role := 0, cmds := os, pbars := [], depoch := 0, epoch := 1, flagUntil := 0, final := none }

set_option maxRecDepth 20000 in
theorem witness_OutboundCommandsLeave :
    ∀ k ∈ ([.coll 0x20000, .arrive 0x10000000000, .fence false, .fence true,
        .remoteWrite 1 [0x40, 0x80, 0x100] 0 (List.replicate 192 0), .remoteRead 0 [0x40], .remoteRead 1 [0x40]] : List OutKind),
      let s := { at_ core0 with streams := [stream [out k]] }
      (streamsOn s 0).find? (sendReady s) = some (stream [out k]) ∧ nextSend (stream [out k]).cmds false = some (out k, false) := by
  decide

/-- An accepted sector. -/
def sector (src : Option (Nat × Nat × Nat)) : WellSector :=
  { addr := 0x20004000000, data := List.replicate 64 1, key := 0, src := src }

theorem witness_WellSectorsPersist :
    (let o := out (.wellWrite [(0x20004000000, 0)] (List.replicate 64 1))
     let s := { at_ core0 with streams := [stream [o]] }
     (streamsOn s 0).findSome? (fun t => (nextWell t.cmds).map (fun o => (t, o))) = some (stream [o], o))
      ∧ (let s := { at_ core0 with mem := { pend := [sector none] } }
         s.mem.pend[0]? = some (sector none) ∧ mayPersist s 0 (sector none) = true ∧ (sector none).data.length = 64
           ∧ (sector none).addr % 64 = 0 ∧ Memory.wf s.mem.phys = true)
      ∧ (let w := sector (some (0, 0, 0))
         let s := { at_ core0 with mem := { pend := [w] } }
         s.mem.pend[0]? = some w ∧ mayPersist s 0 w = true ∧ recordAt 63 15 + 0x0C < w.addr)
      ∧ (let s := { at_ core0 with mem := { pend := [sector none, sector (some (0, 0, 1))] } }
         s.mem.pend[1]? = some (sector (some (0, 0, 1))) ∧ mayPersist s 1 (sector (some (0, 0, 1))) = false)
      ∧ (let s := { at_ core0 with streams := [stream []] }
         (streamsOn s 0).find? (epochReady s) = some (stream []) ∧ (stream []).final = none) := by
  decide

/-- A read that has come back, from the Well or a node. -/
def readBack (node : Option Nat) : PendingRead :=
  { kid := 0, role := 0, attempt := 0, barrier := none, dst := 0, dstKind := 0, src := 0x20004000000, node := node
    data := some (List.replicate 64 0) }

theorem witness_ReadsReturnAndBarriersTimeOut :
    (let s := { at_ core0 with mem := { reads := [readBack (some 1), readBack none] } }
     s.mem.reads[0]? = some (readBack (some 1)) ∧ s.mem.reads[1]? = some (readBack none)
       ∧ mayLand s (readBack (some 1)).inst = true ∧ mayLand s (readBack none).inst = true
       ∧ s.mem.ue.contains (7, (readBack none).src / 64) = false)
      ∧ (let b : Bar := { barOf (List.replicate 16 0) with armed := true, tmow := 255, dline := 0 }
         b.armed = true ∧ b.abort = false ∧ b.tmow ≠ 0 ∧ b.dline ≤ 0 ∧ 2 ^ 31 - 1 < b.dline + 2 ^ 31
           ∧ barExpired 0 b = true ∧ (∀ c, c ∈ [{ core0 with dir := [0] }] → 0 ∈ c.dir))
      ∧ (core0.dir = [] ∧ (barOf (List.replicate 16 0)).armed = false) := by
  decide

theorem witness_ServiceCoreWrites :
    (hasStorage 0xBFFFFFFFF = true ∧ pagesHeld (at_ core0) 0xBFFFFFFFF 1 = false)
      ∧ (hasStorage 0x10000 = true
        ∧ pagesHeld { at_ core0 with ks := { pages := [(1, { resident := true })] } } 0x8000 0x8001 = true)
      ∧ (let w : WellSector := { addr := 0x20004000000, data := [], key := 0, src := none, svc := some (3, 0x20004000000, 64) }
         ({ pend := [w] } : Mem).pend = [w] ∧ w.src = none ∧ w.svc = some (3, 0x20004000000, 64))
      ∧ ((0x40000000000 - 64 : Nat) % 64 = 0 ∧ 0x20004000000 ≤ (0x40000000000 - 64 : Nat)
        ∧ ∀ w ∈ (at_ core0).mem.pend, w.addr / 64 ≠ 1)
      ∧ (hasStorage 0xC00000000 = false ∧ hasStorage 0x4200000000 = false ∧ hasStorage 0x40000000000 = false) := by
  decide

/-! ## Messages, ports, time -/

/-- A data flit from node 1. -/
def flit : Flit :=
  { type := 1, nsect := 1, fidx := 0, mlen := 1, epoch := 0, hops := 0, resent := false, abortLate := false, csram := false
    value := 0, dstep := 0, srcep := 0x100, seq := 1, stamp := 0, addr := 0, payload := List.replicate 64 0, fseq := 0
    lack := 0, handle := 0, request := none, crcOk := true }

/-- A message that waits, of a type, to an address. -/
def inb (type addr : Nat) : Inbound :=
  { node := 1, type := type, seq := 1, stamp := 0, addr := addr, csram := false, value := 0, ctx := 0
    data := List.replicate 64 0, total := 1, handle := 0, port := 0 }

/-- A message that waits for its acknowledgement. -/
def sent : Message :=
  { node := 1, type := 2, seq := 1, stamp := 0, addr := 0, csram := false, handle := 0, value := 0, ctx := 0, data := []
    resent := false, port := none, ref := none, owner := none }

theorem witness_MessagesArriveAndAreAcknowledged :
    ((nodeOf (at_ core0).link 1).isDup 1 = false ∧ (at_ core0).link.partial_ = []
      ∧ 64 * flit.mlen ≤ (flit.payload.take (64 * flit.nsect)).length)
      ∧ ((nodeOf ({ status := [(1, { applied := 1 })] } : Link) 1).isDup 1 = true ∧ 0 < ({ flit with fidx := 1 } : Flit).fidx)
      ∧ (let f := { flit with payload := [1, 0, 0, 0, 0, 0, 0, 0] }
         fieldLE f.payload 0 4 = 1 ∧ fieldLE f.payload 4 4 = 0)
      ∧ fieldLE flit.payload 0 4 = 0
      ∧ ackOverdue (at_ core0) 1 = false
      ∧ ackOverdue { at_ core0 with link := { unacked := [sent], clock := 192000000 } } 1 = true := by
  decide

/-- A kernel with a SYS level and pages, as an endpoint (R249). -/
def endKernel : Kernel := { rich with decl := List.replicate 6 0 ++ [1] ++ List.replicate 0x39 0 ++ List.replicate 0xC0 0xFF }

/-- The place of a message's next sector, and the ways it is thrown away, as data: none, 1, 2 and 3; 4 in
cluster SRAM, 5 for a collective. -/
def fate (s : State) (m : Inbound) : Option (List (Nat × Nat × Nat)) × Nat :=
  match dataFate s m with
  | .lands (.phys ps) => (some ps, 0)
  | .lands (.csram _) => (none, 4)
  | .lands (.coll _ _) => (none, 5)
  | .dup => (none, 1)
  | .stray => (none, 2)
  | .outset => (none, 3)

set_option maxRecDepth 40000 in
theorem witness_DataAndFlagsApply :
    (let m := inb 1 0x20000
     let s := { with_ core0 { endKernel with decl := List.replicate 6 0 ++ [1] ++ List.replicate 0xF9 0 } with
       cyc := 32, link := { inbound := [m] } }
     firstInbound (s.link.inbound.filter (dataReady s)) = some m ∧ fate s m = (some [(0x20000, 0, 64)], 0)
       ∧ m.data.length ≤ 64)
      ∧ (let m := inb 1 0x50000
         fate { with_ core0 endKernel with link := { inbound := [m] } } m = (none, 3))
      ∧ (let m := { inb 1 0x20000 with handle := 1 }
         fate { with_ core0 endKernel with link := { inbound := [m] } } m = (none, 2))
      ∧ (let m := inb 1 0x20000
         fate { at_ core0 with link := { inbound := [m], status := [(1, { applied := 1 })] } } m = (none, 1))
      ∧ (let m := { inb 1 0x40 with csram := true }
         let s := { with_ core0 { endKernel with decl := List.replicate 6 0 ++ [1] ++ List.replicate 0xF9 0 } with
           cyc := 32, link := { inbound := [m] } }
         firstInbound (s.link.inbound.filter (dataReady s)) = some m ∧ fate s m = (none, 4)) :=
  ⟨by decide, by decide, by decide, by decide, by decide⟩

set_option maxRecDepth 40000 in
theorem witness_DataAndFlagsApply_flags :
    (let f := inb 2 1
     let s := { with_ { core0 with dir := [16] } endKernel with
       link := { flags := [f], time := .locked, clock := 2 * 192 * windowNs 0 } }
     firstInbound (s.link.flags.filter (flagDue s)) = some f ∧ handleBar s f.addr = some (0, 0, 16)
       ∧ isLate s f.stamp = false ∧ s.kernel? 0 = some endKernel ∧ endKernel.bind[0]? = some 0
       ∧ (nodeOf s.link f.node).isDup f.seq = false)
      ∧ (let f := inb 3 0x10000
         let s := { with_ core0 endKernel with link := { flags := [f] } }
         firstInbound (s.link.flags.filter (flagDue s)) = some f ∧ endpointKernel s f.ctx = some (0, endKernel)
           ∧ findPage endKernel.pages f.addr = some (page 0x10000 0x10000 2) ∧ f.addr % 8 = 0
           ∧ isPool endKernel.pools (page 0x10000 0x10000 2) = false)
      ∧ (let f := inb 4 0xE00
         let s := { with_ core0 endKernel with link := { flags := [f] } }
         firstInbound (s.link.flags.filter (flagDue s)) = some f ∧ endpointKernel s f.ctx = some (0, endKernel)
           ∧ bitsOf f.addr 8 0 < endKernel.bind.length)
      ∧ (nodeOf ({ status := [(1, { applied := 1 })] } : Link) 1).isDup (inb 2 1).seq = true := by
  decide

/-! ## A context with one image, and a launch of one role -/

/-- A declaration of one core (R146), and the image of one bundle whose only role starts at its first byte (R299, R300). -/
def oneCore : List Byte := natLE 4 0x47394A48 ++ [1, 0, 1] ++ List.replicate 9 0 ++ [5, 1, 1] ++ List.replicate 237 0

def oneHeader : List Byte :=
  natLE 4 0x49394A48 ++ [1] ++ List.replicate 11 0 ++ [1] ++ List.replicate 7 0 ++ natLE 4 128 ++ natLE 4 64
    ++ List.replicate 16 0 ++ natLE 4 64 ++ List.replicate 12 0

def oneBundle : Image :=
  { offset := 0, codeSize := 64, dataSize := 0, digest := []
    bytes := oneHeader ++ List.replicate 1536 0 }

/-- The descriptor of a context whose root table lies at 0x1000, over cluster 0. -/
def oneDesc : List Byte :=
  List.replicate 8 0 ++ natLE 8 0x1000 ++ [1] ++ List.replicate 7 0 ++ [1] ++ List.replicate 15 0 ++ natLE 8 0x100000
    ++ natLE 8 0x1000000 ++ natLE 8 0x200000 ++ natLE 8 0x10000 ++ List.replicate 56 0

/-- The bytes of lists placed at addresses, in rising order. -/
def placedAt (xs : List (Nat × List Byte)) : Memory := xs.flatMap (fun x => writeBytes [] x.1 x.2)

/-- The launch record of R118, with its page list and declaration. -/
def oneRecord : List Byte :=
  natLE 4 0x4C394A48 ++ [1, 0, 0, 0, 0, 0, 0, 0, 1] ++ List.replicate 19 0 ++ natLE 8 0x6000 ++ natLE 8 0x5000

/-- A LAUNCH of that record from queue 0. -/
def launchCmd : List Byte := [1] ++ List.replicate 15 0 ++ natLE 8 0x4000 ++ List.replicate 40 0

def cmdQueue (cmd : List Byte) : Queue := { st := .active, size := 16, cmd := cmd }

/-- The module with that context, one page of 1 GiB at VA 0, and a command dispatched from queue 0. -/
def hosted (ctx : Context) (q : Queue) : State :=
  { State.reset with
    cp := { ctxs := [(0, ctx)], queues := [(0, q)] }
    mem := { phys := placedAt [(0x1000, [1, 0x20]), (0x2000, [0x0F]), (0x4000, oneRecord), (0x5000, oneCore), (0x6000, [0])]
             key := [(64, 1), (128, 1)] } }

def oneCtx : Context := { st := .ready, desc := oneDesc, images := [(0, oneBundle)] }

/-- A kernel in a state. -/
def kin (st : KState) : Kernel := { fetchKernel with st := st }

/-- The ARGS record of kernel 0, still being read. -/
def argsDueRec : DueRecord := { type := 3, flags := 0, kseq := 1, body := none, args := some (0, 0) }

/-- An image with one point at cycle 0. -/
def pointed : Image := { oneBundle with bytes := patch (patch oneBundle.bytes 0x12 [1]) 0x20 [0x80] }

theorem witness_GroupsStartAndHold :
    ((with_ core0 (kin .preparing)).kernel? 0 = some (kin .preparing) ∧ (with_ core0 (kin .preparing)).cyc % 1024 = 0)
      ∧ (argsDue (with_ core0 (kin .preparing)) 0 (kin .preparing) = false
        ∧ argsDue { with_ core0 (kin .preparing) with cp := { ctxs := [(0, { due := [argsDueRec] })] } } 0 (kin .preparing) = true)
      ∧ (atPeriodStart { fetchKernel with ttc := 1024, ran := 1024 } = true ∧ atPeriodStart (kin .held) = false)
      ∧ (holdCauses (with_ core0 (kin .held)) (kin .held) = 0 ∧ (kin .held).resumeTtc % 1024 = 0)
      ∧ holdCauses (with_ { core0 with mode := .handler } (kin .held)) (kin .held) ≠ 0
      ∧ ({ at_ core0 with cyc := 1023 } : State).cyc % 1024 ≠ 0
      ∧ ({ limhold := true } : Mgmt).limhold = true
      ∧ (fetchKernel.bound = true ∧ fetchKernel.alive = true ∧ fetchKernel.bind[0]? = some 0 ∧ core0.kid = some 0
        ∧ core0.role = 0)
      ∧ (let k := { fetchKernel with record := List.replicate 0x18 0 ++ [5], ttc := 5 }
         fieldLE k.record 0x18 8 ≠ 0 ∧ fieldLE k.record 0x18 8 ≤ k.ttc ∧ k.kfault = none
           ∧ 4 < fieldLE k.record 0x18 8) := by
  decide

theorem witness_PreemptionsDrainAndResume :
    (let s := { hosted { oneCtx with images := [(0, pointed)] } {} with kernels := [(0, fetchKernel)], cores := [(0, core0)] }
     hasPoints s fetchKernel = true ∧ fetchKernel.preq = none ∧ fetchKernel.ttc ∈ pointsOf (imageOf s fetchKernel)
       ∧ fetchKernel.lastPoint < (fetchKernel.ttc : Int) ∧ (∀ p ∈ fetchKernel.bind, pointBlocked (s.core p) = false))
      ∧ hasPoints (at_ core0) fetchKernel = false
      ∧ (let s := at_ { core0 with dly := 1 }
         ∃ p ∈ fetchKernel.bind, pointBlocked (s.core p) = true)
      ∧ (let s := with_ { core0 with stubEnd := true } (kin .draining)
         (∀ p ∈ (kin .draining).bind, drainedCore (s.core p) = true) ∧ beyondOpen s 0 = false
           ∧ s.ks.ops.any (fun o => o.kid == 0) = false)
      ∧ ((kin .resuming).point % 1024 = 0 ∧ (with_ core0 (kin .resuming)).cyc % 1024 = 0) := by
  refine ⟨by decide, by decide, ⟨0, by decide, by decide⟩, by decide, by decide⟩

theorem witness_KernelsEndAndRelaunch :
    (let s := at_ { core0 with done := true }
     endReached s fetchKernel = true ∧ recordedFault s fetchKernel = none)
      ∧ endReached (at_ core0) fetchKernel = false
      ∧ (let s := at_ { core0 with kfault := some ⟨0x46, 0, false⟩ }
         (recordedFault s fetchKernel).isSome = true ∧ fetchKernel.holds = true)
      ∧ (mayRelaunch fetchKernel ⟨0x46, 0, false⟩ = false
        ∧ mayRelaunch { fetchKernel with record := List.replicate 6 0 ++ [1, 1] } ⟨0x60, 0, false⟩ = true)
      ∧ (let k := { kin .relaunching with decl := oneCore }
         rebind (with_ core0 k) 0 k = none ∧ k.deferred = false)
      ∧ (let k := { kin .relaunching with decl := oneCore }
         let s := { hosted oneCtx {} with kernels := [(0, k)], cores := [(0, core0)] }
         rebind s 0 k = some [0] ∧ argsUe s k = false
           ∧ classB { oneBundle with bytes := patch oneBundle.bytes 7 [1] } = true) := by
  refine ⟨by decide, by decide, by decide, by decide, by decide, by decide⟩

theorem witness_RegionsUnwind :
    ((at_ core0).kernel? 0 = some fetchKernel ∧ fetchKernel.bind.Nodup ∧ (kin .held).st ≠ .running)
      ∧ (let c := { core0 with upend := [(0, 1, 3)], regions := [region] }
         c.upend = [(0, 1, 3)] ∧ (0 : Nat) ≤ 0 ∧ c.regions = [region])
      ∧ (∀ x ∈ ({ core0 with upend := [(1, 1, 3)] } : Core).upend, 0 < x.1) := by
  decide

/-! ## The package -/

/-- The management state in a service state. -/
def served (st : Service) : State := { State.reset with mgmt := { service := st } }

def image64 : Firmware := { image := [], signature := [], rollback := 64 }

theorem witness_ServiceStates :
    (State.reset.mgmt.service = .off)
      ∧ (imageVerifies (served .boot).mgmt.fuses (served .boot).mgmt.bankA.image = false
        ∧ imageVerifies (served .boot).mgmt.fuses (served .boot).mgmt.bankB.image = false
        ∧ imageVerifies 0 (some { image64 with rollback := 65 }) = false)
      ∧ ((served .calib).mgmt.service = .calib ∧ (served .calib).mgmt.toFull = false)
      ∧ (served .full).mgmt.service = .full ∧ (served .preserve).mgmt.service = .preserve
      ∧ (served .preserve).kernels = []
      ∧ ((2000 : Int) ≤ 2000 ∧ (1999 : Int) < 2000) := by
  refine ⟨rfl, ⟨rfl, rfl, ?_⟩, ⟨rfl, rfl⟩, rfl, rfl, rfl, by decide⟩
  simp [imageVerifies]

/-- With an image that verifies under the fused root, whatever predicate that is (log entry 110), in either bank. -/
theorem witness_ServiceStates_image (h : Config.xmssVerifies Config.publicRoot [] [] = true) :
    (let m : Mgmt := { service := .boot, bankA := { image := some image64 } }
     imageVerifies m.fuses (m.bank m.activeB).image = true)
      ∧ (let m : Mgmt := { service := .boot, bankB := { image := some image64 } }
         imageVerifies m.fuses (m.bank m.activeB).image = false ∧ imageVerifies m.fuses (m.bank (!m.activeB)).image = true) := by
  simp [imageVerifies, Mgmt.bank, image64, h]

/-- A sample of one die. -/
def sampled (t : Int) : Sample := ⟨[t], 0, []⟩

theorem witness_Management :
    ((served .full).mgmt.service = .full ∧ (served .full).mgmt.sampledAt = none ∧ (served .full).cyc % 1024 = 0)
      ∧ ((sampled 1999).hottest < 2000 ∧ 2000 ≤ (sampled 2000).hottest ∧ (sampled 1520).hottest ≤ 1520
        ∧ (sampled 1520).power ≤ 1800 ∧ 1680 ≤ (sampled 1680).hottest)
      ∧ (let s := { served .full with mgmt := { service := .full, sampledAt := some 0 }, link := { elapsed := 19200000 } }
         s.mgmt.sampledAt = some 0 ∧ 0 + 19200000 ≤ s.link.elapsed)
      ∧ (let s := { served .full with mgmt := { service := .full, sampledAt := some 0 }, link := { elapsed := 19199999 } }
         ¬(s.link.elapsed < 0 ∨ 0 + 19200000 ≤ s.link.elapsed))
      ∧ ((served .full).mgmt.activeB = false ∧ (served .full).mgmt.telemAt = none)
      ∧ (let s := { served .full with mgmt := { telemAt := some 0, stretch := 64 }, link := { elapsed := 191999999 } }
         s.mgmt.telemAt = some 0 ∧ 0 ≤ s.link.elapsed ∧ s.link.elapsed < 0 + 192000000 ∧ s.mgmt.stretch = 64)
      ∧ ((1 : Nat) ≤ 15 ∧ (1000000 : Nat) ≤ 60000000000 ∧ (15 : Nat) < 16) := by
  decide

theorem witness_FailedUnitsAndTests :
    (let count := fun (s : State) => ((s.mgmt.events ++ [(UnitId.core 639, s.link.elapsed)]).filter
        (fun e => decide (s.link.elapsed < e.2 + s.mgmt.failWin) && e.1 == .core 639)).length
     count (served .full) < (served .full).mgmt.failN
       ∧ (let s := { served .full with mgmt := { events := [(.core 639, 0), (.core 639, 1)] } }
          s.mgmt.failN ≤ count s))
      ∧ (UnitId.core 4 ∉ (served .full).mgmt.failed
        ∧ (goodCores { served .full with mgmt := { failed := [.core 4, .core 3] } } (clusterOf 4)).length < 4)
      ∧ (let s := { served .full with mgmt := { shafts := [(127, { waiting := [7] })] } }
         (tget ({} : Shaft) s.mgmt.shafts 127).waiting ≠ [] ∧ (tget ({} : Shaft) s.mgmt.shafts 127).gone = false ∧ s.cyc % 1024 = 0)
      ∧ (halfAfter { failed := List.range 32 } = some 0 ∧ halfAfter { failed := List.range 40 } = some 2
        ∧ halfAfter { failed := List.range 20 ++ (List.range 20).map (· + 528) } = none)
      ∧ (let s := { served .full with link := { elapsed := 1920000000 } }
         s.mgmt.service = .full ∧ (tget ({} : Cluster) s.mgmt.clusters 127).slice = none ∧ s.kernels = []
           ∧ (127 : Nat) ∉ s.mgmt.clustersOut
           ∧ (tget ({} : Cluster) s.mgmt.clusters 127).idleAt + 1920000000 ≤ s.link.elapsed)
      ∧ (let s := { served .full with mgmt := { clusters := [(127, { slice := some 0 })] } }
         (tget ({} : Cluster) s.mgmt.clusters 127).slice = some 0 ∧ (tget ({} : Cluster) s.mgmt.clusters 127).defect = false
           ∧ Memory.wf s.mem.phys = true ∧ s.cp.issued = [] ∧ ({ slice := some 0, defect := true } : Cluster).defect = true)
      ∧ (let s := { served .full with mem := { phys := [(testAt 127, 1)] } }
         testField s 127 0 1 = 1 ∧ s.cp.ctxs = []) := by
  decide

/-! ## The command processor -/

/-- A state whose control ring holds one entry, at index 63, and whose slot 0 holds a context. -/
def posted (e : List Byte) (c : Context) : State :=
  { hosted c {} with
    mgmt := { service := .full }
    mem := { (hosted c {}).mem with qmem := placedAt [(64 * 63, e), (0x10000, oneDesc)] }
    cp := { ctl := [63], ctxs := [(0, c)] } }

/-- An entry's bytes: OP, slot 0, and its words from byte 8. -/
def entry (op : Byte) (ws : List Nat) : List Byte := [op] ++ List.replicate 7 0 ++ ws.flatMap (natLE 8)

/-- An entry with that OP is the next of the ring. -/
def headed (s : State) (op : Nat) : Bool :=
  match controlEntry s with
  | none => false
  | some (i, e) => i == 63 && e == readBytes s.mem.qmem (64 * 63) 64 && fieldLE e 0 1 == op && fieldLE e 1 1 == 0
      && fieldLE e 3 1 == 0

set_option maxRecDepth 20000 in
theorem witness_ContextCommands :
    (serving (served .full) = true ∧ (63 : Nat) < 64)
      ∧ (let s := posted (entry 1 [0x10000]) {}
         headed s 1 = true ∧ queueBytes s 0x10000 128 = some oneDesc ∧ descReject s 0 oneDesc = none ∧ (ctxAt s 0).st = .free
           ∧ Memory.wf s.mem.qmem = true)
      ∧ (let s := posted (entry 2 [0x10000]) oneCtx
         headed s 2 = true ∧ descReject s 0 oneDesc = none ∧ (ctxAt s 0).st = .ready)
      ∧ (let s := posted (entry 3 [63, 0x20000]) oneCtx
         headed s 3 = true ∧ (queueBytes s 0x20000 64).isSome = true
           ∧ (s.cp.ctxs.all (fun x => x.2.st == .free || !bitOf (fieldLE x.2.desc 0x10 8) 63)) = true)
      ∧ (headed (posted (entry 11 [0x3FFF00]) oneCtx) 11 = true ∧ (0x3FFF00 : Nat) + 256 ≤ Config.qmemSize)
      ∧ (fieldLE (readBytes (posted [1, 64] {}).mem.qmem (64 * 63) 64) 1 1 = 64)
      ∧ (let s := posted [1] {}
         let t := { s with
           mem := { s.mem with qmem := writeBytes s.mem.qmem (64 * 5) [0x0A] }
           cp := { s.cp with ctl := [63, 5] } }
         (controlEntry t).map (fun e => e.1) = some 5 ∧ memRead t.mem.qmem (64 * 5) = 0x0A
           ∧ memRead s.mem.qmem (64 * 63) ≠ 0x0A ∧ memRead s.mem.qmem (64 * 63) ≠ 0x05)
      ∧ (bitsOf (fieldLE oneDesc 0 8) 3 2 = bitsOf (fieldLE oneCtx.desc 0 8) 3 2) := by
  refine ⟨by decide, by decide, by decide, by decide, by decide, by decide, by decide, by decide⟩

set_option maxRecDepth 40000 in
theorem witness_ContextCommands_image :
    let s := { posted (entry 4 [0x8000, 1600]) { oneCtx with images := [] } with
      mem := { phys := placedAt [(0x1000, [1, 0x20]), (0x2000, [0x0F]), (0x8000, oneHeader)], key := [(64, 1), (128, 1)]
               qmem := placedAt [(64 * 63, entry 4 [0x8000, 1600])] } }
    (headed s 4 && (match ctxBytes s 0 0x8000 1600 with
      | none => false
      | some b => headerFits b && windowPlace (ctxAt s 0).images (fieldLE b 0x30 4 + fieldLE b 0x34 4) == some 0)) = true := by
  decide +kernel

set_option maxRecDepth 20000 in
theorem witness_ContextStates :
    (headed (posted (entry 5 []) { oneCtx with st := .running }) 5 = true)
      ∧ (let c := { oneCtx with st := .yielding }
         (posted [] c).cp.ctxs.find? (fun x => x.2.st == .yielding && (posted [] c).kernels.all
           (fun k => k.2.ctx != x.1 || k.2.away)) = some (0, c))
      ∧ (let s := { posted [] { oneCtx with st := .yielding } with kernels := [(0, fetchKernel)] }
         ∀ x ∈ s.cp.ctxs, x.2.st = .yielding → ∃ k ∈ s.kernels, k.2.ctx = x.1 ∧ k.2.away = false)
      ∧ (let s := posted (entry 6 [1]) { oneCtx with st := .switched }
         headed s 6 = true ∧ maskOut s 1 = false ∧ maskTaken s 0 1 = false
           ∧ 0x1000000 * (maskClusters 1).length ≤ ctxField s.cp 0 0x30 8 ∧ liveKernels s 0 = [])
      ∧ (headed (posted (entry 9 []) { oneCtx with st := .faulted }) 9 = true
        ∧ headed (posted (entry 10 []) oneCtx) 10 = true)
      ∧ (let s := posted (entry 7 [0x300000]) oneCtx
         headed s 7 = true ∧ inCistern s.mgmt 0x300000 1024 = true ∧ s.cp.seals.length < 4096)
      ∧ (let s := posted (entry 8 [0x300000]) {}
         headed s 8 = true ∧ inCistern s.mgmt 0x300000 1024 = true
           ∧ s.cp.sealedCtx.find? (fun x => x.1 == fieldLE (physRead s.mem 0 0x300000 1024) 0x200 8) = none) := by
  refine ⟨by decide, by decide, ?_, by decide, by decide, by decide, by decide⟩
  intro s x hx _
  exact ⟨(0, fetchKernel), by simp [s], by simp [s, posted, hosted] at hx; simp [hx, fetchKernel], by decide⟩

set_option maxRecDepth 20000 in
theorem witness_QueueTable :
    (let s := { posted [] oneCtx with
       mem := { qmem := placedAt [(0x2000 + 64 * 255, List.replicate 12 0 ++ natLE 4 16 ++ List.replicate 16 0 ++ natLE 8 0x10000)] } }
     serving s = true ∧ (queueAt s 255).st = .disabled
       ∧ enableReject s (readBytes s.mem.qmem (0x2000 + 64 * 255) 64) = none)
      ∧ (let s := posted [] oneCtx
         enableReject s (readBytes s.mem.qmem 0x2000 64) = some 3)
      ∧ (let s := hosted oneCtx { st := .active, size := 16 }
         (queueAt s 0).st = .active ∧ 0 ≠ s.cp.nextMoved ∧ (15 : Nat) < sizeOf s 0 ∧ sizeOf s 0 ≤ 16)
      ∧ (queueAt (hosted oneCtx { st := .stopped }) 0).st = .stopped
      ∧ (let s := { hosted oneCtx { st := .ready } with link := { elapsed := 1920000000 } }
         (queueAt s 0).st = .ready ∧ (queueAt s 0).age + 1920000000 ≤ s.link.elapsed) := by
  refine ⟨by decide, by decide, by decide, by decide, by decide⟩

theorem witness_CommandsDispatchAndComplete :
    (let s := { hosted oneCtx { st := .ready, size := 16, tail := 1 } with mgmt := { service := .full } }
     serving s = true ∧ s.cp.nextDisp ≤ s.cyc ∧ nextQueue s = some 0)
      ∧ nextQueue (hosted oneCtx {}) = none
      ∧ (let x := cmdQueue [1, 0, 0, 2]
         x.st = .active ∧ x.begun = false ∧ fieldLE x.cmd 0 1 = 1 ∧ badWord x.cmd = true)
      ∧ bitOf (fieldLE (cmdQueue [1, 0, 0, 1]).cmd 3 1) 0 = true := by
  refine ⟨by decide, by decide, by decide, by decide⟩

/-- The command of queue 0 is dispatched and keeps R103. -/
def begins (s : State) (op : Nat) : Bool :=
  let x := queueAt s 0
  s.cp.cmdQ == 0 && x.st == .active && !x.begun && fieldLE x.cmd 0 1 == op && !badWord x.cmd

set_option maxRecDepth 40000 in
theorem witness_QueueCommands_launch :
    let s := hosted oneCtx (cmdQueue launchCmd)
    let b := begun s 0
    (begins s 1 && (match launchOf b 0 launchCmd with
      | none => false
      | some r => (launchReject b r).isNone && (launchImage b r).isSome
          && launchBinding b r (rivals b none) == some [0] && reachFits b [0] (setPages b r)
          && (placeAll [0] b (setPages b r)).isSome)) = true := by
  decide +kernel

/-! ## Aborts, collectives, ports and time -/

/-- A descriptor of a gather over nodes 0 and 1, 64 elements of 4 bytes at VA 0 (R419). -/
def gather : List Byte :=
  natLE 4 0x4F394A48 ++ [1] ++ List.replicate 6 0 ++ [2, 2, 2, 0, 0] ++ List.replicate 16 0 ++ natLE 8 1 ++ natLE 8 64
    ++ List.replicate 24 0 ++ List.replicate 8 0 ++ [0, 1] ++ List.replicate 110 0

/-- A collective of queue 0 with that descriptor. -/
def ring (st : CollState) : Coll :=
  { va := 0x100000, desc := gather, ctx := 0, kid := none, queue := some 0, st := st, round := 0, rounds := 1, cause := 0
    bar := natLE 8 0 ++ List.replicate 8 0, barUps := [], local_ := false, early := [], sentRound := 0 }

/-- The same for kernel 0, with its buffer in that kernel's page 0x20000. -/
def ringHere : Coll := { ring .running with kid := some 0, desc := patch gather 0x30 (natLE 8 0x20000) }

set_option maxRecDepth 40000 in
theorem witness_DataAndFlagsApply_coll :
    let m := { inb 1 0x20000 with coll := true, moved := 1 }
    let s := { with_ core0 { endKernel with decl := List.replicate 6 0 ++ [1] ++ List.replicate 0xF9 0 } with
      cyc := 32, link := { inbound := [m], colls := [ringHere] } }
    firstInbound (s.link.inbound.filter (dataReady s)) = some m ∧ (fate s m).2 = 5 := by
  decide

/-- Two nodes, this one being 0, a collective, and its descriptor in memory. -/
def linked (c : Coll) : State :=
  let s := hosted oneCtx {}
  { s with
    mem := { s.mem with phys := placedAt [(0x1000, [1, 0x20]), (0x2000, [0x0F]), (0x100000, gather)] }
    link := { nodes := 2, self := 0, table := [1] ++ List.replicate 31 0 ++ [1] ++ List.replicate 2015 0, colls := [c] } }

/-- A barrier of a collective that waits for its own arrival alone. -/
def lastArrival : List Byte := barBytes { barOf (List.replicate 16 0) with arrv := 1, armed := true }

set_option maxRecDepth 20000 in
theorem witness_AbortsAndCollectives :
    (let f := { flit with type := 6, payload := [1] ++ List.replicate 63 0 }
     let s := linked (ring .running)
     s.link.colls.find? (fun c => c.running && c.ctx == f.dstep.toNat % 64
       && fieldLE c.desc 0x20 8 == fieldLE f.payload 0 8) = some (ring .running))
      ∧ (∀ c ∈ (linked (ring .waiting)).link.colls, c.st ≠ .running)
      ∧ (let f := { flit with type := 7, mlen := 1, addr := 64 * 0x1000000 }
         f.addr.toNat % 0x1000000 = 0 ∧ 64 * f.mlen ≤ (f.payload.take (64 * f.nsect)).length
           ∧ f.addr.toNat / 0x1000000 ≤ (f.payload.take (64 * f.nsect)).length
           ∧ (nodeOf (linked (ring .waiting)).link 1).isDup f.seq = false)
      ∧ (let s := linked (ring .waiting)
         let d := { ring .waiting with desc := readDesc s (ring .waiting) }
         s.link.colls.find? (fun c => c.st == .waiting) = some (ring .waiting) ∧ collRefused s d = false ∧ d.op = 2)
      ∧ (let s := { linked (ring .waiting) with link := { colls := [ring .waiting] } }
         collRefused s { ring .waiting with desc := readDesc s (ring .waiting) } = true)
      ∧ (let c := { ring .running with bar := lastArrival }
         (linked c).link.colls.find? Coll.localReady = some c ∧ c.scatterRounds ≤ c.round)
      ∧ ({ ring .running with desc := patch gather 0x0B [0] } : Coll).op = 0 := by
  refine ⟨by decide, by decide, by decide, by decide, by decide, by decide, by decide⟩

/-- A module whose port 17 is in a state. -/
def ported (q : Port) (porten : Nat) : State :=
  { State.reset with link := { ports := [(17, q)], porten := porten, elapsed := 192000000000 } }

theorem witness_PortStates :
    (let s := ported {} (2 ^ 17)
     (portOf s.link 17).st = .down ∧ portEnabled s 17 = true ∧ (portOf s.link 17).retryAt = none)
      ∧ (let s := ported { st := .training, since := 96000000000 } 0
         (portOf s.link 17).st = .training ∧ s.link.elapsed ≤ (portOf s.link 17).since + 96000000000)
      ∧ (let s := ported { trainFail := 7, retryAt := some 192000000000 } (2 ^ 17)
         (portOf s.link 17).st = .down ∧ (portOf s.link 17).retryAt = some 192000000000 ∧ portEnabled s 17 = true
           ∧ 192000000000 ≤ s.link.elapsed)
      ∧ ((0xFF#8 &&& ~~~(1#8 <<< 7)).toNat % 16 = 15 ∧ (0x1F#8 &&& ~~~(1#8 <<< 4)).toNat % 16 = 15)
      ∧ (portOf (ported { st := .up, lanes := 0xFF } 0).link 17).st = .up
      ∧ (portOf (ported { st := .degraded, lanes := 0x1F } 0).link 17).st = .degraded
      ∧ (portOf (ported { st := .failed } 0).link 17).st = .failed := by
  decide

/-- A port that carries messages. -/
def upPort : Port := { st := .up, lanes := 0xFF }

/-- Flits as a port gets them: in turn, and with a broken payload byte. -/
def wire : List Byte := flitBytes { flit with hops := 6 }

def torn : List Byte := patch wire 48 [1]

/-- An IDENT of node 0, which the empty table of one node gives the identity 0 (R244). -/
def identOf0 : Flit := { flit with type := 9, payload := List.replicate 64 0 }

set_option maxRecDepth 200000 in
theorem witness_FlitsAndIdent :
    (let s := ported upPort 0
     let f := flitOf wire
     (portOf s.link 17).carries = true ∧ wire.length = 256 ∧ torn.length = 256 ∧ (flitOf torn).crcOk = false ∧ f.crcOk = true
       ∧ inTurn (portOf s.link 17) { f with fseq := 5 } = false
       ∧ (portOf s.link 17).waitFseq = none ∧ f.fseq = (portOf s.link 17).lack + 1 ∧ inboundFull s 17 f = false ∧ f.type = 1
       ∧ f.hops ≠ 7 ∧ f.epoch = s.link.epoch % 256 ∧ bitsOf f.dstep.toNat 13 8 = s.link.self ∧ f.request = none)
      ∧ (let s := ported { upPort with sent := [wire] } 0
         (portOf s.link 17).carries = true ∧ ∃ b ∈ (portOf s.link 17).sent, fieldLE b 248 2 = (0#16).toNat)
      ∧ ({ flit with payload := List.replicate 192 0 } : Flit).payload.length = 192
      ∧ (let s := { ported { st := .sync, lanes := 0xFF } 0 with
           link := { ports := [(17, { st := .sync, lanes := 0xFF })], time := .locked, nodes := 1
                     table := [1] ++ List.replicate 31 0 } }
         (portOf s.link 17).st = .sync ∧ s.link.time = .locked ∧ nodeValid s.link (fieldLE identOf0.payload 16 1) = true
           ∧ (s.link.table.drop (32 * fieldLE identOf0.payload 16 1 + 8)).take 16 = identOf0.payload.take 16
           ∧ fieldLE identOf0.payload 18 1 = s.link.epoch % 256 ∧ fieldLE identOf0.payload 19 1 = s.link.wcode
           ∧ (portOf s.link 17).lanes = 0xFF) := by
  refine ⟨by decide +kernel, ⟨by decide, wire, by simp [ported, portOf, tget], by decide +kernel⟩, by decide, by decide⟩

/-- No data set comes before itself. -/
theorem lexLess_self : ∀ d : List Nat, lexLess d d = false
  | [] => rfl
  | a :: d => by simp [lexLess, lexLess_self d]

theorem witness_ChipTime_slave :
    (∀ p, slavePort { masters := [(p, Config.clockSet)] } = some p)
      ∧ ∀ d, lexLess Config.clockSet d = true → slavePort { masters := [(18, d)] } = none := by
  refine ⟨fun p => ?_, fun d h => ?_⟩
  · simp [slavePort, bestMaster, lexLess_self]
  · simp [slavePort, bestMaster, h]

set_option maxRecDepth 20000 in
theorem witness_ChipTime :
    ((portOf (ported upPort 0).link 17).carries = true ∧ (served .full).mgmt.service ≠ .off)
      ∧ (let s := { served .full with link := { time := .locked, lastSync := 0, elapsed := 96000000000 } }
         s.link.time = .locked ∧ s.link.lastSync + 6000000000 ≤ s.link.elapsed
           ∧ s.link.lastSync + 96000000000 ≤ s.link.elapsed)
      ∧ (served .full).link.time ≠ .locked
      ∧ ({ served .full with link := { time := .holdover } } : State).link.time = .holdover
      ∧ domainFits (domainHeader (served .full)) (domainTable (served .full)) = false := by
  refine ⟨by decide, by decide, by decide, by decide, by decide⟩

/-- A header of a domain of one node whose EPOCH is 1, and its table. -/
def oneHeaderOf : List Byte := List.replicate 8 0 ++ [1, 0, 0, 0, 0, 0, 0, 0, 1] ++ List.replicate 47 0
def oneTable : List Byte := [1] ++ List.replicate 2047 0

/-- The header and the table as queue memory. -/
def applied : State := { served .full with mem := { qmem := [(0x1408, 1), (0x1410, 1), (0x1800, 1)] } }

set_option maxRecDepth 40000 in
theorem applied_table : domainTable applied = oneTable := by decide +kernel

set_option maxRecDepth 40000 in
theorem witness_ChipTime_apply :
    domainFits (domainHeader applied) (domainTable applied) = true
      ∧ applied.link.epoch ≠ fieldLE (domainHeader applied) 0x10 8 := by
  rw [applied_table]
  decide +kernel

/-! ## Queue commands, waits, steps -/

/-- A command of 64 bytes that begins with these. -/
def command (bs : List Byte) : List Byte := bs ++ List.replicate (64 - bs.length) 0

/-- COPY of 64 bytes of format 0 from VA 0x8000 to VA 0x9000 (R112). -/
def copyCmd : List Byte := command ([2] ++ List.replicate 7 0 ++ natLE 8 0x8000 ++ natLE 8 0x9000 ++ natLE 8 64)

/-- Whether a COPY has one beat for 64 bytes from one physical range to another, and keeps no record. -/
def moves (s : State) (x : Queue) (src dst : Nat) : Bool :=
  match copyReq s x with
  | .inl _ => false
  | .inr r => r.src == [(src, 0, 64)] && r.dst == [(dst, 0, 64)] && r.rec_.isEmpty && r.beats == 1

/-- That COPY, every beat passed. -/
def copied : CopyRun :=
  { src := [], dst := [], rec_ := [], whole := [(0x9000, 0, 64)], beats := 1, beat := 1, units := 16, sf := 0, df := 0, mode := 0
    fpr := false }

/-- Whether a range is one piece of the Cistern. -/
def onePiece (r : Option (List (Nat × Nat × Nat))) (a n : Nat) : Bool :=
  match r with
  | some ps => ps == [(a, 0, n)]
  | none => false

/-- The status a COPY is refused with. -/
def copyStatus (s : State) (x : Queue) : Option Nat :=
  match copyReq s x with
  | .inl st => some st
  | .inr _ => none

set_option maxRecDepth 40000 in
theorem witness_QueueCommands_copy :
    (let s := hosted oneCtx (cmdQueue copyCmd)
     begins s 2 = true ∧ moves (begun s 0) (queueAt s 0) 0x8000 0x9000 = true)
      ∧ (let s := hosted oneCtx (cmdQueue (patch copyCmd 34 [5]))
         begins s 2 = true ∧ copyStatus (begun s 0) (queueAt s 0) = some 3)
      ∧ (let x := { cmdQueue copyCmd with begun := true, copy := some copied }
         let s := hosted oneCtx x
         queueAt s 0 = x ∧ x.st = .active ∧ x.copy = some copied ∧ copied.beats ≤ copied.beat ∧ copied.rec_ = []
           ∧ wellBusy s (copied.whole ++ copied.rec_) = false ∧ ({ copied with beat := 0 } : CopyRun).beat < copied.beats) := by
  refine ⟨by decide, by decide, by decide⟩

set_option maxRecDepth 40000 in
theorem witness_QueueCommands_rest :
    (let c := { oneCtx with desc := patch oneDesc 0 [8] }
     let s := hosted c (cmdQueue (command ([5] ++ List.replicate 7 0 ++ natLE 8 0x20000 ++ [1] ++ List.replicate 7 0 ++ natLE 8 0x9000)))
     let t := { s with mem := { s.mem with qmem := placedAt [(0x20000, natLE 8 0x8000 ++ natLE 8 64)] } }
     begins t 5 = true ∧ rcptOk t 0 = true
       ∧ (receiptBuffers (begun t 0) 0 0x20000 1).isSome = true
       ∧ onePiece (tableRange (begun t 0) 0 (fun p => cpReadable p && p.write) 0x9000 2956) 0x9000 2956 = true
       ∧ leavesUsed t.cp < leavesAll - 4096 ∧ measured (begun t 0) 0 = false
       ∧ measured (hosted { oneCtx with desc := patch oneDesc 0 [12] } {}) 0 = true)
      ∧ rcptOk (hosted oneCtx {}) 0 = false
      ∧ (let s := hosted oneCtx (cmdQueue (command ([6] ++ List.replicate 7 0 ++ natLE 8 0x100000)))
         begins s 6 = true ∧ onePiece (tableRange (begun s 0) 0 (fun p => p.kind == 0) 0x100000 192) 0x100000 192 = true)
      ∧ (let s := hosted oneCtx (cmdQueue (command ([7] ++ List.replicate 7 0 ++ natLE 4 1)))
         let k := { fetchKernel with kseq := 1 }
         let t := { s with kernels := [(0, k)] }
         begins s 7 = true ∧ kernelBySeq (begun s 0) 0 1 = none ∧ kernelBySeq (begun t 0) 0 1 = some (0, k)
           ∧ k.st ≠ .suspended ∧ hasPoints t k = false
           ∧ (kernelBySeq { s with kernels := [(0, { kin .suspended with kseq := 1 })] } 0 1).isSome = true) := by
  refine ⟨by decide, by decide, by decide, by decide⟩

/-- A signing that waits, with the body of R94 all zeros. -/
def signing : Signing :=
  { queue := some 0, ctx := 0, gen := 1, body := List.replicate 64 0, tree := 0, leaf := 0, dest := [], addr := 0, discard := none }

/-- WAITV until the word at VA 0x10000 under the mask 1 equals 0, with a time of 1 ms (R114). -/
def waitCmd (cond : Byte) : List Byte :=
  command ([3] ++ List.replicate 7 0 ++ natLE 8 0x10000 ++ natLE 8 0 ++ natLE 8 1 ++ [cond] ++ List.replicate 3 0 ++ natLE 4 1)

/-- Where a WAITV or SIGNAL finds its word, and what stands in it. -/
def wordSeen (s : State) (va : Nat) (write : Bool) : Option Nat := (wordAt s 0 va write).map (wordValue s)

set_option maxRecDepth 20000 in
theorem witness_WaitsAndSignals :
    (let s := hosted oneCtx (cmdQueue (waitCmd 0))
     begins s 3 = true ∧ wordSeen (begun s 0) 0x10000 false = some 0 ∧ wordAt (begun s 0) 0 (2 ^ 40) false = none)
      ∧ (let x := { cmdQueue (waitCmd 1) with st := .waiting, begun := true, since := 0 }
         let s := { hosted oneCtx x with link := { clock := 192000 } }
         queueAt s 0 = x ∧ x.st = .waiting ∧ fieldLE x.cmd 32 1 ≤ 3 ∧ wordSeen s 0x10000 false = some 0
           ∧ fieldLE x.cmd 36 4 ≠ 0 ∧ x.since + 192000 * fieldLE x.cmd 36 4 ≤ s.link.clock)
      ∧ (let s := hosted oneCtx (cmdQueue (command ([4] ++ List.replicate 15 0 ++ natLE 8 7 ++ natLE 8 0x10000)))
         begins s 4 = true ∧ fieldLE (queueAt s 0).cmd 24 8 % 8 = 0 ∧ fieldLE (queueAt s 0).cmd 8 1 = 0
           ∧ wordSeen (begun s 0) 0x10000 true = some 0)
      ∧ (let s := hosted oneCtx (cmdQueue (command ([4] ++ List.replicate 7 0 ++ [2] ++ List.replicate 23 0 ++ natLE 4 1)))
         let k := { fetchKernel with kseq := 1 }
         begins s 4 = true ∧ fieldLE (queueAt s 0).cmd 36 2 < 512 ∧ kernelBySeq s 0 1 = none
           ∧ kernelBySeq { s with kernels := [(0, k)] } 0 1 = some (0, k) ∧ 0 < k.bind.length) := by
  refine ⟨by decide, by decide, by decide, by decide⟩

/-- Reset with ADD g3, g1, g2 under p0 placed for the next step, and the same with the issue taken off. -/
def placedAdd : State := State.reset.withFetchWord 128 (leNat ((encode (.add ⟨on .s, 3, 1, .reg 2⟩)).getD []))

def takenAdd : State := { placedAdd with agenda := [] }

set_option maxRecDepth 20000 in
theorem witness_StepRunsDecodedInstruction :
    placedAdd.agenda = [.issue 0] ∧ issuesNow takenAdd 0 = true ∧ issuesNow takenAdd 1 = false
      ∧ (placedAdd.core 0).engTrap = none ∧ (placedAdd.core 0).pc = 0
      ∧ fetchUe takenAdd 0 (bundleAt takenAdd 0 0) = none
      ∧ bundleAt takenAdd 0 0 < (placedAdd.core 0).codeSize
      ∧ (match decodeBundle (fetchLine takenAdd 0 (bundleAt takenAdd 0 0)) with
        | .error _ => false
        | .ok b => b.syls.all (fun y => (guardTrap takenAdd (takenAdd.core 0) y).isNone && decide (y.decoded = .instr (.add ⟨on .s, 3, 1, .reg 2⟩))) && !b.syls.isEmpty
            && (match runSlots exec { takenAdd with act := 0 } b.syls { takenAdd with act := 0 } [] with
              | .inl _ => false
              | .inr (u, w) => w.isEmpty && (sequencerTrap u 0).isNone && !u.me.trapped)) = true := by
  refine ⟨rfl, ?_⟩
  decide +kernel

/-- The tables of a reset module are in their canonical form, and a reset module steps. -/
theorem witness_StepKeepsMemories :
    State.reset.mem.wf = true ∧ (match step State.reset with
      | .next _ => true
      | .fault _ | .refused _ => false) = true := by
  decide +kernel

/-! ## The clauses on the sequencer, traps and values -/

/-- Core 0 with a bundle of 8 bytes at 64 in progress, what it has asked, in a delay count and in loops. -/
def commits (q : Staged) (dly : Nat) (loops : List LoopLevel) : Core :=
  { core0 with cur := { addr := 64, next := 72 }, staged := q, dly := dly, loops := loops }

/-- The level of a body of the one bundle at 64. -/
def body (n : Nat) (modulo : Bool) : LoopLevel :=
  { modulo := modulo, start := 64, stop := 72, n := n, j := 0, ii := 5, stages := 2, passStart := 0, entered := 0, sys := false }

theorem witness_ControlTransfers_commit :
    (((at_ (commits {} 2 [])).core 0).dly = 2 ∧ ((at_ (commits {} 1 [])).core 0).dly = 1
        ∧ ((at_ { commits {} 1 [] with callAt := some 7 }).core 0).callAt = some 7
        ∧ ((at_ (commits { branch := some 0x80 } 0 [])).core 0).staged.branch = some 0x80
        ∧ ((at_ { commits {} 0 [] with mode := .handler }).core 0).mode ≠ .task)
      ∧ (∀ c ∈ [commits { branch := some 0x80 } 0 [body 3 false], commits {} 1 [body 3 false]],
        c.staged.push = none ∧ c.loops = [body 3 false] ∧ (c.staged.branch.isSome = true ∨ 0 < c.dly)
          ∧ (body 3 false).start ≤ c.cur.addr ∧ c.cur.addr < (body 3 false).stop
          ∧ bundleAt (at_ c) 0 (c.staged.zeroTrip.getD c.cur.next) = (body 3 false).stop) := by decide

theorem witness_LoopsPushALevel_ends :
    (∀ m ∈ [false, true], (endTest 64 72 9 [body 3 m]).2.isSome = true ∧ (endTest 64 72 9 [body 3 m]).1 ≠ []
        ∧ ((body 3 m).start ≤ 64 ∧ 64 < (body 3 m).stop ∧ 72 = (body 3 m).stop)
        ∧ (body 3 m).j + 1 < (if (body 3 m).modulo then (body 3 m).n + (body 3 m).stages - 1 else (body 3 m).n))
      ∧ ((body 1 false).n ≤ (body 1 false).j + 1 ∧ (endTest 64 72 9 [body 1 false]).2 = none)
      ∧ ¬((body 3 false).start ≤ 64 ∧ 64 < (body 3 false).stop ∧ 80 = (body 3 false).stop)
      ∧ (let c := commits {} 0 [body 3 true]
         let s := at_ c
         (s.core 0).staged.push = none ∧ (s.core 0).staged.branch = none ∧ (s.core 0).dly = 0
           ∧ (s.core 0).loops = [body 3 true] ∧ (body 3 true).modulo = true
           ∧ (body 3 true).start ≤ (s.core 0).cur.addr ∧ (s.core 0).cur.addr < (body 3 true).stop
           ∧ bundleAt s 0 ((s.core 0).staged.zeroTrip.getD (s.core 0).cur.next) = (body 3 true).stop
           ∧ nextStamp (s.ttcOf (s.core 0)) (s.core 0).staged - (body 3 true).passStart ≠ (body 3 true).ii)
      ∧ (let c := { commits {} 0 [body 3 false] with brFrom := some 64, pc := 128 }
         c.dly = 0 ∧ c.brFrom = some 64 ∧ (leaveBodies c).loops = [])
      ∧ (let c := commits {} 1 []
         0 < c.dly) := by decide

theorem witness_LoopsPushALevel_delay :
    let c := { regs 1 0 0 with dly := 1 }
    slotRuns (at_ c) (on .s) [.g 1] ∧ 0 < (at_ c).me.dly ∧ (gAt (at_ c).me 1).toNat < 2 ^ 32
      ∧ (0xFFFFF#32).toNat < 2 ^ 20 ∧ (at_ c).me.cur.next < (0xFFFFF#32).toNat ∧ (at_ c).me.loops.length < 6
      ∧ (0x7FFFFF#32).toNat < 2 ^ 23 ∧ (at_ c).me.cur.next < (0x7FFFFF#32).toNat % 2 ^ 20
      ∧ (at_ c).me.loops.any (·.modulo) = false :=
  ⟨runs_plain rfl rfl rfl rfl, by decide⟩

theorem witness_Loads_traps :
    (slotRuns (at_ (regs 0xFFFFF8 0 0)) (on .m) [.g 1] ∧ (0xFFFFF8#64).toNat % 8 = 0 ∧ 2 ^ 20 ≤ (0xFFFFF8#64).toNat)
      ∧ (let c := { regs 0x1000 0 0 with tiles := [(1, { st := .engaged })] }
         slotRuns (at_ c) (on .m) [.g 1] ∧ engineOwned c ((0x1000#64).toNat / 0x1000) = true)
      ∧ (let c := { regs 0x2000 0 0 with ue := [(1, 0x80)] }
         slotRuns (at_ c) (on .m) [.g 1] ∧ reaches c 0x2000 8 (span 0x2000 8) ∧ (0x2000#64).toNat % 8 = 0
           ∧ c.ue.contains (1, (0x2000#64).toNat / 64) = true ∧ c.regions = [])
      ∧ (let c := { regs 0x2000 0 0 with ue := [(1, 0x80)], regions := [region] }
         slotRuns (at_ c) (on .m) [.g 1] ∧ reaches c 0x2000 8 (span 0x2000 8) ∧ c.regions ≠ []) :=
  ⟨⟨runs_plain rfl rfl rfl rfl, by decide, by decide⟩, ⟨runs_plain rfl rfl rfl rfl, by decide⟩,
    ⟨⟨rfl, rfl, rfl, rfl, rfl⟩, reaches_plain (by decide) (by decide) rfl, by decide, rfl, rfl⟩,
    ⟨⟨rfl, rfl, rfl, rfl, rfl⟩, reaches_plain (by decide) (by decide) rfl, by decide⟩⟩

/-- A residual that starts each group of n anew, and one that a step gives from the one before it, exist together. -/
theorem running (n : Nat) (f : Nat → Machine.Num → Machine.Num) : ∃ res : Nat → Machine.Num,
    (∀ j, j % n = 0 → res j = .zero) ∧ ∀ j, (j + 1) % n ≠ 0 → res (j + 1) = f j (res j) := by
  refine ⟨fun j => Nat.rec .zero (fun j e => if (j + 1) % n = 0 then .zero else f j e) j, ?_, ?_⟩
  · intro j h
    cases j with
    | zero => rfl
    | succ j => simp [h]
  · intro j h
    simp [h]

theorem witness_VectorMemoryAndMoves_values (v : Lanes) :
    (∃ res : Nat → Machine.Num, isQ 1 = false ∧ (∀ j, j % 16 = 0 → res j = .zero)
        ∧ (∀ j, j % 16 ≠ 15 →
          res (j + 1) = if (0xAAAA#64).getLsbD j then (encodeElem 1 4 (lane v j) (res j)).2 else res j)
        ∧ 15 < 64 ∧ (0xAAAA#64).getLsbD 15 = true ∧ 1 < elemBytes 1)
      ∧ (isQ 8 = true ∧ qGroup 8 ≠ 128 ∧ 0 < 64 / qGroup 8
        ∧ (∃ i, 0 * qGroup 8 ≤ i ∧ i < 0 * qGroup 8 + qGroup 8 ∧ (0xAAAA#64).getLsbD i = true) ∧ 0 < qRecord 8) := by
  refine ⟨?_, by decide, by decide, by decide, ⟨1, by decide⟩, by decide⟩
  obtain ⟨res, h0, h1⟩ := running 16 (fun j e => if (0xAAAA#64).getLsbD j then (encodeElem 1 4 (lane v j) e).2 else e)
  exact ⟨res, by decide, h0, fun j hj => h1 j (by omega), by decide, by decide, by decide⟩

/-- The values of the nodes of a binary tree over given leaves exist. -/
theorem treeOf (leaf : Nat → Word32) (f : Word32 → Word32 → Word32) : ∃ t : Nat → Nat → Word32,
    (∀ i, i < 64 → t 0 i = leaf i) ∧ ∀ n i, t (n + 1) i = f (t n (2 * i)) (t n (2 * i + 1)) :=
  ⟨fun n => Nat.rec leaf (fun _ g i => f (g (2 * i)) (g (2 * i + 1))) n, fun _ _ => rfl, fun _ _ => rfl⟩

theorem witness_VectorReductionsAndConversions_values (v : Lanes) :
    (∃ t : Nat → Nat → Word32, (∀ i, i < 64 → t 0 i = if (0xAAAA#64).getLsbD i then lane v i else 0)
        ∧ ∀ n i, t (n + 1) i = (fun a b => a + b) (t n (2 * i)) (t n (2 * i + 1)))
      ∧ (∃ res : Nat → Machine.Num, (∀ j, j % 16 = 0 → res j = .zero)
        ∧ (∀ j, j % 16 ≠ 15 →
          res (j + 1) = if (0xAAAA#64).getLsbD j then (convertLane 7 4 (lane v j) (res j)).2 else res j)
        ∧ (0xAAAA#64).getLsbD 15 = true)
      ∧ (∀ k ∈ ([0, 1, 2, 5, 6] : List (BitVec 4)), k ≠ 3 ∧ k ≠ 4 ∧ k ≠ 7 ∧ k ≠ 8)
      ∧ (Machine.Num.fin false 1 2).isZero = false
      ∧ ∃ acc : Nat → Word32, acc 0 = lane v 0 ∧ ∀ i, acc (i + 1) = acc i + lane v i := by
  refine ⟨treeOf _ _, ?_, by decide, by decide, ⟨fun n => Nat.rec (lane v 0) (fun i a => a + lane v i) n, rfl, fun _ => rfl⟩⟩
  obtain ⟨res, h0, h1⟩ := running 16 (fun j e => if (0xAAAA#64).getLsbD j then (convertLane 7 4 (lane v j) e).2 else e)
  exact ⟨res, h0, fun j hj => h1 j (by omega), by decide⟩

theorem witness_TransformUnits_faultFree : struck core0 6 = none ∧ (6 : Nat) < 7 ∧ (5 : Nat) < 6 := by decide

set_option maxRecDepth 40000 in
theorem witness_MatrixUnitIssues_errors :
    (let c := { ready with bfmt := 11, ue := [(1, 1)] }
     slotRuns (at_ c) (on .x) [.g 1, .g 2] ∧ rowElems (bankCode c (bankOf 0)) ≠ 0 ∧ c.oload = none
       ∧ slotIdle (actOf c 0).st (actOf c 0).use = true ∧ reaches c 0 128 (span 0 128) ∧ inRecords 11 0 128
       ∧ c.regions = [] ∧ 64 * 1 < 128 ∧ c.ue.contains (1, 0 + 1) = true ∧ ∀ i, i < 1 → c.ue.contains (1, 0 + i) = false)
      ∧ (let s := with_ ready rich
         let w : WLoad := {
           slot := 1, va := 0x20000, int4 := false, src := .cisternA, issue := 0, k := 1, sys := false, data := [], ue := false }
         let c := { ready with wload := some w }
         slotRuns s (on .x) [.g 1] ∧ (wloadCycle s rich 0 c w 0).2 = none ∧ (wloadCycle s rich 0 c w 0).1.found = c.found
           ∧ (let t := { s with mem := { ue := [(6, 0x20000 / 64)] } }
              (wloadCycle t rich 0 c w 0).2 = none ∧ (wloadCycle t rich 0 c w 0).1.found = c.found ++ [(6, 0x20000)])
           ∧ (wloadCycle (at_ ready) fetchKernel 0 c w 0).2.isSome = true) := by
  refine ⟨⟨⟨rfl, rfl, rfl, rfl, rfl⟩, by decide, rfl, by decide, reaches_plain (by decide) (by decide) rfl,
    inRecords_plain (by decide), rfl, by decide, by decide, by decide⟩,
    runs_plain rfl rfl rfl rfl, by decide, by decide, ⟨by decide, by decide⟩, by decide⟩

set_option maxRecDepth 20000 in
theorem witness_CalibrationAndEpilogue_traps :
    (let c := { regs 0 0 0 with
       mode := .handler, store := [(0, (7, routine))], mcall := some call }
     slotRuns (at_ c) (on .x) [.g 1, .g 2] ∧ c.mode ≠ .task ∧ macroBusy c 0 = true ∧ ¬((0x7FF : Nat) < 0x800 ∧ 0x7FF % 256 ≤ 129))
      ∧ (let c := { ready with
           epicfg := 64, ring := [(0, { st := .queued })], bfmt := 0, dir := [0]
           priv := placed (List.replicate 64 0 ++ [1, 0, 1, 0, 0, 0, 1, 0, 64]) }
         slotRuns (at_ c) (on .x) [.g 1] ∧ popRefused (readBytes c.priv 64 64) (bankCode c 0) = false
           ∧ armedIn c (popRanges (readBytes c.priv 64 64) (bankCode c 0) 0) = some 0) := by
  exact ⟨⟨runs_plain rfl rfl rfl rfl, by decide⟩, ⟨runs_plain rfl rfl rfl rfl, by decide⟩⟩

theorem witness_OwnershipAndBarriers_traps :
    (slotRuns (at_ (regs 8 0 0)) (on .e) [.g 1] ∧ (8#64).toNat % 16 ≠ 0)
      ∧ (slotRuns (at_ (regs 0x100000 0 0)) (on .e) [.g 1, .g 2] ∧ (0x100000#64).toNat % 16 = 0 ∧ 2 ^ 20 ≤ (0x100000#64).toNat
        ∧ bitsOf (gAt (regs 0x100000 0 0) 2).toNat 63 56 = 0)
      ∧ (slotRuns (at_ (regs 0 0 0)) (on .e) [.g 1] ∧ (0 : Nat) ∉ (regs 0 0 0).dir)
      ∧ (slotRuns (at_ (regs 0 0x100000000000000 0)) (on .e) [.g 1, .g 2]
        ∧ bitsOf (gAt (regs 0 0x100000000000000 0) 2).toNat 63 56 ≠ 0)
      ∧ (let x : OutCmd := { kind := .wellWrite [] [], start := 0, epoch := 0, barrier := some 16, sent := 0, order := 0 }
         let c := { regs 16 0 0 with dir := [16], regions := [{ region with hold := [x] }] }
         slotRuns (at_ c) (on .e) [.g 1] ∧ (gAt c 1).toNat ∈ c.dir ∧ heldCounts c (gAt c 1).toNat = true ∧ c.regions ≠ []
           ∧ x ∈ c.regions.flatMap (·.hold) ++ c.outNew ∧ x.barrier = some 16 ∧ x.kind.isFence = false ∧ x.kind.isRead = false)
      ∧ (slotRuns (at_ { core0 with mode := .handler }) (on .y) [] ∧ ({ core0 with mode := .handler } : Core).regions = []) :=
  ⟨⟨runs_plain rfl rfl rfl rfl, by decide⟩, ⟨runs_plain rfl rfl rfl rfl, by decide⟩, ⟨runs_plain rfl rfl rfl rfl, by decide⟩,
    ⟨runs_plain rfl rfl rfl rfl, by decide⟩,
    ⟨runs_plain rfl rfl rfl rfl, by decide, by decide, by decide, by simp, rfl, rfl, rfl⟩,
    ⟨runs_plain rfl rfl rfl rfl, rfl⟩⟩

/-- The data of a digital step in I8 (R369), one product whose only plane does not clip. -/
theorem witness_MatrixCompletions_values :
    (∃ x ∈ mcallSteps ready call, x.data.kind ≠ 2 ∧ x.data.code = 11
        ∧ ∀ b, b < 6 → planeClips (planeSum x.data 0 0 b [0]) = false)
      ∧ ((List.range 8).filter (fun e => (mcallSteps ready call).any (fun x => x.entry == e)) = [0])
      ∧ ({ call with clip := 2, reexec := some 0 } : MCall).reexec = some 0 := by
  decide

set_option maxRecDepth 20000 in
theorem witness_Engines_pop :
    let o : Pop := { cfg := 0, dst := 0, header := [1, 0, 1, 0, 0, 0, 1, 1], params := [], mode := 4, code := 0, entry := 0, issue := 0, k := 20
                     beats := 2, sys := false, failed := false, out := [] }
    let c := { core0 with pop := some o }
    (c.pop = some o ∧ flowsFor (at_ c) c o.sys = true ∧ o.failed = false ∧ 20 ≤ o.k ∧ o.k < 20 + o.beats ∧ struck c 2 = none
        ∧ o.found = none ∧ popTrap c o.code (popAddr o (o.k - 20)) = none ∧ popUe c o (o.k - 20) = none)
      ∧ (isQ o.code = false ∧ (0 : Nat) < imageByte o.header 0 ∧ 0 < imageByte o.header 2 ∧ 0 < elemBytes o.code
        ∧ imageByte o.header 2 * elemBytes o.code ≤ 63 ∧ 63 < 64 * ceilDiv (imageByte o.header 2 * elemBytes o.code) 64
        ∧ imageByte o.header 7 % 2 = 1)
      ∧ ∃ res : Nat → Machine.Num, (∀ j, j % 64 = 0 → res j = .zero)
        ∧ ∀ j, j % 64 ≠ 63 → res (j + 1) = (popEncodeElem o.code o.mode (popValue c o o.round 0 j) (res j)).2 := by
  intro o c
  refine ⟨by decide, by decide, ?_⟩
  obtain ⟨res, h0, h1⟩ := running 64 (fun j e => (popEncodeElem o.code o.mode (popValue c o o.round 0 j) e).2)
  exact ⟨res, h0, fun j hj => h1 j (by omega)⟩

theorem witness_KeystonesPerform_lines :
    (let o := { addOp with kind := .redAdd 2 7 }
     let l : Staging := { kid := 0, pier := 0, word := 0x10000, float := false, slots := [(1, 7)] }
     firstOp 0 [o] = some o ∧ [l].find? (fun l => l.kid == o.kid && l.word == o.addr) = some l ∧ l.float ≠ (2 == 2 || 2 == 5))
      ∧ (let s := { with_ { core0 with glitch := some ⟨4, 0, 9⟩ } rich with ks := { ops := [{ addOp with kind := .atomic 0 2 5 0 }] } }
         firstOp s.cyc s.ks.ops = some { addOp with kind := .atomic 0 2 5 0 } ∧ struck (s.core 0) 4 = some ⟨4, 0, 9⟩
           ∧ Memory.wf s.mem.kmem = true)
      ∧ ({ addOp with kind := .failed (some 5) } : KOp).kind = .failed (some 5) := by
  decide

set_option maxRecDepth 40000 in
theorem witness_OutboundCommandsLeave_parts :
    (let o := { out (.remoteWrite 1 [0x40, 0x80] 0 (List.replicate 128 0)) with lost := [0, 1] }
     let s := { at_ core0 with streams := [stream [o]] }
     (streamsOn s 0).find? (sendReady s) = some (stream [o]) ∧ nextSend (stream [o]).cmds false = some (o, false)
       ∧ carriedSectors o 2 = [] ∧ carriedSectors { o with lost := [0] } 2 = [1])
      ∧ (∀ a ∈ ([0x20000, 0x50000] : List Nat),
         let o := out (.remoteRead 0 [a])
         let s := { with_ core0 endKernel with
           streams := [stream [o]]
           mem := { reads := [{ readBack (some 0) with src := a, data := none }] } }
         (streamsOn s 0).find? (sendReady s) = some (stream [o]) ∧ nextSend (stream [o]).cmds false = some (o, false)
           ∧ s.link.self = 0 ∧ (servedSector s (ctxOf s 0) a).isSome = decide (a = 0x20000)
           ∧ s.mem.reads.filter (readAsked s (stream [o]) o [a]) = s.mem.reads) := by
  refine ⟨by decide, ?_⟩
  intro a ha
  simp only [List.mem_cons, List.not_mem_nil, or_false] at ha
  rcases ha with rfl | rfl <;> decide

theorem witness_WellSectorsPersist_lost :
    let o := { out (.wellWrite [(0x20004000000, 0)] (List.replicate 64 1)) with lost := [0] }
    let s := { at_ core0 with streams := [stream [o]] }
    (streamsOn s 0).findSome? (fun t => (nextWell t.cmds).map (fun o => (t, o))) = some (stream [o], o) ∧ o.sent ∈ o.lost := by
  decide

theorem witness_ReadsReturn_cut :
    ({ readBack none with cut := some (16, 0x100, 1) } : PendingRead).cut = some (16, 0x100, 1)
      ∧ (readBack none).cut = none := by decide

/-- Node 1 over one path, by its port 17. -/
def upLink : Link :=
  { nodes := 2, self := 0, table := [1] ++ List.replicate 31 0 ++ [1] ++ List.replicate 2015 0x91
    ports := [(17, upPort), (0x11, upPort)] }

set_option maxRecDepth 40000 in
theorem witness_MessagesArrive_parts :
    (∃ r, usablePath upLink (bitsOf flit.srcep.toNat 13 8) = some r ∧ bitsOf flit.srcep.toNat 13 8 ≠ upLink.self)
      ∧ (let m := { inb 1 0 with total := 2 }
         let f := { flit with fidx := 1, mlen := 2 }
         [m].find? (sameMessage f) = some m ∧ 64 * f.mlen ≤ (m.data ++ f.payload.take (64 * f.nsect)).length)
      ∧ (let f := { flit with mlen := 2 }
         ([] : List Inbound).find? (sameMessage f) = none ∧ (f.payload.take (64 * f.nsect)).length < 64 * f.mlen)
      ∧ (let m := { inb 1 0 with total := 3 }
         let f := { flit with fidx := 1, mlen := 3 }
         [m].find? (sameMessage f) = some m ∧ (m.data ++ f.payload.take (64 * f.nsect)).length < 64 * f.mlen)
      ∧ (let l : Link := { status := [(1, { applied := 1 })], partial_ := [inb 1 0] }
         let f := { flit with fidx := 1 }
         (nodeOf l 1).isDup f.seq = true ∧ l.partial_.find? (sameMessage f) ≠ none ∧ f.fidx ≠ 0) := by
  refine ⟨⟨(0, 0x11), by decide⟩, by decide, by decide, by decide, by decide⟩

set_option maxRecDepth 40000 in
theorem witness_DataAndFlagsApply_more :
    (let f := inb 2 1
     let s := { with_ { core0 with dir := [16] } endKernel with
       link := { flags := [f], time := .locked, clock := 9 * 192 * windowNs 0 } }
     firstInbound (s.link.flags.filter (flagDue s)) = some f ∧ ownHandle s f.ctx f.addr = true
       ∧ handleBar s f.addr = some (0, 0, 16) ∧ isLate s f.stamp = true ∧ endKernel.st ≠ .suspended ∧ endKernel.st ≠ .resuming)
      ∧ (let f := inb 2 0x10000000001
         let s := { with_ core0 endKernel with link := { flags := [f] } }
         firstInbound (s.link.flags.filter (flagDue s)) = some f ∧ ownHandle s f.ctx f.addr = false
           ∧ (nodeOf s.link f.node).isDup f.seq = false)
      ∧ (let f := inb 2 1
         let s := { with_ core0 endKernel with link := { flags := [f] } }
         firstInbound (s.link.flags.filter (flagDue s)) = some f ∧ ownHandle s f.ctx f.addr = true
           ∧ bitsOf f.addr 31 25 ≠ 0x7F ∧ handleBar s f.addr = none)
      ∧ (let f := inb 3 0x50000
         let s := { with_ core0 endKernel with link := { flags := [f] } }
         firstInbound (s.link.flags.filter (flagDue s)) = some f ∧ endpointKernel s f.ctx = some (0, endKernel)
           ∧ findPage endKernel.pages f.addr = none) := by
  decide

/-- The same gather as an all-reduce, whose areas lie in the one page of the context. -/
def reduces (st : CollState) : Coll := { ring st with desc := patch (patch gather 0x0B [0]) 0x68 [0] }

set_option maxRecDepth 40000 in
theorem witness_AbortsAndCollectives_bars :
    (let d := { ringHere with desc := patch (patch ringHere.desc 0x0F [1]) 0x90 [1, 0, 0, 0, 0, 0] }
     let s := with_ { core0 with dir := [16] } endKernel
     collBars s d = [(0, 0, 16)] ∧ s.kernel? 0 = some endKernel ∧ endKernel.st ≠ .suspended ∧ endKernel.st ≠ .resuming
       ∧ endKernel.bind[0]? = some 0)
      ∧ ({ ring .running with desc := patch gather 0x0B [1] } : Coll).op = 1
      ∧ ({ ring .running with bar := lastArrival } : Coll).localReady = true := by
  decide

theorem witness_PortStates_training :
    (let s : State := { State.reset with link := { ports := [(17, { st := .training })], elapsed := 96000000001 } }
     (portOf s.link 17).st = .training ∧ (portOf s.link 17).since + 96000000000 < s.link.elapsed) := by
  decide

set_option maxRecDepth 200000 in
theorem witness_FlitsAndIdent_wire :
    let f := { flit with payload := List.replicate 192 0 }
    f.type < 256 ∧ f.nsect < 256 ∧ f.fidx < 256 ∧ f.mlen < 256 ∧ f.epoch < 256 ∧ f.hops < 256 ∧ f.seq < 2 ^ 32
      ∧ f.stamp < 2 ^ 48 ∧ f.payload.length = 192 ∧ f.crcOk = true ∧ (flitWire f).length = 265 := by
  refine ⟨by decide, by decide, by decide, by decide, by decide, by decide, by decide, by decide, by decide, by decide, ?_⟩
  decide +kernel

theorem witness_ChipTime_ages :
    (∀ p, slavePort { masters := [(p, Config.clockSet)], elapsed := 96000000000 } = some p)
      ∧ (let l : Link := { time := .locked, lastSync := 0, elapsed := 6000000000 }
         l.time = .locked ∧ l.lastSync + 6000000000 ≤ l.elapsed ∧ l.elapsed < l.lastSync + 96000000000)
      ∧ (let l : Link := { time := .locked, lastSync := 0, elapsed := 5999999999 }
         l.elapsed < l.lastSync + 6000000000)
      ∧ (⟨0, [], true⟩ : PtpSync).request = true := by
  refine ⟨fun p => ?_, by decide, by decide, rfl⟩
  simp [slavePort, bestMaster, lexLess_self]

/-- The pointed image with a drain stub at 0x40 for role 0 and its first bundle (R132). -/
def stubbed : Image := { pointed with bytes := patch (patch pointed.bytes 0x14 [1]) 0x24 [0x90] ++ List.replicate 12 0 }

theorem witness_PreemptionsDrainAndResume_stub :
    let im := { stubbed with bytes := patch stubbed.bytes 0x98 [64, 0, 0, 0, 0x40] }
    stubOf im 0 0 = some 0x40 ∧ stubOf im 1 0 = none := by decide

theorem witness_GroupsStartAndHold_args :
    let s := { with_ core0 (kin .preparing) with cp := { ctxs := [(0, { due := [argsDueRec] })] } }
    s.kernel? 0 = some (kin .preparing) ∧ (kin .preparing).st = .preparing ∧ s.cyc % 1024 = 0
      ∧ argsDue s 0 (kin .preparing) = true := by decide

set_option maxRecDepth 20000 in
theorem witness_PreemptionsDrainAndResume_states :
    (∀ st ∈ ([.held, .preparing, .resuming, .draining, .suspended, .relaunching] : List KState),
       let s := { hosted { oneCtx with images := [(0, pointed)] } {} with kernels := [(0, kin st)], cores := [(0, core0)] }
       s.kernel? 0 = some (kin st) ∧ (kin st).st = st ∧ (kin st).preq = none ∧ hasPoints s (kin st) = true)
      ∧ (let k := { fetchKernel with preq := some 0 }
         let s := { hosted { oneCtx with images := [(0, pointed)] } {} with kernels := [(0, k)], cores := [(0, core0)] }
         s.kernel? 0 = some k ∧ 0 ≤ k.ttc ∧ k.ttc ∈ pointsOf (imageOf s k) ∧ k.lastPoint < (k.ttc : Int) ∧ k.bind.Nodup
           ∧ (∀ p ∈ k.bind, pointBlocked (s.core p) = false) ∧ (s.core 0).done = false
           ∧ stubOf (imageOf s k) (leaveBodies (s.core 0)).role (bundleAt s 0 (leaveBodies (s.core 0)).pc) = none)
      ∧ ({ core0 with done := true } : Core).done = true
      ∧ ((with_ core0 (kin .resuming)).cyc % 1024 ≠ { kin .resuming with point := 1 }.point % 1024) := by
  decide

/-- A relaunching kernel on a cluster that a test slice holds. -/
def sliced (x : Cluster) : State :=
  let k := { kin .relaunching with decl := oneCore }
  { hosted oneCtx {} with
    mgmt := { clusters := [(0, x)] }
    kernels := [(0, k)], cores := [(0, core0)] }

set_option maxRecDepth 20000 in
theorem witness_KernelsEndAndRelaunch_slices :
    (let k := { kin .relaunching with decl := oneCore }
     let s := sliced { slice := some 7 }
     s.kernel? 0 = some k ∧ rebind s 0 k = none ∧ rebind (noSlices s) 0 k ≠ none)
      ∧ (let k := { kin .relaunching with decl := oneCore, argLen := 8 }
         let s := { sliced {} with kernels := [(0, k)] }
         s.kernel? 0 = some k ∧ rebind s 0 k ≠ none ∧ argsUe s k = true)
      ∧ ({ kin .relaunching with deferred := true } : Kernel).deferred = true := by
  decide

theorem witness_RegionsUnwind_nested :
    (let c := { core0 with upend := [(0, 2, 1), (0, 1, 3)], regions := [region, { region with target := 64 }] }
     dueUnwind 0 c = some (0, 1, 3) ∧ (c.regions.take (c.regions.length - (1 - 1))).getLast? = some { region with target := 64 })
      ∧ (let c := { core0 with upend := [(0, 2, 1), (9, 1, 3)], regions := [region, { region with target := 64 }] }
         dueUnwind 0 c = some (0, 2, 1) ∧ (c.regions.take (c.regions.length - (2 - 1))).getLast? = some region)
      ∧ dueUnwind 0 { core0 with upend := [(1, 1, 3)] } = none := by decide

theorem witness_FailedUnitsAndTests_lanes :
    7 ∉ (tget ({} : Shaft) (served .full).mgmt.shafts 127).failed
      ∧ 7 ∉ (tget ({} : Shaft) (served .full).mgmt.shafts 127).waiting := by decide

set_option maxRecDepth 40000 in
theorem witness_ContextCommands_hash :
    (let s := { posted (entry 4 [0x8000, 1600]) { oneCtx with images := [] } with
       mem := { phys := placedAt [(0x1000, [1, 0x20]), (0x2000, [0x0F]), (0x8000, oneHeader)], key := [(64, 1), (128, 1)]
                qmem := placedAt [(64 * 63, entry 4 [0x8000, 1600])] } }
     (headed s 4 && !imaging s && decide ((ctxAt s 0).st = .ready) && decide ((ctxAt s 0).images.length < 16)
       && (tableRange s 0 cpReadable (2 ^ 40) 1600).isNone
       && (match tableRange s 0 cpReadable 0x8000 1600 with
         | none => false
         | some ps => let b := readPieces s ps
                      headerFits b && windowPlace (ctxAt s 0).images (fieldLE b 0x30 4 + fieldLE b 0x34 4) == some 0)) = true) := by
  decide +kernel

set_option maxRecDepth 20000 in
theorem witness_ContextCommands_waits :
    (let h : Hashing := { pier := 0, ctx := 0, use := .image 63 0x8000 1600, left := [(0x8000, 0, 1600)] }
     let s := { posted (entry 4 [0x8000, 1600]) oneCtx with cp := { ctl := [63], ctxs := [(0, oneCtx)], hashing := [h] } }
     headed s 4 = true ∧ imaging s = true ∧ h.use = .image 63 0x8000 1600)
      ∧ (headed (posted (entry 4 [0x8000, 1600]) {}) 4 = true ∧ (ctxAt (posted (entry 4 [0x8000, 1600]) {}) 0).st ≠ .ready)
      ∧ (let c := { oneCtx with images := (List.range 16).map (fun n => (n, oneBundle)) }
         headed (posted (entry 4 [0x8000, 1600]) c) 4 = true ∧ ¬c.images.length < 16)
      ∧ headerFits [] = false
      ∧ (let s := posted [1] {}
         let t := { s with
           mem := { s.mem with qmem := writeBytes (writeBytes s.mem.qmem (64 * 63) [0]) (64 * 5) [5] }
           cp := { s.cp with ctl := [5, 63] } }
         (controlEntry t).map (fun e => e.1) = some 5 ∧ memRead t.mem.qmem (64 * 5) = 5
           ∧ ∀ j ∈ t.cp.ctl, memRead t.mem.qmem (64 * j) ≠ 0x0A) := by
  refine ⟨by decide, by decide, by decide, by decide, by decide⟩

set_option maxRecDepth 20000 in
theorem witness_ContextStates_waits :
    (let k := kin .relaunching
     let s := { posted (entry 5 []) { oneCtx with st := .running } with kernels := [(0, k)] }
     headed s 5 = true ∧ (ctxAt s 0).st = .running
       ∧ s.kernels.filter (fun x => x.2.ctx == 0 && x.2.st == .relaunching) = [(0, k)]
       ∧ tfind (ctxAt s 0).frames (frameRank s 0 0) = none ∧ 0 ∈ k.clusters)
      ∧ (switchedClusters (posted [] { oneCtx with st := .yielding }) 0 = [0])
      ∧ (let s := { posted (entry 6 [1]) { oneCtx with st := .switched } with kernels := [(0, { kin .suspended with decl := oneCore })] }
         headed s 6 = true ∧ ∀ x ∈ liveKernels s 0, comesBack x.2 = true → bindsOn s 1 x.2 = true) := by
  refine ⟨by decide, by decide, by decide⟩

theorem witness_CommandsDispatch_old :
    oldCommand (hosted oneCtx { movedFrom := some 3 }) 3 = true
      ∧ candidates (hosted oneCtx { st := .ready, movedFrom := some 0 }) = [] := by
  decide

/-- The memories as the cycle found them. -/
def settled (s : State) : State :=
  { s with ks := { s.ks with before := { phys := s.mem.phys, kmem := s.mem.kmem, key := s.mem.key, pages := s.ks.pages } } }

set_option maxRecDepth 20000 in
theorem witness_WaitsAndSignals_cases :
    (let s := settled (hosted oneCtx (cmdQueue (waitCmd 0)))
     begins s 3 = true ∧ (wordAt (begun s 0) 0 0x10000 false).map (wordValue (atCycleStart (begun s 0))) = some 0)
      ∧ (∀ f ∈ ([0, 1] : List Byte),
         let s := hosted oneCtx (cmdQueue (command ([4] ++ List.replicate 7 0 ++ [f] ++ List.replicate 7 0 ++ natLE 8 7 ++ natLE 8 0x10004)))
         begins s 4 = true ∧ fieldLE (queueAt s 0).cmd 24 8 % 8 ≠ 0 ∧ fieldLE (queueAt s 0).cmd 8 1 = f.toNat)
      ∧ (let s := hosted oneCtx (cmdQueue (command ([4] ++ List.replicate 7 0 ++ [3])))
         begins s 4 = true ∧ 2 < fieldLE (queueAt s 0).cmd 8 1)
      ∧ (let s := hosted oneCtx (cmdQueue (command ([4] ++ List.replicate 7 0 ++ [1] ++ List.replicate 7 0 ++ natLE 8 7 ++ natLE 8 0x10000)))
         begins s 4 = true ∧ fieldLE (queueAt s 0).cmd 8 1 = 1 ∧ wordSeen (begun s 0) 0x10000 true = some 0)
      ∧ (let s := hosted oneCtx (cmdQueue (command ([4] ++ List.replicate 7 0 ++ [2] ++ List.replicate 23 0 ++ natLE 4 1)))
         let k := { kin .preparing with kseq := 1 }
         begins s 4 = true ∧ kernelBySeq { s with kernels := [(0, k)] } 0 1 = some (0, k) ∧ k.st = .preparing)
      ∧ (let x := { cmdQueue (waitCmd 1) with st := .waiting, begun := true, stamp := 0 }
         let s := { hosted oneCtx x with link := { clock := 192000 } }
         queueAt s 0 = x ∧ x.st = .waiting ∧ fieldLE x.cmd 36 4 ≠ 0 ∧ x.stamp + 192000 * fieldLE x.cmd 36 4 ≤ s.link.clock) := by
  refine ⟨by decide, by decide, by decide, by decide, by decide, by decide⟩

/-- An issue of core 0 whose pending target leaves a loop body. -/
theorem witness_StepRunsDecodedInstruction_leaves :
    let s := takenAdd.setCore 0 { takenAdd.core 0 with brFrom := some 0, loops := [body 3 false] }
    issuesNow s 0 = true ∧ ((s.updCore 0 leaveBodies).core 0).brFrom = none := by
  decide +kernel

/-! ## Well-formedness -/

/-- Operations in a slot that the opcode map does not give it (R302, R305 to R311). -/
def outOfPlace1 : List Instr :=
  [.swrRmode ⟨⟨.a, false, 0⟩, 0⟩, .swrBfmt ⟨⟨.a, false, 0⟩, 0, 0⟩, .movG ⟨⟨.y, false, 0⟩, 0, .reg 0⟩,
   .movG ⟨⟨.m, false, 0⟩, 0, .reg 0⟩, .movImm ⟨⟨.y, false, 0⟩, 0, 0⟩, .movFimm ⟨⟨.y, false, 0⟩, 0, 0⟩,
   .add ⟨⟨.y, false, 0⟩, 0, 0, .reg 0⟩, .add ⟨⟨.m, false, 0⟩, 0, 0, .reg 0⟩, .addImm ⟨⟨.y, false, 0⟩, 0, 0, 0⟩,
   .sub ⟨⟨.y, false, 0⟩, 0, 0, .reg 0⟩, .subImm ⟨⟨.y, false, 0⟩, 0, 0, 0⟩, .and ⟨⟨.y, false, 0⟩, 0, 0, .reg 0⟩,
   .andImm ⟨⟨.y, false, 0⟩, 0, 0, 0⟩, .or ⟨⟨.y, false, 0⟩, 0, 0, .reg 0⟩, .orImm ⟨⟨.y, false, 0⟩, 0, 0, 0⟩,
   .xor ⟨⟨.y, false, 0⟩, 0, 0, .reg 0⟩, .xorImm ⟨⟨.y, false, 0⟩, 0, 0, 0⟩, .shl ⟨⟨.y, false, 0⟩, 0, 0, .reg 0⟩,
   .shlImm ⟨⟨.y, false, 0⟩, 0, 0, 0⟩, .shr ⟨⟨.y, false, 0⟩, 0, 0, .reg 0⟩, .shrImm ⟨⟨.y, false, 0⟩, 0, 0, 0⟩,
   .sra ⟨⟨.y, false, 0⟩, 0, 0, .reg 0⟩, .sraImm ⟨⟨.y, false, 0⟩, 0, 0, 0⟩, .mul ⟨⟨.y, false, 0⟩, 0, 0, .reg 0⟩]

/-- Operations in a slot that the opcode map does not give it (R302, R305 to R311). -/
def outOfPlace2 : List Instr :=
  [.mulImm ⟨⟨.y, false, 0⟩, 0, 0, 0⟩, .mulh ⟨⟨.y, false, 0⟩, 0, 0, .reg 0⟩, .mulhu ⟨⟨.y, false, 0⟩, 0, 0, .reg 0⟩,
   .div ⟨⟨.y, false, 0⟩, 0, 0, .reg 0⟩, .divu ⟨⟨.y, false, 0⟩, 0, 0, .reg 0⟩, .rem ⟨⟨.y, false, 0⟩, 0, 0, .reg 0⟩,
   .remu ⟨⟨.y, false, 0⟩, 0, 0, .reg 0⟩, .min ⟨⟨.y, false, 0⟩, 0, 0, .reg 0⟩, .minu ⟨⟨.y, false, 0⟩, 0, 0, .reg 0⟩,
   .max ⟨⟨.y, false, 0⟩, 0, 0, .reg 0⟩, .maxu ⟨⟨.y, false, 0⟩, 0, 0, .reg 0⟩, .sel ⟨⟨.y, false, 0⟩, 0, 0, .reg 0, 0⟩,
   .cmp ⟨⟨.y, false, 0⟩, 0, 0, .reg 0, 0⟩, .cmpImm ⟨⟨.y, false, 0⟩, 0, 0, 0, 0⟩,
   .cmpImmUnsigned ⟨⟨.y, false, 0⟩, 0, 0, 0, 0⟩, .pand ⟨⟨.y, false, 0⟩, 0, 0, 0⟩, .por ⟨⟨.y, false, 0⟩, 0, 0, 0⟩,
   .pxor ⟨⟨.y, false, 0⟩, 0, 0, 0⟩, .pandn ⟨⟨.y, false, 0⟩, 0, 0, 0⟩, .movToX ⟨⟨.s, false, 0⟩, 0, 0⟩,
   .movFromX ⟨⟨.s, false, 0⟩, 0, 0⟩, .movToM ⟨⟨.s, false, 0⟩, 0, 0⟩, .movFromM ⟨⟨.s, false, 0⟩, 0, 0⟩,
   .movToF ⟨⟨.s, false, 0⟩, 0, 0⟩]

/-- Operations in a slot that the opcode map does not give it (R302, R305 to R311). -/
def outOfPlace3 : List Instr :=
  [.movFromF ⟨⟨.s, false, 0⟩, 0, 0⟩, .movFromLc ⟨⟨.s, false, 0⟩, 0, 0⟩, .br ⟨⟨.a, false, 0⟩, 0⟩,
   .call ⟨⟨.a, false, 0⟩, 0⟩, .jmpi ⟨⟨.a, false, 0⟩, 0⟩, .loop ⟨⟨.a, false, 0⟩, 0, 0, 1⟩,
   .loopn ⟨⟨.a, false, 0⟩, 0, 0⟩, .nopn ⟨⟨.a, false, 0⟩, 1⟩, .srd ⟨⟨.a, false, 0⟩, 0, 0⟩,
   .swr ⟨⟨.a, false, 0⟩, 0, 0⟩, .ld ⟨⟨.v0, false, 0⟩, 0, 0, 0⟩, .ldIndexed ⟨⟨.v0, false, 0⟩, 0, 0, .reg 0⟩,
   .ldRaw ⟨⟨.v0, false, 0⟩, 0, 0, 0, 0⟩, .ldRawIndexed ⟨⟨.v0, false, 0⟩, 0, 0, .reg 0, 0⟩,
   .st ⟨⟨.v0, false, 0⟩, 0, 0, 0⟩, .stIndexed ⟨⟨.v0, false, 0⟩, 0, 0, .reg 0⟩, .stRaw ⟨⟨.v0, false, 0⟩, 0, 0, 0, 0⟩,
   .stRawIndexed ⟨⟨.v0, false, 0⟩, 0, 0, .reg 0, 0⟩, .vld ⟨⟨.v0, false, 0⟩, 0, 0, 0⟩,
   .vldIndexed ⟨⟨.v0, false, 0⟩, 0, 0, .reg 0, 0⟩, .vst ⟨⟨.v0, false, 0⟩, 0, 0, 0⟩,
   .vstIndexed ⟨⟨.v0, false, 0⟩, 0, 0, .reg 0, 0⟩, .vmov ⟨⟨.m, false, 0⟩, 0, .reg 0, 0⟩,
   .vmovImm ⟨⟨.m, false, 0⟩, 0, 0⟩]

/-- Operations in a slot that the opcode map does not give it (R302, R305 to R311). -/
def outOfPlace4 : List Instr :=
  [.vmovFimm ⟨⟨.m, false, 0⟩, 0, 0⟩, .vbcast ⟨⟨.m, false, 0⟩, 0, 0, 0⟩, .vext ⟨⟨.m, false, 0⟩, 0, 0, 0, 0⟩,
   .vaddF32 ⟨⟨.m, false, 0⟩, 0, 0, .reg 0, 0⟩, .vaddI32 ⟨⟨.m, false, 0⟩, 0, 0, .reg 0, 0⟩,
   .vaddF32Imm ⟨⟨.m, false, 0⟩, 0, 0, 0⟩, .vaddI32Imm ⟨⟨.m, false, 0⟩, 0, 0, 0⟩,
   .vmulF32 ⟨⟨.m, false, 0⟩, 0, 0, .reg 0, 0⟩, .vmulI32 ⟨⟨.m, false, 0⟩, 0, 0, .reg 0, 0⟩,
   .vmulF32Imm ⟨⟨.m, false, 0⟩, 0, 0, 0⟩, .vmulI32Imm ⟨⟨.m, false, 0⟩, 0, 0, 0⟩,
   .vsubF32 ⟨⟨.m, false, 0⟩, 0, 0, .reg 0, 0⟩, .vsubI32 ⟨⟨.m, false, 0⟩, 0, 0, .reg 0, 0⟩,
   .vfma ⟨⟨.m, false, 0⟩, 0, 0, .reg 0, 0, false, false, 0⟩, .vminF32 ⟨⟨.m, false, 0⟩, 0, 0, .reg 0, 0⟩,
   .vminI32 ⟨⟨.m, false, 0⟩, 0, 0, .reg 0, 0⟩, .vminN32 ⟨⟨.m, false, 0⟩, 0, 0, .reg 0, 0⟩,
   .vmaxF32 ⟨⟨.m, false, 0⟩, 0, 0, .reg 0, 0⟩, .vmaxI32 ⟨⟨.m, false, 0⟩, 0, 0, .reg 0, 0⟩,
   .vmaxN32 ⟨⟨.m, false, 0⟩, 0, 0, .reg 0, 0⟩, .vabs ⟨⟨.m, false, 0⟩, 0, 0, 0⟩, .vneg ⟨⟨.m, false, 0⟩, 0, 0, 0⟩,
   .vand ⟨⟨.m, false, 0⟩, 0, 0, .reg 0, 0⟩, .vor ⟨⟨.m, false, 0⟩, 0, 0, .reg 0, 0⟩]

/-- Operations in a slot that the opcode map does not give it (R302, R305 to R311). -/
def outOfPlace5 : List Instr :=
  [.vxor ⟨⟨.m, false, 0⟩, 0, 0, .reg 0, 0⟩, .vshl ⟨⟨.m, false, 0⟩, 0, 0, .reg 0, 0⟩,
   .vshr ⟨⟨.m, false, 0⟩, 0, 0, .reg 0, 0⟩, .vsra ⟨⟨.m, false, 0⟩, 0, 0, .reg 0, 0⟩,
   .vcmpF32 ⟨⟨.m, false, 0⟩, 0, 0, .reg 0, 0, 0⟩, .vcmpI32 ⟨⟨.m, false, 0⟩, 0, 0, .reg 0, 0, 0⟩,
   .vcmpN32 ⟨⟨.m, false, 0⟩, 0, 0, .reg 0, 0, 0⟩, .vsel ⟨⟨.m, false, 0⟩, 0, 0, .reg 0, 0, 0⟩,
   .vperm ⟨⟨.m, false, 0⟩, 0, 0, .reg 0, 0⟩, .vredF32 ⟨⟨.m, false, 0⟩, 0, 0, 0, 0⟩,
   .vredI32 ⟨⟨.m, false, 0⟩, 0, 0, 0, 0⟩, .vredN32 ⟨⟨.m, false, 0⟩, 0, 0, 0, 0⟩, .vcvt ⟨⟨.m, false, 0⟩, 0, 0, 0, 0⟩,
   .xmovStart ⟨⟨.v0, false, 0⟩, 0, 0, 0, 0, 0⟩, .xmovCollect ⟨⟨.v0, false, 0⟩, 0, 1, 0⟩, .wclaim ⟨⟨.e, false, 0⟩, 0⟩,
   .wrel ⟨⟨.e, false, 0⟩, 0⟩, .oclaim ⟨⟨.e, false, 0⟩, 0⟩, .orel ⟨⟨.e, false, 0⟩, 0⟩,
   .oload ⟨⟨.e, false, 0⟩, 0, 0, 0⟩, .wload ⟨⟨.e, false, 0⟩, 0, 0, false⟩, .mpload ⟨⟨.e, false, 0⟩, 0, 0⟩,
   .mcall ⟨⟨.e, false, 0⟩, 0⟩, .mcallSplit ⟨⟨.e, false, 0⟩, 0, 0, 0⟩]

/-- Operations in a slot that the opcode map does not give it (R302, R305 to R311). -/
def outOfPlace6 : List Instr :=
  [.mcallSparse ⟨⟨.e, false, 0⟩, 0, 0, 0, 0⟩, .epiCfg ⟨⟨.e, false, 0⟩, 0⟩, .epiPop ⟨⟨.e, false, 0⟩, 0⟩,
   .epiSt ⟨⟨.e, false, 0⟩, 0⟩, .calRd ⟨⟨.e, false, 0⟩, 0, 0⟩, .calWr ⟨⟨.e, false, 0⟩, 0, 0⟩,
   .pmpCp ⟨⟨.x, false, 0⟩, 0, 0, 0, 0, false, 0⟩, .pmpGth ⟨⟨.x, false, 0⟩, 0, 0, 0, 0, false, 0⟩,
   .pmpSct ⟨⟨.x, false, 0⟩, 0, 0, 0, 0, false, 0⟩, .pmpDec ⟨⟨.x, false, 0⟩, 0, 0, 0, 0, false, 0⟩,
   .pmpCmp ⟨⟨.x, false, 0⟩, 0, 0, 0, 0, false, 0⟩, .ctabLd ⟨⟨.x, false, 0⟩, 0, 0, 0, 0⟩,
   .ownGive ⟨⟨.x, false, 0⟩, 0⟩, .ownTake ⟨⟨.x, false, 0⟩, 0⟩, .txbInit ⟨⟨.x, false, 0⟩, 0, 0⟩,
   .txbExpect ⟨⟨.x, false, 0⟩, 0, 0⟩, .txbArrive ⟨⟨.x, false, 0⟩, 0⟩, .txbArriveRemote ⟨⟨.x, false, 0⟩, 0⟩,
   .txbWait ⟨⟨.x, false, 0⟩, 0, 0, 0⟩, .aadd ⟨⟨.x, false, 0⟩, 0, 0, 0, 0, 0⟩, .aincw ⟨⟨.x, false, 0⟩, 0, 0, 0, 1, 0⟩,
   .afaddb ⟨⟨.x, false, 0⟩, 0, 0, 0, 0, 1, 0, 0⟩, .acas ⟨⟨.x, false, 0⟩, 0, 0, 0, 0, 0, 0⟩,
   .axchg ⟨⟨.x, false, 0⟩, 0, 0, 0, 0, 0⟩]

/-- Operations in a slot that the opcode map does not give it (R302, R305 to R311). -/
def outOfPlace7 : List Instr :=
  [.amin ⟨⟨.x, false, 0⟩, 0, 0, 0, 0, 0⟩, .amax ⟨⟨.x, false, 0⟩, 0, 0, 0, 0, 0⟩,
   .aand ⟨⟨.x, false, 0⟩, 0, 0, 0, 1, 0⟩, .aor ⟨⟨.x, false, 0⟩, 0, 0, 0, 1, 0⟩,
   .axor ⟨⟨.x, false, 0⟩, 0, 0, 0, 1, 0⟩, .redAdd ⟨⟨.x, false, 0⟩, 0, 0, 0, 0⟩,
   .redComb ⟨⟨.x, false, 0⟩, 0, 0, 0, 0⟩, .collStart ⟨⟨.x, false, 0⟩, 0⟩, .collSt ⟨⟨.x, false, 0⟩, 0, 0⟩,
   .blkAlloc ⟨⟨.x, false, 0⟩, 0, 0, 0⟩, .blkXlat ⟨⟨.x, false, 0⟩, 0, 0, 0⟩, .blkShare ⟨⟨.x, false, 0⟩, 0, 0, 0, 0⟩,
   .blkFree ⟨⟨.x, false, 0⟩, 0, 0, 0⟩, .pbarDurBarrier ⟨⟨.x, false, 0⟩, 0⟩, .fence ⟨⟨.e, false, 0⟩, 1⟩,
   .tsync ⟨⟨.e, false, 0⟩, .reg 0⟩, .crgnOpen ⟨⟨.e, false, 0⟩, 0⟩, .trap ⟨⟨.e, false, 0⟩, 0⟩,
   .testRd ⟨⟨.e, false, 0⟩, 0, 0⟩, .mhead ⟨⟨.e, false, 0⟩, 0, 0⟩, .ret ⟨.a, false, 0⟩, .pbarDur ⟨.x, false, 0⟩,
   .crgnClose ⟨.e, false, 0⟩, .eret ⟨.e, false, 0⟩]

/-- Operations in a slot that the opcode map does not give it (R302, R305 to R311). -/
def outOfPlace8 : List Instr :=
  [.done ⟨.e, false, 0⟩]

theorem wf_refuses_slots : [outOfPlace1, outOfPlace2, outOfPlace3, outOfPlace4, outOfPlace5, outOfPlace6, outOfPlace7, outOfPlace8].all (fun l => l.all (fun i => !i.wf)) = true := by decide

/-- Operations whose variant, number or operand range holds a reserved value (R304 to R312). -/
def reserved1 : List Instr :=
  [.cmp ⟨⟨.s, false, 0⟩, 0, 0, .reg 0, 6⟩, .cmpImmUnsigned ⟨⟨.s, false, 0⟩, 0, 0, 0, 2⟩,
   .movFromLc ⟨⟨.a, false, 0⟩, 0, 6⟩, .loop ⟨⟨.s, false, 0⟩, 0, 0, 0⟩, .nopn ⟨⟨.s, false, 0⟩, 0⟩,
   .nopn ⟨⟨.s, false, 0⟩, 0x80000⟩, .swr ⟨⟨.s, false, 0⟩, 0, 0x00D⟩, .swr ⟨⟨.s, false, 0⟩, 0, 0x020⟩,
   .swr ⟨⟨.s, false, 0⟩, 0, 0x02F⟩, .vcmpF32 ⟨⟨.v1, false, 0⟩, 0, 0, .reg 0, 4, 0⟩,
   .vcmpI32 ⟨⟨.v1, false, 0⟩, 0, 0, .reg 0, 4, 0⟩, .vcmpN32 ⟨⟨.v1, false, 0⟩, 0, 0, .reg 0, 7, 0⟩,
   .vredF32 ⟨⟨.v1, false, 0⟩, 0, 0, 3, 0⟩, .vredI32 ⟨⟨.v1, false, 0⟩, 0, 0, 3, 0⟩,
   .vredN32 ⟨⟨.v1, false, 0⟩, 0, 0, 3, 0⟩, .vcvt ⟨⟨.v1, false, 0⟩, 0, 0, 9, 0⟩,
   .xmovStart ⟨⟨.v1, false, 0⟩, 0, 0, 1, 0, 0⟩, .xmovStart ⟨⟨.v1, false, 0⟩, 0, 0, 0, 2, 0⟩,
   .xmovStart ⟨⟨.v1, false, 0⟩, 0, 0, 2, 7, 0⟩, .xmovCollect ⟨⟨.v1, false, 0⟩, 0, 2, 0⟩,
   .mcallSplit ⟨⟨.x, false, 0⟩, 0, 7, 0⟩, .mcallSplit ⟨⟨.x, false, 0⟩, 0, 0, 3⟩,
   .mcallSparse ⟨⟨.x, false, 0⟩, 0, 7, 0, 0⟩, .mcallSparse ⟨⟨.x, false, 0⟩, 0, 0, 3, 0⟩]

/-- Operations whose variant, number or operand range holds a reserved value (R304 to R312). -/
def reserved2 : List Instr :=
  [.mcallSparse ⟨⟨.x, false, 0⟩, 0, 0, 0, 3⟩, .pmpCp ⟨⟨.e, false, 0⟩, 0, 0, 0, 13, false, 0⟩,
   .pmpCp ⟨⟨.e, false, 0⟩, 0, 0, 0, 0, false, 1⟩, .pmpGth ⟨⟨.e, false, 0⟩, 0, 0, 0, 13, false, 0⟩,
   .pmpGth ⟨⟨.e, false, 0⟩, 0, 0, 0, 0, false, 1⟩, .pmpSct ⟨⟨.e, false, 0⟩, 0, 0, 0, 13, false, 0⟩,
   .pmpSct ⟨⟨.e, false, 0⟩, 0, 0, 0, 0, false, 1⟩, .pmpDec ⟨⟨.e, false, 0⟩, 0, 0, 0, 13, false, 0⟩,
   .pmpCmp ⟨⟨.e, false, 0⟩, 0, 0, 0, 13, false, 0⟩, .aadd ⟨⟨.e, false, 0⟩, 0, 0, 0, 5, 0⟩, .axchg ⟨⟨.e, false, 0⟩, 0, 0, 0, 5, 0⟩,
   .amin ⟨⟨.e, false, 0⟩, 0, 0, 0, 5, 0⟩, .amax ⟨⟨.e, false, 0⟩, 0, 0, 0, 5, 0⟩,
   .aincw ⟨⟨.e, false, 0⟩, 0, 0, 0, 0, 0⟩, .aand ⟨⟨.e, false, 0⟩, 0, 0, 0, 0, 0⟩,
   .aor ⟨⟨.e, false, 0⟩, 0, 0, 0, 0, 0⟩, .axor ⟨⟨.e, false, 0⟩, 0, 0, 0, 0, 0⟩,
   .afaddb ⟨⟨.e, false, 0⟩, 0, 0, 0, 0, 0, 0, 0⟩, .acas ⟨⟨.e, false, 0⟩, 0, 0, 0, 0, 2, 0⟩,
   .redAdd ⟨⟨.e, false, 0⟩, 0, 0, 3, 0⟩, .redComb ⟨⟨.e, false, 0⟩, 0, 0, 5, 0⟩, .fence ⟨⟨.y, false, 0⟩, 0⟩]

/-- Operations whose variant, number or operand range holds a reserved value (R304 to R312). -/
def reserved3 : List Instr :=
  [.fence ⟨⟨.y, false, 0⟩, 7⟩]

theorem wf_refuses_reserved : [reserved1, reserved2, reserved3].all (fun l => l.all (fun i => !i.wf)) = true := by decide

/-- Events whose number lies outside its range. -/
def beyond1 : List Instr :=
  [.clusterRetest 128, .testSliceStart 128, .testSliceEnd 128, .controlDoorbell 64, .queueEnable 256,
   .queueDisable 256, .queueResume 256, .queueDoorbell 256 0, .queueAging 256, .mailboxWrite 0 512 0 0,
   .mailboxWrite 0 0 8 0, .laneSubstitution 128, .engineStart 640, .engineComplete 640, .resultLand 640,
   .keystoneReturn 640, .transformResult 640, .oloadComplete 640, .wloadComplete 640, .mploadWrite 640,
   .mcallCommit 640, .clipReexecuteDone 640, .epiPopComplete 640, .ctabLdComplete 640]

/-- Events whose number lies outside its range. -/
def beyond2 : List Instr :=
  [.outboundSend 640, .wellSectorAccept 640, .epochDurable 640, .fetchBundle 640, .barrierTimeout 640 0,
   .portSignalDetect 18, .trainingComplete 18 0, .trainingFail 18, .trainingRetry 18, .alignmentLossTimeout 18,
   .flitReplay 18 0, .portRetrain 18, .laneFail 18 0, .laneFail 0 8, .ackTimeout 64, .time 18 ⟨0, [], false⟩,
   .flitReceive 18 [], .ident 18 flit, .data 18 flit]

theorem wf_refuses_ranges : [beyond1, beyond2].all (fun l => l.all (fun i => !i.wf)) = true := by decide

/-! ## Words -/

/-- Laid out from R281, R284, R286 and R287, with the code of R302 to R312. -/
theorem word_add : decodeTableWord 56 0x9820A30E000001 = some (.add ⟨⟨.s, true, 3⟩, 5, 6, .reg 7⟩) := by decide

/-- Laid out from R281, R284, R286 and R287, with the code of R302 to R312. -/
theorem word_addImm : decodeTableWord 56 0x28A37FFFF002 = some (.addImm ⟨⟨.a, false, 0⟩, 5, 6, 0xFFFFE⟩) := by decide

/-- Laid out from R281, R284, R286 and R287, with the code of R302 to R312. -/
theorem word_remu : decodeTableWord 88 0x8000000100DFE080000101 = some (.remu ⟨⟨.s, false, 0⟩, 63, 1, .lit 0x80000001⟩) := by decide

/-- Laid out from R281, R284, R286 and R287, with the code of R302 to R312. -/
theorem word_movFimm : decodeTableWord 56 0x19201FC00001 = some (.movFimm ⟨⟨.s, false, 0⟩, 9, 0x3F800⟩) := by decide

/-- Laid out from R281, R284, R286 and R287, with the code of R302 to R312. -/
theorem word_sel : decodeTableWord 56 0x100828C580002 = some (.sel ⟨⟨.a, false, 0⟩, 4, 5, .reg 6, 11⟩) := by decide

/-- Laid out from R281, R284, R286 and R287, with the code of R302 to R312. -/
theorem word_cmp : decodeTableWord 56 0x140830A060801 = some (.cmp ⟨⟨.s, false, 0⟩, 2, 6, .const 0x85, 4⟩) := by decide

/-- Laid out from R281, R284, R286 and R287, with the code of R302 to R312. -/
theorem word_cmpImmUnsigned : decodeTableWord 56 0x150C1A0000202 = some (.cmpImmUnsigned ⟨⟨.a, false, 0⟩, 3, 3, 0x40000, 1⟩) := by decide

/-- Laid out from R281, R284, R286 and R287, with the code of R302 to R312. -/
theorem word_pandn : decodeTableWord 56 0x179C784000002 = some (.pandn ⟨⟨.a, false, 0⟩, 7, 15, 2⟩) := by decide

/-- Laid out from R281, R284, R286 and R287, with the code of R302 to R312. -/
theorem word_movToM : decodeTableWord 56 0x191F400000002 = some (.movToM ⟨⟨.a, false, 0⟩, 15, 40⟩) := by decide

/-- Laid out from R281, R284, R286 and R287, with the code of R302 to R312. -/
theorem word_br : decodeTableWord 56 0x200007FFE0001 = some (.br ⟨⟨.s, false, 0⟩, 0xFFFC0⟩) := by decide

/-- Laid out from R281, R284, R286 and R287, with the code of R302 to R312. -/
theorem word_loop : decodeTableWord 88 0x4000800220048000FF01 = some (.loop ⟨⟨.s, false, 0⟩, 9, 0x00400080, 127⟩) := by decide

/-- Laid out from R281, R284, R286 and R287, with the code of R302 to R312. -/
theorem word_ret : decodeTableWord 56 0x22100000000001 = some (.ret ⟨.s, false, 4⟩) := by decide

/-- Laid out from R281, R284, R286 and R287, with the code of R302 to R312. -/
theorem word_srd : decodeTableWord 56 0x240A000028001 = some (.srd ⟨⟨.s, false, 0⟩, 5, 0x050⟩) := by decide

/-- Laid out from R281, R284, R286 and R287, with the code of R302 to R312. -/
theorem word_swrBfmt : decodeTableWord 56 0x2480380015801 = some (.swrBfmt ⟨⟨.s, false, 0⟩, 7, 11⟩) := by decide

/-- Laid out from R281, R284, R286 and R287, with the code of R302 to R312. -/
theorem word_ldRaw : decodeTableWord 56 0x1904FFFFC404 = some (.ldRaw ⟨⟨.m, false, 0⟩, 8, 9, 0xFFFF8, 2⟩) := by decide

/-- Laid out from R281, R284, R286 and R287, with the code of R302 to R312. -/
theorem word_vstIndexed : decodeTableWord 56 0x628AAC003004 = some (.vstIndexed ⟨⟨.m, false, 0⟩, 20, 21, .reg 22, 3⟩) := by decide

/-- Laid out from R281, R284, R286 and R287, with the code of R302 to R312. -/
theorem word_stRawIndexed : decodeTableWord 56 0x402106000604 = some (.stRawIndexed ⟨⟨.m, false, 0⟩, 1, 2, .reg 3, 3⟩) := by decide

/-- Laid out from R281, R284, R286 and R287, with the code of R302 to R312. -/
theorem word_vfma : decodeTableWord 56 0x1302106205408 = some (.vfma ⟨⟨.v0, false, 0⟩, 1, 2, .reg 3, 4, false, true, 5⟩) := by decide

/-- Laid out from R281, R284, R286 and R287, with the code of R302 to R312. -/
theorem word_vcmpI32 : decodeTableWord 56 0x208D0C4001610 = some (.vcmpI32 ⟨⟨.v1, false, 0⟩, 3, 33, .reg 34, 3, 1⟩) := by decide

/-- Laid out from R281, R284, R286 and R287, with the code of R302 to R312. -/
theorem word_vcvt : decodeTableWord 56 0x2C79E8001F008 = some (.vcvt ⟨⟨.v0, false, 0⟩, 60, 61, 8, 15⟩) := by decide

/-- Laid out from R281, R284, R286 and R287, with the code of R302 to R312. -/
theorem word_vaddF32Imm : decodeTableWord 56 0x14145E0000010 = some (.vaddF32Imm ⟨⟨.v1, false, 0⟩, 10, 11, 0xC0000⟩) := by decide

/-- Laid out from R281, R284, R286 and R287, with the code of R302 to R312. -/
theorem word_xmovStart : decodeTableWord 56 0x300028C280A10 = some (.xmovStart ⟨⟨.v1, false, 0⟩, 5, 6, 5, 5, 0⟩) := by decide

/-- Laid out from R281, R284, R286 and R287, with the code of R302 to R312. -/
theorem word_xmovCollect : decodeTableWord 56 0x308E000400010 = some (.xmovCollect ⟨⟨.v1, false, 0⟩, 7, 8, 0⟩) := by decide

/-- Laid out from R281, R284, R286 and R287, with the code of R302 to R312. -/
theorem word_wload : decodeTableWord 56 0x480600001620 = some (.wload ⟨⟨.x, false, 0⟩, 12, 3, true⟩) := by decide

/-- Laid out from R281, R284, R286 and R287, with the code of R302 to R312. -/
theorem word_mcallSplit : decodeTableWord 56 0x700152A002C20 = some (.mcallSplit ⟨⟨.x, false, 0⟩, 0xA95, 6, 2⟩) := by decide

/-- Laid out from R281, R284, R286 and R287, with the code of R302 to R312. -/
theorem word_calWr : decodeTableWord 56 0x7180188000020 = some (.calWr ⟨⟨.x, false, 0⟩, 3, 4⟩) := by decide

/-- Laid out from R281, R284, R286 and R287, with the code of R302 to R312. -/
theorem word_pmpDec : decodeTableWord 56 0x20008418B840 = some (.pmpDec ⟨⟨.e, false, 0⟩, 1, 2, 3, 12, true, 2⟩) := by decide

/-- Laid out from R281, R284, R286 and R287, with the code of R302 to R312. -/
theorem word_ownTake : decodeTableWord 56 0x480000181040 = some (.ownTake ⟨⟨.e, false, 0⟩, 0x00302⟩) := by decide

/-- Laid out from R281, R284, R286 and R287, with the code of R302 to R312. -/
theorem word_txbWait : decodeTableWord 56 0x984380009040 = some (.txbWait ⟨⟨.e, false, 0⟩, 1, 7, 9⟩) := by decide

/-- Laid out from R281, R284, R286 and R287, with the code of R302 to R312. -/
theorem word_afaddb : decodeTableWord 56 0x110210621B840 = some (.afaddb ⟨⟨.e, false, 0⟩, 1, 2, 3, 4, 4, 3, 3⟩) := by decide

/-- Laid out from R281, R284, R286 and R287, with the code of R302 to R312. -/
theorem word_blkShare : decodeTableWord 56 0x2102106200040 = some (.blkShare ⟨⟨.e, false, 0⟩, 1, 2, 3, 4⟩) := by decide

/-- Laid out from R281, R284, R286 and R287, with the code of R302 to R312. -/
theorem word_pbarDurBarrier : decodeTableWord 56 0x7000880000240 = some (.pbarDurBarrier ⟨⟨.e, false, 0⟩, 17⟩) := by decide

/-- Laid out from R281, R284, R286 and R287, with the code of R302 to R312. -/
theorem word_fence : decodeTableWord 56 0x80000006080 = some (.fence ⟨⟨.y, false, 0⟩, 6⟩) := by decide

/-- Laid out from R281, R284, R286 and R287, with the code of R302 to R312. -/
theorem word_tsync : decodeTableWord 88 0xFFFFFFFF00100000000180 = some (.tsync ⟨⟨.y, false, 0⟩, .lit 0xFFFFFFFF⟩) := by decide

/-- Laid out from R281, R284, R286 and R287, with the code of R302 to R312. -/
theorem word_mhead : decodeTableWord 56 0x703C000000E80 = some (.mhead ⟨⟨.y, false, 0⟩, 30, 7⟩) := by decide

/-- Laid out from R281, R284, R286 and R287, with the code of R302 to R312. -/
theorem word_trap : decodeTableWord 56 0x800055E6F080 = some (.trap ⟨⟨.y, false, 0⟩, 0xABCDE⟩) := by decide

/-! ## Worked examples of the spec -/

/-- The bytes of a number in hexadecimal, first byte highest. -/
def bytesBE (n w : Nat) : List Byte := (natLE n w).reverse

/-- The bundle of "Worked example: one bundle" (15), byte for byte. -/
def bundleOf15 : List Byte :=
  bytesBE 29 0x1B_00000EA32020_E8FF7F042900_3004A2410001_0100808210B1_DB0F4940

/-- Its fields (15): (p4) ADD g5, g6, g7 in S. -/
theorem test_bundle_of_15 :
    (match decodeBundle bundleOf15 with
      | .error _ => false
      | .ok b => decide (b.len = 29) && decide (b.syls.map (fun y => y.decoded) =
          [.instr (.add ⟨⟨.s, false, 4⟩, 5, 6, .reg 7⟩), .instr (.addImm ⟨⟨.a, false, 0⟩, 8, 8, 0xFFFFD⟩),
           .instr (.vaddF32 ⟨⟨.v0, false, 0⟩, 2, 3, .const 17, 3⟩),
           .instr (.vmulF32 ⟨⟨.v1, true, 6⟩, 4, 5, .lit 0x40490FDB, 0⟩)])) = true := by decide

/-- A branch into the literal word of that bundle reads header 0xDB and overruns the line (15). -/
theorem test_overrun_of_15 :
    (match decodeBundle (bytesBE 7 0xDB0F4940_000000) with
      | .error e => decide (e = .overrun)
      | .ok _ => false) = true := by decide

/-- The four syllables of 16, in slot order, placed for the next step of core 0, whose handler is at 0x40. -/
def fourFates : State :=
  let s := State.reset.withFetchWord 200 (leNat ([0x8B] ++ natLE 6 0x81F800000000 ++ natLE 6 0x0140420A000C
    ++ natLE 6 0x030021002800 ++ natLE 6 0x072800000000))
  s.setCore 0 { s.core 0 with tvb := 0x40 }

/-- The core after a step. -/
def coreAfter (s : State) : Core :=
  match step s with
  | .next t => t.core 0
  | .fault _ | .refused _ => {}

/-- Slot S records ILLEGAL_OPCODE with its syllable and code 0x3F (16). -/
theorem test_four_fates : (coreAfter fourFates).trap.code = 0x01 ∧ (coreAfter fourFates).trap.slot = 0
    ∧ (coreAfter fourFates).trap.info = 0x81F800000000003F := by decide +kernel

/-- Error feedback on one group (03): the results and the residuals, mode RNE-EF into BF16. -/
theorem test_error_feedback :
    let x : Word32 := 0x3F804000
    let r0 := encodeElem 1 4 x .zero
    let r1 := encodeElem 1 4 x r0.2
    let r2 := encodeElem 1 4 x r1.2
    let r3 := encodeElem 1 4 x r2.2
    [r0.1, r1.1, r2.1, r3.1] = [0x3F80, 0x3F80, 0x3F81, 0x3F80] := by decide

/-- The fingerprint of 2^53, 1.0, NaN, 1.0, −0.5 (03). -/
theorem test_fingerprint :
    let f := ([0x5A000000, 0x3F800000, 0x7FC00000, 0x3F800000, 0xBF000000] : List Word32).foldl
      (fun f w => f.step (laneValue 0 w)) ({} : Fingerprint)
    f.nanCnt = 1 ∧ f.maxMag = 0x5A000000 ∧ f.sum = 0x4340000000000000 ∧ f.sumSq = 0x4690000000000000 := by
  decide +kernel

/-- In reverse order the small terms meet first (03). -/
theorem test_fingerprint_reversed :
    (([0xBF000000, 0x3F800000, 0x7FC00000, 0x3F800000, 0x5A000000] : List Word32).foldl
      (fun f w => f.step (laneValue 0 w)) ({} : Fingerprint)).sum = 0x4340000000000001 := by
  decide +kernel

/-- The table of 18: chords of x² at −2, −1, 0 and 1, in constants 16 to 23. -/
def chords : Core :=
  { core0 with c := [(16, 0x40800000), (17, 0xC0400000), (18, 0x3F800000), (19, 0xBF800000), (20, 0), (21, 0x3F800000),
                     (22, 0x3F800000), (23, 0x40400000)] }

/-- Lanes 0 to 3 of tie.ext and tie.clamp (18). -/
theorem test_tie :
    ([0x3F000000, 0xC0400000, 0x40A00000, 0x7FC00000] : List Word32).map (tieLane chords 0 0 0xC0000000 0x3F800000 16 4)
      = [0x3F000000, 0x40E00000, 0x41500000, 0x7FC00000]
    ∧ ([0x3F000000, 0xC0400000, 0x40A00000, 0x7FC00000] : List Word32).map (tieLane chords 0 1 0xC0000000 0x3F800000 16 4)
      = [0x3F000000, 0x40800000, 0x40800000, 0x7FC00000] := by decide

/-- rng.unif of counter 0 and seed 1 (18). -/
theorem test_rng : rngLane 1 0 1 = 0x3F05EFE5 := by decide

/-- The pool of 12: NSEQ 4, NLAYER 2, NBPS 8, NBLK 16, in a home at 0. -/
def pool12 : Pool := { va := 0, phys := 0, nseq := 4, nlayer := 2, nbps := 8, nblk := 16, arena := 0 }

/-- Its words before the first operation that reads them: FREECNT 16, the free list, names unmapped. -/
def home12 : State :=
  { State.reset with
    mem := { kmem := placedAt [(0x14, natLE 4 16), (0x4000, (List.range 16).flatMap (fun k =>
      natLE 4 (if k = 15 then 0xFFFF else k + 1))), (0x8000, (List.range 33).flatMap (fun _ => natLE 4 0xFFFF))] } }

/-- ALLOC, ALLOC, SHARE, FREE of the pool of 12, by their result words. -/
theorem test_pool :
    let a := blkAlloc home12 0 0 pool12 0x0
    let b := blkAlloc a.1 0 0 pool12 0x1
    let c := blkShare b.1 0 0 pool12 0x0 0x100000000
    let d := blkFree c.1 0 0 pool12 0x0
    [a.2, b.2, c.2, d.2] = [0x8000000000000000, 0x8000000000008000, 0x8000000000000000, 0x8000000000000000] := by
  decide +kernel

/-- The barrier of 10 in windows 500 to 512: a flip in 504, a time-out in 512, a stray flag in 513. -/
theorem test_barrier :
    let b := barApply 500 (barOf (List.replicate 16 0)) [.init 0 1 8]
    let b := barApply 501 b [.add (-32) 0]
    let b := barApply 501 b [.add 32 0]
    let f := barApply 504 b [.add 0 (-1)]
    let b := barApply 504 f [.add 0 1]
    let b := barApply 512 b [.abort 1]
    let b := barApply 513 b [.add 0 (-1)]
    f.phase = 1 ∧ f.dline = 512 ∧ b.sect = 0 ∧ b.arrv = 1 ∧ b.tmow = 8 ∧ b.dline = 512 ∧ b.acause = 1 ∧ b.stray = 1
      ∧ b.armed = true ∧ b.abort = true := by decide

/-! ## Single instructions -/

/-- The writes an instruction of core 0 leaves in flight. -/
def writes (i : Instr) (c : Core) : List RegWrite :=
  match exec i (at_ c) with
  | .next t => t.me.inflight.map (fun l => l.write)
  | .fault _ | .refused _ => []

/-- The code of the fault an instruction of core 0 ends its kernel with. -/
def ends (i : Instr) (c : Core) : Option Nat :=
  match exec i (at_ c) with
  | .next t => t.me.kfault.map (fun k => k.code)
  | .fault _ | .refused _ => none

/-- The sum wraps (R316). -/
theorem test_add_wraps : writes (.add ⟨on .s, 3, 1, .reg 2⟩) (regs 0xFFFFFFFFFFFFFFFF 2 0) = [.g 3 1] := by decide

/-- The quotient of the most negative number and −1 wraps, and a zero divisor gives all ones (R317). -/
theorem test_div_corners :
    writes (.div ⟨on .s, 3, 1, .reg 2⟩) (regs 0x8000000000000000 0xFFFFFFFFFFFFFFFF 0) = [.g 3 0x8000000000000000]
      ∧ writes (.divu ⟨on .s, 3, 1, .reg 2⟩) (regs 7 0 0) = [.g 3 0xFFFFFFFFFFFFFFFF] := by decide

/-- The remainder takes the sign of the dividend, −7 mod 2 being −1 (R317). -/
theorem test_rem_sign :
    writes (.rem ⟨on .s, 3, 1, .reg 2⟩) (regs (-7) 2 0) = [.g 3 0xFFFFFFFFFFFFFFFF] := by decide

/-- A compare writes a pair: the truth and its complement (R319). -/
theorem test_cmp_pair :
    writes (.cmp ⟨on .s, 2, 1, .reg 2, 2⟩) (regs (-1) 0 0) = [.p 4 true, .p 5 false] := by decide

/-- A slot whose guard fails does nothing (R288). -/
theorem test_guard_fails : writes (.add ⟨⟨.s, true, 0⟩, 3, 1, .reg 2⟩) (regs 1 2 0) = [] := by decide

/-- A raw load of a misaligned word traps, which ends the kernel while sr.tvb is 0 (R261, R306). -/
theorem test_load_misaligned : (ends (.ldRaw ⟨on .m, 3, 1, 0, 2⟩) (regs 2 0 0)).isSome = true := by decide

/-- A raw byte load reads the memory of the core (R306). -/
theorem test_load_byte :
    writes (.ldRaw ⟨on .m, 3, 1, 1, 0⟩) { regs 2 0 0 with priv := [(3, 0x5A)] } = [.g 3 0x5A] := by decide

/-- A branch keeps its target for the sequencer: the bundle's address plus the offset (R324). -/
theorem test_branch_target :
    (match exec (.br ⟨on .s, 0xFFFC0⟩) (at_ { core0 with cur := { addr := 128 } }) with
      | .next t => t.me.staged.branch
      | .fault _ | .refused _ => none) = some 64 := by decide

/-- TRAP takes its own exception: with sr.tvb 0 it ends the kernel, with sr.tvb set it enters the handler (R261, R264). -/
theorem test_trap :
    (ends (.trap ⟨on .y, 5⟩) core0).isSome = true
      ∧ (match exec (.trap ⟨on .y, 5⟩) (at_ { core0 with tvb := 64 }) with
        | .next t => decide (t.me.mode = .handler)
        | .fault _ | .refused _ => false) = true := by decide

end Sys2Proof.Tests
end

section
/-!
SUPPORT. Scalar instructions (R316, R317, R320, R321): what the three shared forms leave once their slot runs,
the model's arithmetic in the terms of the spec, and the opcodes of the moves between register files.
-/
namespace Sys2Proof.Proofs.Scalar
open Sys2Proof Sys2Proof.Machine

/-! ## The shared forms -/

/-- An instruction of the G3 form that runs puts its function of a and b on its way to gd. -/
theorem exec_scalar3 {i : Instr} {lat : Nat} {f : Word64 → Word64 → Word64} {o : G3} {s : State} {w : Word64}
    (e : exec i s = scalar3 lat f o s) (hr : slotRuns s o.hd (.g o.a.toNat :: opbReads o.b))
    (hw : f (gAt s.me o.a) (opbWord s.me o.b) = w) :
    exec i s = .next (staged s o.hd lat (.g o.d.toNat w)) := by
  subst hw
  exact exec_ok e hr rfl

/-- An instruction of the GI form that runs puts its function of a and the immediate on its way to gd. -/
theorem exec_scalarImm {i : Instr} {lat : Nat} {f : Word64 → Word64 → Word64} {o : GI} {s : State} {w : Word64}
    (e : exec i s = scalarImm lat f o s) (hr : slotRuns s o.hd [.g o.a.toNat])
    (hw : f (gAt s.me o.a) (o.imm.signExtend 64) = w) :
    exec i s = .next (staged s o.hd lat (.g o.d.toNat w)) := by
  subst hw
  exact exec_ok e hr rfl

/-- An instruction of the P3 form that runs puts its result and the complement on their way to a pair. -/
theorem exec_predicate3 {i : Instr} {op : Nat} {o : P3} {s : State} {t : Bool}
    (e : exec i s = predicate3 op o s) (hr : slotRuns s o.hd [.p o.a.toNat, .p o.b.toNat])
    (ht : predLogic op (pRead s.me o.a.toNat) (pRead s.me o.b.toNat) = t) :
    exec i s = .next (s.setMe (stagePair s s.me o.hd 1 o.d.toNat t)) := by
  subst ht
  exact exec_ok e hr rfl

/-! ## Smaller and larger -/

theorem minSigned_eq (a b : Word64) : minSigned a b = if a.toInt ≤ b.toInt then a else b := by
  simp only [minSigned, BitVec.slt_iff_toInt_lt, ← Int.not_le, ite_not]

theorem minUnsigned_eq (a b : Word64) : minUnsigned a b = if a.toNat ≤ b.toNat then a else b := by
  simp only [minUnsigned, BitVec.ult_iff_toNat_lt, ← Nat.not_le, ite_not]

/-- Where the model keeps a, a is not below b: both rules agree on equal operands. -/
theorem maxSigned_eq (a b : Word64) : maxSigned a b = if a.toInt ≤ b.toInt then b else a := by
  rcases Int.lt_trichotomy a.toInt b.toInt with h | h | h
  · simp [maxSigned, BitVec.slt_iff_toInt_lt, h, Int.le_of_lt h]
  · simp [maxSigned, BitVec.eq_of_toInt_eq h]
  · simp [maxSigned, BitVec.slt_iff_toInt_lt, Int.lt_asymm h, Int.not_le_of_gt h]

theorem maxUnsigned_eq (a b : Word64) : maxUnsigned a b = if a.toNat ≤ b.toNat then b else a := by
  rcases Nat.lt_trichotomy a.toNat b.toNat with h | h | h
  · simp [maxUnsigned, BitVec.ult_iff_toNat_lt, h, Nat.le_of_lt h]
  · simp [maxUnsigned, BitVec.eq_of_toNat_eq h]
  · simp [maxUnsigned, BitVec.ult_iff_toNat_lt, Nat.not_lt_of_gt h, Nat.not_le_of_gt h]

/-! ## Products of 128 bits (R316) -/

/-- The high half of a 128-bit word given as an integer is its quotient by 2^64, whatever the integer. -/
theorem high_ofInt (z : Int) :
    (BitVec.ofInt 128 z).extractLsb' 64 64 = BitVec.ofInt 64 (z / 2 ^ 64) := by
  apply BitVec.eq_of_toNat_eq
  simp only [BitVec.extractLsb'_toNat, BitVec.toNat_ofInt, Nat.shiftRight_eq_div_pow]
  omega

theorem mulHigh_eq (a b : Word64) :
    mulHigh a b = (a.signExtend 128 * b.signExtend 128).extractLsb' 64 64 := by
  rw [mulHigh, ← high_ofInt, BitVec.ofInt_mul]
  rfl

theorem mulHighUnsigned_eq (a b : Word64) :
    mulHighUnsigned a b = (a.setWidth 128 * b.setWidth 128).extractLsb' 64 64 := by
  have hp : a.setWidth 128 * b.setWidth 128 = BitVec.ofInt 128 (a.toNat * b.toNat) := by
    rw [← Int.natCast_mul, BitVec.ofInt_natCast, BitVec.ofNat_mul, BitVec.ofNat_toNat, BitVec.ofNat_toNat]
  rw [hp, high_ofInt]
  rfl

/-- The low half does not depend on how the factors are widened. -/
theorem mul_eq_low (a b : Word64) : a * b = (a.setWidth 128 * b.setWidth 128).extractLsb' 0 64 := by
  rw [← BitVec.setWidth_eq_extractLsb' (by decide), BitVec.setWidth_mul _ _ (by decide),
    BitVec.setWidth_setWidth_of_le _ (by decide), BitVec.setWidth_setWidth_of_le _ (by decide),
    BitVec.setWidth_eq, BitVec.setWidth_eq]

/-! ## Quotients and remainders (R317) -/

/-- The corner of a signed division: the most negative number by −1. -/
theorem corner_iff (a b : Word64) :
    (a = 0x8000000000000000 ∧ b = 0xFFFFFFFFFFFFFFFF) ↔ (a.toInt = -2 ^ 63 ∧ b.toInt = -1) := by
  simp only [← BitVec.toInt_inj]
  rfl

theorem divSigned_eq (a b : Word64) :
    divSigned a b = if b = 0 then -1 else if a.toInt = -2 ^ 63 ∧ b.toInt = -1 then a else a.sdiv b := by
  have hq : BitVec.ofInt 64 (a.toInt.tdiv b.toInt) = a.sdiv b := by
    apply BitVec.eq_of_toInt_eq
    rw [BitVec.toInt_ofInt, BitVec.toInt_sdiv]
  simp only [divSigned, corner_iff, hq]
  split
  · rfl
  · split
    next hc => exact ((corner_iff a b).mpr hc).1.symm
    next => rfl

theorem remSigned_eq (a b : Word64) :
    remSigned a b = if b = 0 then a else if a.toInt = -2 ^ 63 ∧ b.toInt = -1 then 0 else a.srem b := by
  simp only [remSigned, corner_iff, ← BitVec.toInt_srem, BitVec.ofInt_toInt]

/-- In the corners too, the remainder is that of the integers. -/
theorem toInt_remSigned (a b : Word64) : (remSigned a b).toInt = a.toInt.tmod b.toInt := by
  rw [remSigned_eq, ← BitVec.toInt_srem]
  split
  next h0 => simp [h0]
  next =>
    split
    next hc => simp [BitVec.toInt_srem, hc]
    next => rfl

theorem divUnsigned_eq (a b : Word64) : divUnsigned a b = if b = 0 then -1 else a / b := by
  rw [divUnsigned, BitVec.udiv_def]
  rfl

theorem remUnsigned_eq (a b : Word64) : remUnsigned a b = if b = 0 then a else a % b := by
  rw [remUnsigned, BitVec.umod_def]

/-- A remainder other than 0 has the sign of the dividend. -/
theorem tmod_neg_iff (x y : Int) (h : x.tmod y ≠ 0) : x.tmod y < 0 ↔ x < 0 := by
  have hd : ¬ y ∣ x := fun hd => h (Int.dvd_iff_tmod_eq_zero.mp hd)
  rw [← Int.sign_eq_neg_one_iff_neg, Int.sign_tmod, if_neg hd, Int.sign_eq_neg_one_iff_neg]

/-! ## Opcodes 0x30 to 0x36 (R302, R321) -/

/-- The rows that slot S can name have no opcode from 0x30 to 0x36. -/
theorem rowsOfS_skip_moves :
    ∀ r ∈ opRows .s, r.slots.contains .s = true → r.code.toNat < 0x30 ∨ 0x36 < r.code.toNat := by
  decide

theorem findRow_s_moves {op : BitVec 8} (h1 : 0x30 ≤ op.toNat) (h2 : op.toNat ≤ 0x36) : findRow .s op = none := by
  rw [findRow, List.find?_eq_none]
  intro r hr hc
  simp only [Bool.and_eq_true, beq_iff_eq] at hc
  obtain ⟨hs, rfl⟩ := hc
  have := rowsOfS_skip_moves r hr hs
  omega

theorem decode_unassigned {sl : Slot} {w : BitVec 48} {lit : Word32} (h0 : (unpackFields w).op ≠ 0)
    (hrow : findRow sl (unpackFields w).op = none) (hlt : (unpackFields w).op.toNat < 0xE0) :
    decodeSyllable sl w lit = .unassigned := by
  simp only [decodeSyllable, beq_iff_eq, h0, hrow, if_false, ge_iff_le, Nat.not_le.mpr hlt]

/-- A field fault of the row found is what the syllable decodes to. -/
theorem decode_fault {sl : Slot} {w : BitVec 48} {lit : Word32} {r : OpRow} {n : Nat} (h0 : (unpackFields w).op ≠ 0)
    (hrow : findRow sl (unpackFields w).op = some r) (hsub : r.subcode (unpackFields w) = n + 1) :
    decodeSyllable sl w lit = .fieldFault (n + 1) := by
  simp only [decodeSyllable, beq_iff_eq, h0, hrow, hsub, if_false]

/-- The row of MOV gd, lck (R321). -/
abbrev rowMovFromLc : OpRow :=
  { slots := [.a], code := 0x36, d := .any, a := .lc6, build := fun h f _ => .movFromLc ⟨h, f.d, f.a⟩ }

/-- An a field out of its file's range raises subcode 1, the lowest (R287). -/
theorem subcode_of_a_outOfRange {r : OpRow} {f : Fields} (h : r.a.outOfRange f.a = true) : r.subcode f = 1 := by
  simp [OpRow.subcode, h]

/-! ## The statements -/

/-- Settles O6: the instruction's shared form, at the model's function in the terms of the spec. -/
theorem scalarArithmetic : Obligations.ScalarArithmetic := by
  refine ⟨fun _ _ hr => ?_, fun _ _ hr => ?_, fun _ _ hr => ?_⟩
  · exact ⟨exec_scalar3 rfl hr rfl, exec_scalar3 rfl hr rfl, exec_scalar3 rfl hr rfl, exec_scalar3 rfl hr rfl,
      exec_scalar3 rfl hr rfl, exec_scalar3 rfl hr rfl, exec_scalar3 rfl hr rfl, exec_scalar3 rfl hr rfl,
      exec_scalar3 rfl hr (minSigned_eq _ _), exec_scalar3 rfl hr (maxSigned_eq _ _),
      exec_scalar3 rfl hr (minUnsigned_eq _ _), exec_scalar3 rfl hr (maxUnsigned_eq _ _)⟩
  · exact ⟨exec_scalarImm rfl hr rfl, exec_scalarImm rfl hr rfl, exec_scalarImm rfl hr rfl, exec_scalarImm rfl hr rfl,
      exec_scalarImm rfl hr rfl, exec_scalarImm rfl hr rfl, exec_scalarImm rfl hr rfl, exec_scalarImm rfl hr rfl,
      exec_scalarImm rfl hr rfl⟩
  · exact ⟨exec_scalar3 rfl hr (mul_eq_low _ _), exec_scalar3 rfl hr (mulHigh_eq _ _),
      exec_scalar3 rfl hr (mulHighUnsigned_eq _ _)⟩

/-- Settles O7: each function of the model is the spec's, its corners decided as the spec decides them, and a
remainder other than 0 has the sign of the dividend. -/
theorem divisionAndRemainder : Obligations.DivisionAndRemainder := by
  intro s o hr
  refine ⟨exec_scalar3 rfl hr (divSigned_eq _ _), exec_scalar3 rfl hr (remSigned_eq _ _),
    exec_scalar3 rfl hr (divUnsigned_eq _ _), exec_scalar3 rfl hr (remUnsigned_eq _ _),
    _, exec_scalar3 rfl hr rfl, ?_⟩
  rw [toInt_remSigned]
  exact tmod_neg_iff _ _

/-- Settles O9: each move is its slot's effect on the register it names; slot S has no row for these opcodes, and a
level of 6 or above is out of the range of the row of 0x36. -/
theorem movesBetweenFiles : Obligations.MovesBetweenFiles := by
  refine ⟨fun _ _ hr => exec_ok rfl hr rfl, fun _ _ hr => exec_ok rfl hr rfl, fun _ _ hr => exec_ok rfl hr rfl,
    fun _ _ hr => exec_ok rfl hr rfl, fun _ _ hr => exec_ok rfl hr rfl, fun _ _ hr => exec_ok rfl hr rfl,
    fun _ _ hr => exec_ok rfl hr rfl, fun _ _ _ => ⟨rfl, fun _ => rfl⟩,
    fun _ _ _ _ _ => ⟨rfl, rfl, rfl, rfl, rfl, rfl, rfl⟩, fun w _ h1 h2 => ?_, fun w _ hop ha => ?_⟩
  · have h0 : (unpackFields w).op ≠ 0 := by
      intro h
      simp [h] at h1
    exact decode_unassigned h0 (findRow_s_moves h1 h2) (by omega)
  · have h0 : (unpackFields w).op ≠ 0 := by rw [hop]; decide
    have hrow : findRow .a (unpackFields w).op = some rowMovFromLc := by rw [hop]; rfl
    exact decode_fault h0 hrow (subcode_of_a_outOfRange (by simpa [FieldKind.outOfRange] using ha))

/-- Settles O10: the shared form of R320 at each of its four operations. -/
theorem predicateLogic : Obligations.PredicateLogic :=
  ⟨fun _ _ hr => ⟨exec_predicate3 rfl hr rfl, exec_predicate3 rfl hr rfl, exec_predicate3 rfl hr rfl,
      exec_predicate3 rfl hr rfl⟩,
    fun _ => ⟨rfl, rfl⟩, fun _ => ⟨rfl, rfl, rfl, rfl⟩⟩

end Sys2Proof.Proofs.Scalar
end

section
/-!
SUPPORT. Vector compares, selects and permutes (R342 to R344): the bits of a lane mask, the conditions of R304 on
one lane, and the mask register under a write.
-/
namespace Sys2Proof.Proofs.Vector
open Sys2Proof Sys2Proof.Machine

/-! ## The bits of a mask made lane by lane -/

/-- The sum that `mkMask` takes over its 64 lanes, over the first n. -/
def maskSum (f : Nat → Bool) (n : Nat) : Nat :=
  (List.range n).foldl (fun acc i => if f i then acc + 2 ^ i else acc) 0

theorem mkMask_eq (f : Nat → Bool) : mkMask f = BitVec.ofNat 64 (maskSum f 64) := rfl

theorem maskSum_succ (f : Nat → Bool) (n : Nat) :
    maskSum f (n + 1) = if f n then maskSum f n + 2 ^ n else maskSum f n := by
  simp [maskSum, List.range_succ]

theorem maskSum_lt (f : Nat → Bool) (n : Nat) : maskSum f n < 2 ^ n := by
  induction n with
  | zero => exact Nat.one_pos
  | succ n ih =>
    rw [maskSum_succ]
    split <;> omega

/-- The power added at lane n meets no bit set before it. -/
theorem testBit_maskSum (f : Nat → Bool) (n i : Nat) : (maskSum f n).testBit i = (decide (i < n) && f i) := by
  induction n with
  | zero => simp [maskSum]
  | succ n ih =>
    have hor : maskSum f n + 2 ^ n = 2 ^ n ||| maskSum f n := by
      rw [Nat.add_comm]
      simpa using Nat.two_pow_add_eq_or_of_lt (maskSum_lt f n) 1
    rw [maskSum_succ]
    rcases Nat.lt_trichotomy i n with h | rfl | h
    · have hi : i < n + 1 := by omega
      split <;> simp [hor, ih, h, hi, Nat.ne_of_gt h]
    · split <;> simp [*]
    · have hi : ¬ i < n + 1 := by omega
      split <;> simp [hor, ih, hi, Nat.ne_of_lt h, Nat.not_lt_of_gt h]

theorem getLsbD_mkMask (f : Nat → Bool) {i : Nat} (hi : i < 64) : (mkMask f).getLsbD i = f i := by
  simp only [mkMask_eq, BitVec.getLsbD_ofNat, testBit_maskSum, hi, decide_true, Bool.true_and]

/-! ## The conditions on one lane (R304, R342) -/

theorem cc_cases {cc : BitVec 3} (h : cc.toNat < 4) : cc = 0 ∨ cc = 1 ∨ cc = 2 ∨ cc = 3 := by
  revert cc
  decide

theorem laneCondI32_eq {cc : BitVec 3} (h : cc.toNat < 4) (a b : Word32) :
    laneCondI32 cc.toNat a b = if cc = 0 then decide (a = b) else if cc = 1 then !decide (a = b)
      else if cc = 2 then decide (a.toInt < b.toInt) else !decide (a.toInt < b.toInt) := by
  rcases cc_cases h with rfl | rfl | rfl | rfl <;> rfl

theorem laneCondN32_eq {cc : BitVec 3} (h : cc.toNat < 4) (a b : Word32) :
    laneCondN32 cc.toNat a b = if cc = 0 then decide (a = b) else if cc = 1 then !decide (a = b)
      else if cc = 2 then decide (a.toNat < b.toNat) else !decide (a.toNat < b.toNat) := by
  rcases cc_cases h with rfl | rfl | rfl | rfl <;> rfl

theorem eq_nan_of_isNaN {x : Machine.Num} (h : x.isNaN = true) : x = .nan := by
  cases x with
  | nan => rfl
  | inf | fin => exact absurd h Bool.false_ne_true

theorem lt_nan (x : Machine.Num) : x.lt .nan = false := by
  cases x <;> rfl

/-- A NaN is below nothing, and nothing is below it. -/
theorem lt_eq_false_of_isNaN {x y : Machine.Num} (h : (x.isNaN || y.isNaN) = true) : x.lt y = false := by
  rcases Bool.or_eq_true_iff.mp h with h | h <;> rw [eq_nan_of_isNaN h]
  · rfl
  · exact lt_nan x

theorem eqv_eq_false_of_isNaN {x y : Machine.Num} (h : (x.isNaN || y.isNaN) = true) : x.eqv y = false := by
  rcases Bool.or_eq_true_iff.mp h with h | h <;> simp [Machine.Num.eqv, h]

theorem laneCondF32_of_isNaN {cc : BitVec 3} (h : cc.toNat < 4) {a b : Word32}
    (hn : (f32IsNaN a || f32IsNaN b) = true) : laneCondF32 cc.toNat a b = decide (cc = 1) := by
  rcases cc_cases h with rfl | rfl | rfl | rfl
  · exact eqv_eq_false_of_isNaN hn
  · exact congrArg not (eqv_eq_false_of_isNaN hn)
  · exact lt_eq_false_of_isNaN hn
  · rcases Bool.or_eq_true_iff.mp hn with h | h <;> simp_all [laneCondF32, f32IsNaN]

theorem laneCondF32_of_not_isNaN {cc : BitVec 3} (h : cc.toNat < 4) {a b : Word32}
    (hn : (f32IsNaN a || f32IsNaN b) = false) :
    laneCondF32 cc.toNat a b = if cc = 0 then (f32Val a).eqv (f32Val b)
      else if cc = 1 then !(f32Val a).eqv (f32Val b)
      else if cc = 2 then (f32Val a).lt (f32Val b) else !(f32Val a).lt (f32Val b) := by
  obtain ⟨ha, hb⟩ := Bool.or_eq_false_iff.mp hn
  rcases cc_cases h with rfl | rfl | rfl | rfl
  · rfl
  · rfl
  · rfl
  · simp_all [laneCondF32, f32IsNaN]

theorem laneCondF32_eq {cc : BitVec 3} (h : cc.toNat < 4) (a b : Word32) :
    laneCondF32 cc.toNat a b = if f32IsNaN a || f32IsNaN b then decide (cc = 1)
      else if cc = 0 then (f32Val a).eqv (f32Val b)
      else if cc = 1 then !(f32Val a).eqv (f32Val b)
      else if cc = 2 then (f32Val a).lt (f32Val b) else !(f32Val a).lt (f32Val b) := by
  split
  next hn => exact laneCondF32_of_isNaN h hn
  next hn => exact laneCondF32_of_not_isNaN h (Bool.eq_false_iff.mpr hn)

/-! ## The shared form of VCMP -/

/-- A VCMP that runs puts a mask pair on its way whose even mask holds the condition of each lane. -/
theorem exec_vectorCmp {i : Instr} {f : Nat → Word32 → Word32 → Bool} {o : VCmpOps} {s : State}
    (e : exec i s = vectorCmp f o s) (hr : slotRuns s o.hd (.v o.a.toNat :: .m o.lm.toNat :: opbLaneReads o.b)) :
    ∃ t, exec i s = .next (s.setMe (putMaskPair s s.me o.hd o.d (mRead s.me o.lm.toNat) t))
      ∧ ∀ n, n < 64 → t.getLsbD n = f o.cc.toNat (lane (vAt s.me o.a) n) (lane (opbLanes s.me o.b) n) :=
  ⟨_, exec_ok e hr rfl, fun _ hn => getLsbD_mkMask _ hn⟩

/-! ## Mask registers under a write (R285, R286) -/

theorem mRead_applyWrite_same (c : Core) (mask w : Word64) {r : Nat} (h : r ≠ 0) :
    mRead (applyWrite c (.m r mask w)) r = (mRead c r &&& ~~~mask) ||| (w &&& mask) := by
  simp [applyWrite, mRead, h]

theorem mRead_applyWrite_other (c : Core) (mask w : Word64) {q r : Nat} (h : q ≠ r ∨ r = 0) :
    mRead (applyWrite c (.m r mask w)) q = mRead c q := by
  by_cases hr : r = 0
  · simp [applyWrite, hr]
  · have hq : q ≠ r := h.resolve_right hr
    simp [applyWrite, mRead, hr, tget_tset_ne _ _ _ hq]

/-! ## The index of VPERM (R344) -/

theorem shiftRight_six_eq_zero_iff (k : Word32) : k >>> 6 = 0 ↔ k.toNat < 64 := by
  rw [← BitVec.toNat_inj, BitVec.toNat_ushiftRight, Nat.shiftRight_eq_div_pow]
  change k.toNat / 64 = 0 ↔ _
  omega

/-- An index that selects a lane is its own low six bits. -/
theorem permLanes_eq (a b : Lanes) :
    permLanes a b = mkLanes (fun i =>
      let k := lane b i
      if k >>> 6 = 0 then lane a (k.toNat % 64) else 0) := by
  rw [permLanes]
  congr 1
  funext i
  simp only [shiftRight_six_eq_zero_iff]
  split
  next h => rw [Nat.mod_eq_of_lt h]
  next => rfl

/-! ## The statements -/

/-- Settles O19: the shared form of VCMP at the condition of each type, and the rules of a mask write. -/
theorem vectorCompares : Obligations.VectorCompares := by
  refine ⟨fun s o hr hcc => ⟨?_, ?_, ?_⟩, rfl,
    fun c mask w r => ⟨mRead_applyWrite_same c mask w, fun _ => mRead_applyWrite_other c mask w⟩,
    fun _ => ⟨rfl, rfl, rfl⟩⟩
  · obtain ⟨t, ht, hbits⟩ := exec_vectorCmp (i := .vcmpI32 o) rfl hr
    exact ⟨t, ht, fun n hn => (hbits n hn).trans (laneCondI32_eq hcc _ _)⟩
  · obtain ⟨t, ht, hbits⟩ := exec_vectorCmp (i := .vcmpN32 o) rfl hr
    exact ⟨t, ht, fun n hn => (hbits n hn).trans (laneCondN32_eq hcc _ _)⟩
  · obtain ⟨t, ht, hbits⟩ := exec_vectorCmp (i := .vcmpF32 o) rfl hr
    exact ⟨t, ht, fun n hn => (hbits n hn).trans (laneCondF32_eq hcc _ _)⟩

/-- Settles O20: VSEL merges its operands under mc, and VPERM's lanes are those of its index's low six bits. -/
theorem vectorSelectAndPermute : Obligations.VectorSelectAndPermute := by
  refine ⟨fun _ _ hr => exec_ok rfl hr rfl, fun s o hr => ?_⟩
  rw [← permLanes_eq]
  exact exec_ok rfl hr rfl

end Sys2Proof.Proofs.Vector
end
